-- ==== Sys2Proof/Word.lean ====
section
/-! DEFINITION. The word types of the device (R2, R6): byte, 64-bit word, 48-byte beat. -/

namespace Sys2Proof

abbrev Byte := BitVec 8
abbrev Word := BitVec 64
/-- A beat: the 48-byte payload of one token (R6), byte 0 in bits [7:0] (R2). -/
abbrev Beat := BitVec 384

end Sys2Proof
end

