-- ==== Sys2Proof/Syntax.lean ====
section
/-! DEFINITION. The instruction set and the steps of the device: one constructor per row of spec/opcode_table.json.
Words carry the fields of R197, R199 and R205; the device's own steps carry what arrives with them or name what they act on. -/

namespace Sys2Proof

/-- The fields every block word has (R197): function code, predicate mode, targets. -/
structure Hd where
  fn : BitVec 6
  pm : BitVec 2
  ta : BitVec 9
  tb : BitVec 9
deriving DecidableEq, Repr

/-- Payload format A (R199). -/
structure FmtA where
  vci : BitVec 5
  vco : BitVec 5
  ims : Bool
  rnd : BitVec 3
  imm : BitVec 16
deriving DecidableEq, Repr

/-- Payload format M (R199). -/
structure FmtM where
  vc : BitVec 5
  msq : BitVec 7
  scope : BitVec 2
  space : BitVec 3
  off : BitVec 13
deriving DecidableEq, Repr

/-- Payload format C (R199). -/
structure FmtC where
  exn : BitVec 3
  boff : BitVec 27
deriving DecidableEq, Repr

/-- Payload format K (R199). -/
structure FmtK where
  keyvc : BitVec 5
  sel : BitVec 6
  k : BitVec 6
  score : BitVec 3
  mode : BitVec 2
  filt : BitVec 8
deriving DecidableEq, Repr

/-- Payload format X (R199). -/
structure FmtX where
  id : BitVec 8
  aux : BitVec 22
deriving DecidableEq, Repr

/-- What a write through one of the module's two host ports (R10) carries, and the port. -/
structure Posted (α : Type) where
  port : Bool
  val : α
deriving DecidableEq, Repr

/-- The fields of a sequencer word (R205); `rsvA` and `rsvB` are its reserved bits [49:48] and [32]. -/
structure SeqW where
  fn : BitVec 6
  rsvA : BitVec 2
  da : BitVec 7
  db : BitVec 7
  imb : Bool
  rsvB : Bool
  imm : BitVec 32
deriving DecidableEq, Repr

/-- Where a token that has not reached its node waits: a node's output latch, the network, a receive partition. -/
inductive TokenSite where
  | latch | net | part
deriving DecidableEq, Repr

/-- Names one block instance: die, wafer, context slot, and the (LVL, TAG, GEN) of R19. -/
structure Who where
  die : Nat
  wafer : Nat
  slot : Nat
  lvl : BitVec 3
  tag : BitVec 8
  gen : BitVec 2
deriving DecidableEq, Repr

/-- What a TDISP request asks of a partition's TDI (R348); `bad` is one that breaks the protocol (R401). -/
inductive TdispReq where
  | lock | start | bad
deriving DecidableEq, Repr

/-- An SPDM request at the mailbox of one host port (R349): responder slot and its parameter. -/
structure SpdmReq where
  port : Bool
  slot : Nat
  param : Nat
deriving DecidableEq, Repr

/-- What a message of an Evoloth binding says (R165 to R169, R151, R174, R176, R398, R403, R404). How the 48-byte payloads of its flits
say it is private to the links (Config.payloads, log entry 149); `rid` pairs an answer with its request. -/
inductive FlitBody where
  | read (rid pa : Nat) (vc : BitVec 5) (step : BitVec 32)
  | readAnswer (rid : Nat) (data : Beat) (poi : Bool)
  | record (rid : Nat) (rec : BitVec 768)
  | accepted (rid : Nat) (refused : Bool) (old : Beat) (poi : Bool)
  | ship (rid : Nat) (step : BitVec 32) (pas : List Nat)
  | rows (rid : Nat) (beats : List (Beat × Bool))
  | barrier (part : Nat) (down : Bool) (step : BitVec 32) (mods : Nat)
  | collUp (part id : Nat) (fn : BitVec 6) (vc : BitVec 5) (beats : List Beat)
  | collDown (part id : Nat) (beats : List Beat) (ok : Bool)
  | heartbeat
  | fence
  /-- A line for the copy area, or from it when `place` is `pa`, with the offsets of its poisoned sectors. -/
  | buddy (pa place : Nat) (bytes : List Byte) (poi : List Nat)
  | buddyAck
  /-- STEP of a domain as of the copies, kept at the buddy, or sent from there to a spare (R405). -/
  | buddyStep (p : Nat) (step : BitVec 32) (back : Bool)
  /-- The receiver of a dropped flit asks for a replay from that SEQ (R398). -/
  | replay (seq : BitVec 16)
  /-- A merge node's fetch for an instance (R307) from store `gid`, one value beat or the whole SOFT result, and what comes back: none when the
  buffer lacks it. -/
  | fetch (rid gid inst : Nat) (rank : Option Nat)
  | fetched (rid : Nat) (res : Option (List Beat × List Nat))
  /-- The buffer that store `gid` holds for an instance is released; a score offered to a register of its wafer. -/
  | unfeed (gid inst : Nat)
  | offer (gid treg : Nat) (val : BitVec 48)
deriving DecidableEq, Repr

/-- One Evoloth flit (R167): the 16 bytes of overhead and the 48-byte payload, of a received one as FEC corrected it; `fecOk` is whether
it could. -/
structure Flit where
  fecOk : Bool
  fec : BitVec 64
  seq : BitVec 16
  pmac : BitVec 40
  ciph : Bool
  last : Bool
  crd : BitVec 6
  payload : Beat
deriving DecidableEq, Repr

/-- The steps of recovery (R405). -/
inductive RecoveryStep where
  | fence | remap (lmod : BitVec 8) | reload (die task : Nat) | restore | resume
deriving DecidableEq, Repr

/-- One constructor per row of spec/opcode_table.json. -/
inductive Instr where
  /-- MOV_COPY (R213). -/
  | movCopy (h : Hd) (a : FmtA)
  /-- MOV_IMMEDIATE (R213). -/
  | movImmediate (h : Hd) (a : FmtA)
  /-- MOVI (R214). -/
  | movi (h : Hd) (i : BitVec 30)
  /-- MOVHI (R214). -/
  | movhi (h : Hd) (i : BitVec 30)
  /-- FAN (R215). -/
  | fan (h : Hd) (i : BitVec 30)
  /-- DROP (R215). -/
  | drop (h : Hd) (i : BitVec 30)
  /-- STEER (R216). -/
  | steer (h : Hd) (i : BitVec 30)
  /-- MERGE (R218). -/
  | merge (h : Hd) (i : BitVec 30)
  /-- MRGO (R219). -/
  | mrgo (h : Hd) (i : BitVec 30)
  /-- SEL (R217). -/
  | sel (h : Hd) (i : BitVec 30)
  /-- PLOG (R220). -/
  | plog (h : Hd) (i : BitVec 30)
  /-- TAGA (R222). -/
  | taga (h : Hd) (i : BitVec 30)
  /-- TAGF (R226). -/
  | tagf (h : Hd) (i : BitVec 30)
  /-- TAGX_DOWN (R223). -/
  | tagxDown (h : Hd) (i : BitVec 30)
  /-- TAGX_UP (R223). -/
  | tagxUp (h : Hd) (i : BitVec 30)
  /-- WADV (R224). -/
  | wadv (h : Hd) (i : BitVec 30)
  /-- GATE (R225). -/
  | gate (h : Hd) (i : BitVec 30)
  /-- EXIT (R228). -/
  | exit (h : Hd) (c : FmtC)
  /-- BRB (R228). -/
  | brb (h : Hd) (c : FmtC)
  /-- RDK (R229). -/
  | rdk (h : Hd) (i : BitVec 30)
  /-- WRK (R229). -/
  | wrk (h : Hd) (i : BitVec 30)
  /-- CNST (R230). -/
  | cnst (h : Hd) (i : BitVec 30)
  /-- ORD (R231). -/
  | ord (h : Hd) (i : BitVec 30)
  /-- IDX (R232). -/
  | idx (h : Hd) (a : FmtA)
  /-- STRM (R233). -/
  | strm (h : Hd) (x : FmtX)
  /-- EOSD (R234). -/
  | eosd (h : Hd) (x : FmtX)
  /-- ADD (R236). -/
  | iadd (h : Hd) (a : FmtA)
  /-- SUB (R236). -/
  | isub (h : Hd) (a : FmtA)
  /-- MUL (R236). -/
  | imul (h : Hd) (a : FmtA)
  /-- MULH (R236). -/
  | imulh (h : Hd) (a : FmtA)
  /-- MAD (R236). -/
  | imad (h : Hd) (a : FmtA)
  /-- DIV (R237). -/
  | idiv (h : Hd) (a : FmtA)
  /-- REM (R237). -/
  | irem (h : Hd) (a : FmtA)
  /-- NEG (R236). -/
  | ineg (h : Hd) (a : FmtA)
  /-- ABS (R236). -/
  | iabs (h : Hd) (a : FmtA)
  /-- MIN (R236). -/
  | imin (h : Hd) (a : FmtA)
  /-- MAX (R236). -/
  | imax (h : Hd) (a : FmtA)
  /-- AND (R236). -/
  | iand (h : Hd) (a : FmtA)
  /-- OR (R236). -/
  | ior (h : Hd) (a : FmtA)
  /-- XOR (R236). -/
  | ixor (h : Hd) (a : FmtA)
  /-- NOT (R236). -/
  | inot (h : Hd) (a : FmtA)
  /-- SHL (R238). -/
  | ishl (h : Hd) (a : FmtA)
  /-- SHR (R238). -/
  | ishr (h : Hd) (a : FmtA)
  /-- SAR (R238). -/
  | isar (h : Hd) (a : FmtA)
  /-- ROT (R238). -/
  | irot (h : Hd) (a : FmtA)
  /-- CLZ (R236). -/
  | iclz (h : Hd) (a : FmtA)
  /-- POPC (R236). -/
  | ipopc (h : Hd) (a : FmtA)
  /-- BFX (R239). -/
  | ibfx (h : Hd) (a : FmtA)
  /-- BFI (R239). -/
  | ibfi (h : Hd) (a : FmtA)
  /-- CMP (R240). -/
  | icmp (h : Hd) (a : FmtA)
  /-- ADDI (R236). -/
  | addi (h : Hd) (a : FmtA)
  /-- LEA (R236). -/
  | lea (h : Hd) (a : FmtA)
  /-- AFF (R241). -/
  | aff (h : Hd) (a : FmtA)
  /-- CLAMP (R236). -/
  | clamp (h : Hd) (a : FmtA)
  /-- FADD (R246). -/
  | fadd (h : Hd) (a : FmtA)
  /-- FSUB (R246). -/
  | fsub (h : Hd) (a : FmtA)
  /-- FMUL (R246). -/
  | fmul (h : Hd) (a : FmtA)
  /-- FMA (R246). -/
  | fma (h : Hd) (a : FmtA)
  /-- FMIN (R247). -/
  | fmin (h : Hd) (a : FmtA)
  /-- FMAX (R247). -/
  | fmax (h : Hd) (a : FmtA)
  /-- FABS (R246). -/
  | fabs (h : Hd) (a : FmtA)
  /-- FNEG (R246). -/
  | fneg (h : Hd) (a : FmtA)
  /-- FCMP (R247). -/
  | fcmp (h : Hd) (a : FmtA)
  /-- FCVT (R249). -/
  | fcvt (h : Hd) (a : FmtA)
  /-- FRCP (R246). -/
  | frcp (h : Hd) (a : FmtA)
  /-- FRSQ (R246). -/
  | frsq (h : Hd) (a : FmtA)
  /-- FEX2 (R246). -/
  | fex2 (h : Hd) (a : FmtA)
  /-- FLG2 (R246). -/
  | flg2 (h : Hd) (a : FmtA)
  /-- FTNH (R246). -/
  | ftnh (h : Hd) (a : FmtA)
  /-- FEXS (R246). -/
  | fexs (h : Hd) (a : FmtA)
  /-- FSCL (R250). -/
  | fscl (h : Hd) (a : FmtA)
  /-- ITOF (R249). -/
  | itof (h : Hd) (a : FmtA)
  /-- FTOI (R249). -/
  | ftoi (h : Hd) (a : FmtA)
  /-- FRND (R246). -/
  | frnd (h : Hd) (a : FmtA)
  /-- VBCST (R251). -/
  | vbcst (h : Hd) (a : FmtA)
  /-- VSHUF (R251). -/
  | vshuf (h : Hd) (a : FmtA)
  /-- VRED (R253). -/
  | vred (h : Hd) (a : FmtA)
  /-- VSCAN (R253). -/
  | vscan (h : Hd) (a : FmtA)
  /-- VDOT (R253). -/
  | vdot (h : Hd) (a : FmtA)
  /-- VCMPR (R251). -/
  | vcmpr (h : Hd) (a : FmtA)
  /-- VEXPD (R251). -/
  | vexpd (h : Hd) (a : FmtA)
  /-- VPACK (R252). -/
  | vpack (h : Hd) (a : FmtA)
  /-- VUNPK (R252). -/
  | vunpk (h : Hd) (a : FmtA)
  /-- VSELM (R251). -/
  | vselm (h : Hd) (a : FmtA)
  /-- VLANE (R251). -/
  | vlane (h : Hd) (a : FmtA)
  /-- VIOTA (R251). -/
  | viota (h : Hd) (a : FmtA)
  /-- VCSET (R254). -/
  | vcset (h : Hd) (i : BitVec 30)
  /-- VCGET (R254). -/
  | vcget (h : Hd) (i : BitVec 30)
  /-- HDR (R255). -/
  | hdr (h : Hd) (a : FmtA)
  /-- QNT (R256). -/
  | qnt (h : Hd) (a : FmtA)
  /-- DQNT (R257). -/
  | dqnt (h : Hd) (a : FmtA)
  /-- SCLX (R257). -/
  | sclx (h : Hd) (a : FmtA)
  /-- I4XP (R257). -/
  | i4xp (h : Hd) (a : FmtA)
  /-- I4XU (R257). -/
  | i4xu (h : Hd) (a : FmtA)
  /-- LD (R276). -/
  | ld (h : Hd) (m : FmtM)
  /-- ST (R276). -/
  | st (h : Hd) (m : FmtM)
  /-- LDB (R277). -/
  | ldb (h : Hd) (m : FmtM)
  /-- STB (R277). -/
  | stb (h : Hd) (m : FmtM)
  /-- LDL (R277). -/
  | ldl (h : Hd) (m : FmtM)
  /-- STNT (R276). -/
  | stnt (h : Hd) (m : FmtM)
  /-- PREF (R279). -/
  | pref (h : Hd) (m : FmtM)
  /-- ATOM (R281). -/
  | atom (h : Hd) (m : FmtM)
  /-- CAS (R282). -/
  | cas (h : Hd) (m : FmtM)
  /-- FATOM (R283). -/
  | fatom (h : Hd) (m : FmtM)
  /-- ENQ (R285). -/
  | enq (h : Hd) (m : FmtM)
  /-- DEQ (R285). -/
  | deq (h : Hd) (m : FmtM)
  /-- SARM (R289). -/
  | sarm (h : Hd) (x : FmtX)
  /-- QFNC (R290). -/
  | qfnc (h : Hd) (x : FmtX)
  /-- DFNC (R287). -/
  | dfnc (h : Hd) (m : FmtM)
  /-- RDCI (R288). -/
  | rdci (h : Hd) (i : BitVec 30)
  /-- FNC (R159). -/
  | fnc (h : Hd) (m : FmtM)
  /-- LDS (R280). -/
  | lds (h : Hd) (m : FmtM)
  /-- STS (R280). -/
  | sts (h : Hd) (m : FmtM)
  /-- CNTR_READ (R291). -/
  | cntrRead (h : Hd) (x : FmtX)
  /-- CNTR_SNAP (R291). -/
  | cntrSnap (h : Hd) (x : FmtX)
  /-- CNTR_STALL (R291). -/
  | cntrStall (h : Hd) (x : FmtX)
  /-- CNTR_LINK (R291). -/
  | cntrLink (h : Hd) (x : FmtX)
  /-- XFER (R294). -/
  | xfer (h : Hd) (x : FmtX)
  /-- XPK (R293). -/
  | xpk (h : Hd) (i : BitVec 30)
  /-- GATH (R295). -/
  | gath (h : Hd) (x : FmtX)
  /-- SCAT (R295). -/
  | scat (h : Hd) (x : FmtX)
  /-- DCNT (R296). -/
  | dcnt (h : Hd) (x : FmtX)
  /-- TRDY (R297). -/
  | trdy (h : Hd) (x : FmtX)
  /-- COLL (R298). -/
  | coll (h : Hd) (x : FmtX)
  /-- MLDS (R261). -/
  | mlds (h : Hd) (a : FmtA)
  /-- MSWP (R262). -/
  | mswp (h : Hd) (i : BitVec 30)
  /-- MCTL (R260). -/
  | mctl (h : Hd) (i : BitVec 30)
  /-- MFIR (R263). -/
  | mfir (h : Hd) (a : FmtA)
  /-- MDRN (R264). -/
  | mdrn (h : Hd) (a : FmtA)
  /-- MCLR (R264). -/
  | mclr (h : Hd) (i : BitVec 30)
  /-- VDCL_DECLARE (R266). -/
  | vdclDeclare (h : Hd) (i : BitVec 30)
  /-- VDCL_SYSTOLIC (R266). -/
  | vdclSystolic (h : Hd) (i : BitVec 30)
  /-- VACC (R267). -/
  | vacc (h : Hd) (a : FmtA)
  /-- BNDS (R268). -/
  | bnds (h : Hd) (a : FmtA)
  /-- TOPK (R269). -/
  | topk (h : Hd) (a : FmtA)
  /-- THRP (R270). -/
  | thrp (h : Hd) (i : BitVec 30)
  /-- VPIK (R271). -/
  | vpik (h : Hd) (a : FmtA)
  /-- ISCR (R271). -/
  | iscr (h : Hd) (a : FmtA)
  /-- KDEF (R304). -/
  | kdef (h : Hd) (k : FmtK)
  /-- KPUT (R305). -/
  | kput (h : Hd) (k : FmtK)
  /-- KQRY (R306). -/
  | kqry (h : Hd) (k : FmtK)
  /-- KDEL (R311). -/
  | kdel (h : Hd) (k : FmtK)
  /-- KMRG (R309). -/
  | kmrg (h : Hd) (k : FmtK)
  /-- KSMX (R310). -/
  | ksmx (h : Hd) (k : FmtK)
  /-- KGEN (R311). -/
  | kgen (h : Hd) (k : FmtK)
  /-- KCNT (R311). -/
  | kcnt (h : Hd) (k : FmtK)
  /-- KFLT (R311). -/
  | kflt (h : Hd) (k : FmtK)
  /-- KSID (R311). -/
  | ksid (h : Hd) (k : FmtK)
  /-- SPLK (R313). -/
  | splk (h : Hd) (m : FmtM)
  /-- SPAP (R314). -/
  | spap (h : Hd) (m : FmtM)
  /-- SPFK (R315). -/
  | spfk (h : Hd) (i : BitVec 30)
  /-- SPRL (R316). -/
  | sprl (h : Hd) (i : BitVec 30)
  /-- SPWN (R317). -/
  | spwn (h : Hd) (i : BitVec 30)
  /-- SPRG (R318). -/
  | sprg (h : Hd) (i : BitVec 30)
  /-- RLD (R299). -/
  | rld (h : Hd) (m : FmtM)
  /-- RST (R299). -/
  | rst (h : Hd) (m : FmtM)
  /-- RATM (R300). -/
  | ratm (h : Hd) (m : FmtM)
  /-- GLAZE (R301). -/
  | glaze (h : Hd) (m : FmtM)
  /-- TRAP (R320). -/
  | trap (h : Hd) (i : BitVec 30)
  /-- BKPT (R320). -/
  | bkpt (h : Hd) (i : BitVec 30)
  /-- SVC (R321). -/
  | svc (h : Hd) (i : BitVec 30)
  /-- RDSR (R322). -/
  | rdsr (h : Hd) (i : BitVec 30)
  /-- WRSR (R322). -/
  | wrsr (h : Hd) (i : BitVec 30)
  /-- CPRI (R323). -/
  | cpri (h : Hd) (i : BitVec 30)
  /-- YLD (R324). -/
  | yld (h : Hd) (i : BitVec 30)
  /-- STEAL (R325). -/
  | steal (h : Hd) (x : FmtX)
  /-- SPLT_STEAL (R326). -/
  | spltSteal (h : Hd) (i : BitVec 30)
  /-- SPLT_CLAIM (R326). -/
  | spltClaim (h : Hd) (i : BitVec 30)
  /-- PERF (R327). -/
  | perf (h : Hd) (x : FmtX)
  /-- DONE (R328). -/
  | done (h : Hd) (i : BitVec 30)
  /-- FRD (R329). -/
  | frd (h : Hd) (i : BitVec 30)
  /-- RESM (R358). -/
  | resm (h : Hd) (i : BitVec 30)
  /-- QCFG_LABEL (R332). -/
  | qcfgLabel (q : SeqW)
  /-- QCFG_REGISTER (R332). -/
  | qcfgRegister (q : SeqW)
  /-- QLOOP (R331). -/
  | qloop (q : SeqW)
  /-- QBR (R331). -/
  | qbr (q : SeqW)
  /-- QARM_REGISTER (R333). -/
  | qarmRegister (q : SeqW)
  /-- QARM_CONSTANTS (R333). -/
  | qarmConstants (q : SeqW)
  /-- QARM_KEEP (R333). -/
  | qarmKeep (q : SeqW)
  /-- QWAIT_STREAM (R331). -/
  | qwaitStream (q : SeqW)
  /-- QWAIT_CYCLES (R331). -/
  | qwaitCycles (q : SeqW)
  /-- QSET (R331). -/
  | qset (q : SeqW)
  /-- QADD (R331). -/
  | qadd (q : SeqW)
  /-- QEND (R331). -/
  | qend (q : SeqW)
  /-- QPRD (R331). -/
  | qprd (q : SeqW)
  /-- QGLZ_WAIT (R334). -/
  | qglzWait (q : SeqW)
  /-- QGLZ_NOWAIT (R334). -/
  | qglzNowait (q : SeqW)
  /-- LAUNCH_TOKEN (R59). -/
  | launchToken (port : Bool) (tok : BitVec 512)
  /-- HOST_ACCESS_DISCARDED (R345). -/
  | hostAccessDiscarded (rd : Bool)
  /-- TLB_INVALIDATION (R136). -/
  | tlbInvalidation (die : Posted Nat)
  /-- FREE_PAGE_WRITE (R413). -/
  | freePageWrite (v : Posted Word)
  /-- HOST_RESUME (R360). -/
  | hostResume (die : Nat) (v : Posted Word)
  /-- FAULT_SUMMARY_READ (R357). -/
  | faultSummaryRead (die : Nat)
  /-- CORRECTED_ERROR_READ (R383). -/
  | correctedErrorRead (die : Nat)
  /-- HOST_ERROR_COUNTER_READ (R345). -/
  | hostErrorCounterRead
  /-- BINDING_WRITE (R165). -/
  | bindingWrite (lg : Nat) (tagHalf : Bool) (v : Posted Word)
  /-- BUDDY_COPY_ENABLE (R404). -/
  | buddyCopyEnable (v : Posted Word)
  /-- REGISTER_WRITE (R7). -/
  | registerWrite (offset : Nat) (v : Posted Word) (ide : Option Nat)
  /-- TDISP_REQUEST (R348). -/
  | tdispRequest (p : Nat) (r : TdispReq)
  /-- TDISP_STOP (R348). -/
  | tdispStop (p : Nat)
  /-- IDE_INTEGRITY_FAILURE (R401). -/
  | ideIntegrityFailure (p : Nat)
  /-- GET_VERSION (R349). -/
  | getVersion (q : SpdmReq)
  /-- GET_CAPABILITIES (R349). -/
  | getCapabilities (q : SpdmReq)
  /-- NEGOTIATE_ALGORITHMS (R349). -/
  | negotiateAlgorithms (q : SpdmReq)
  /-- GET_DIGESTS (R349). -/
  | getDigests (q : SpdmReq)
  /-- GET_CERTIFICATE (R349). -/
  | getCertificate (q : SpdmReq)
  /-- CHALLENGE (R349). -/
  | challenge (q : SpdmReq)
  /-- GET_MEASUREMENTS (R349). -/
  | getMeasurements (q : SpdmReq)
  /-- KEY_EXCHANGE (R349). -/
  | keyExchange (q : SpdmReq)
  /-- FINISH (R349). -/
  | finish (q : SpdmReq)
  /-- MODULE_RESET (R350). -/
  | moduleReset
  /-- READINESS_FLAG_SET (R350). -/
  | readinessFlagSet (bit : Nat)
  /-- CLOCK_THROTTLE (R402). -/
  | clockThrottle
  /-- CLOCK_RESTORE (R402). -/
  | clockRestore
  /-- THERMAL_SHUTDOWN (R402). -/
  | thermalShutdown
  /-- TOKEN_ARRIVAL (R46). -/
  | tokenArrival (site : TokenSite) (n : Nat)
  /-- HEADER_BEAT_LATCH (R88). -/
  | headerBeatLatch (n : Nat)
  /-- TOKEN_AGE_TICK (R24). -/
  | tokenAgeTick
  /-- STARVATION_FORCE (R69). -/
  | starvationForce (die wafer cell : Nat)
  /-- INSTANCE_COMMIT (R32). -/
  | instanceCommit (u : Who)
  /-- GENERATION_ADVANCE (R36). -/
  | generationAdvance (die task lvl : Nat)
  /-- TAG_GRANT (R38). -/
  | tagGrant (die task lvl : Nat)
  /-- RETURN_TAIL_END (R292). -/
  | returnTailEnd (u : Who)
  /-- SETTLED_RMW_PERFORM (R30). -/
  | settledRmwPerform (n : Nat)
  /-- PHASE_END (R37). -/
  | phaseEnd (die task : Nat)
  /-- CONFIG_LOAD (R64). -/
  | configLoad (die task : Nat)
  /-- CONFIG_FLIP (R65). -/
  | configFlip (die task : Nat)
  /-- ISOLATION_GATE_TIMEOUT (R373). -/
  | isolationGateTimeout (die task w : Nat)
  /-- ALLOCATOR_PLACE (R62). -/
  | allocatorPlace (die : Nat)
  /-- STRAND_SAVE (R71). -/
  | strandSave (die task : Nat)
  /-- STRAND_RESTORE (R73). -/
  | strandRestore (die task : Nat)
  /-- PRIORITY_CHANGE_ARRIVAL (R70). -/
  | priorityChangeArrival (n : Nat)
  /-- STREAM_BEAT_REQUEST (R149). -/
  | streamBeatRequest (die wafer e : Nat)
  /-- STREAM_BEAT_RETURN (R149). -/
  | streamBeatReturn (die wafer e : Nat)
  /-- STREAM_PENDING_START (R149). -/
  | streamPendingStart (die wafer e : Nat)
  /-- MEMORY_RESPONSE (R155). -/
  | memoryResponse (n : Nat)
  /-- STORE_PERFORM (R153). -/
  | storePerform (n : Nat)
  /-- FENCE_COMPLETE (R159). -/
  | fenceComplete (n : Nat)
  /-- ENGINE_RELEASE (R158). -/
  | engineRelease (n : Nat)
  /-- ENGINE_OPERATION_START (R161). -/
  | engineOperationStart (die q : Nat)
  /-- TRANSFER_COMPLETE (R148). -/
  | transferComplete (die q : Nat)
  /-- MIGRATION_FINAL_WINDOW (R138). -/
  | migrationFinalWindow (n : Nat)
  /-- MIGRATION_RELEASE (R138). -/
  | migrationRelease (n : Nat)
  /-- GATHER_ROW_RETURN (R150). -/
  | gatherRowReturn (n : Nat)
  /-- STORE_PORT_APPLY (R112). -/
  | storePortApply (die wafer sel : Nat)
  /-- THRESHOLD_OFFER (R117). -/
  | thresholdOffer (n : Nat)
  /-- SEQUENCE_PORT_APPLY (R312). -/
  | sequencePortApply (n : Nat)
  /-- GLAZE_WRITE_ACCEPT (R171). -/
  | glazeWriteAccept (n : Nat)
  /-- GLAZE_CONTRIBUTION (R173). -/
  | glazeContribution (n : Nat)
  /-- GLAZE_BARRIER_ENTER (R174). -/
  | glazeBarrierEnter (p : Nat)
  /-- BARRIER_FLIT (R174). -/
  | barrierFlit (p : Nat) (child : Nat) (down : Bool)
  /-- GLAZE_RELEASE (R174). -/
  | glazeRelease (p : Nat)
  /-- COLLECTIVE_CONTRIBUTION (R176). -/
  | collectiveContribution (n : Nat)
  /-- COLLECTIVE_RESULT (R176). -/
  | collectiveResult (n : Nat)
  /-- FLIT_RECEIVE (R167). -/
  | flitReceive (lg : Nat) (f : Flit)
  /-- LANE_RETRAIN (R398). -/
  | laneRetrain (lg : Nat)
  /-- HEARTBEAT_SEND (R403). -/
  | heartbeatSend
  /-- PEER_FAILURE_DETECT (R403). -/
  | peerFailureDetect (peer : Nat)
  /-- RECOVERY (R405). -/
  | recovery (r : RecoveryStep)
  /-- BACK_PRESSURE_CHECK (R367). -/
  | backPressureCheck (die wafer : Nat)
  /-- TAG_WAIT_BOUND (R370). -/
  | tagWaitBound (n : Nat)
  /-- YLD_RELEASE (R324). -/
  | yldRelease (n : Nat)
  /-- QWAIT_EXPIRY (R331). -/
  | qwaitExpiry (die task : Nat)
  /-- FAULT_TAKES_EFFECT (R353). -/
  | faultTakesEffect (die task : Nat)
  /-- FAULT_RECORD_WRITE (R357). -/
  | faultRecordWrite (n : Nat)
  /-- DFNC_COMPLETION (R287). -/
  | dfncCompletion (n : Nat)
  /-- SCATTER_COMPLETION (R295). -/
  | scatterCompletion (n : Nat)
  /-- RETRAIN_COMPLETE (R398). -/
  | retrainComplete (lg : Nat) (ok : Bool)
deriving DecidableEq, Repr

end Sys2Proof
end

