-- ==== Sys2Proof/WellFormed.lean ====
section
/-! DEFINITION. Which words are instructions: the checks of R199, R201, R205, R207, R243, R303, R406 and R412 that need
the word alone. Each failed check has the CODE that R361 (block words) or R412 (sequencer words) gives it. -/

namespace Sys2Proof

/-- Why a word is no instruction. The first five are block words (R361), the last three sequencer words (R412). -/
inductive DecodeError where
  | short | reservedOpcode | badFn | reservedCode | unusedField | equalTargets
  | seqField | seqClass | seqConst
deriving DecidableEq, Repr

/-- The CODE of R361 or R412. -/
def DecodeError.code : DecodeError → BitVec 16
  | .short => 0x0005
  | .reservedOpcode => 0x0010
  | .badFn => 0x0011
  | .reservedCode => 0x0012
  | .unusedField => 0x0013
  | .equalTargets => 0x0014
  | .seqField => 0x0002
  | .seqClass => 0x0003
  | .seqConst => 0x0004

/-- One check: whether it passes, and the error when it does not. -/
abbrev Check := Bool × DecodeError

def noTarget : BitVec 9 := 0x1FF

/-- R198: two targets that are equal and not 0x1FF. -/
def Hd.targetsOk (h : Hd) : List Check := [(h.ta != h.tb || h.ta == noTarget, .equalTargets)]
/-- R201: FN is zero for an opcode that the FN table does not list. -/
def Hd.fnZero (h : Hd) : List Check := [(h.fn == 0, .badFn)]
def Hd.fnIs (_ : Hd) (ok : Bool) : List Check := [(ok, .badFn)]
/-- R211, R406: a word that emits nothing has both targets 0x1FF. -/
def Hd.silent (h : Hd) : List Check := [(h.ta == noTarget && h.tb == noTarget, .reservedCode)]

/-- R207, R199: RND 101-111 reserved; IMM16 zero when IMS = 0. -/
def FmtA.common (a : FmtA) : List Check := [(a.rnd.toNat ≤ 4, .reservedCode), (a.ims || a.imm == 0, .unusedField)]
/-- A word that does not read RND holds zero there (R199, R235). -/
def FmtA.noRnd (a : FmtA) : List Check := [(a.rnd == 0, .unusedField)]
/-- Words that read no slot 1 have IMS = 0. -/
def FmtA.noIms (a : FmtA) : List Check := [(!a.ims, .unusedField)]
def FmtA.needIms (a : FmtA) : List Check := [(a.ims, .reservedCode)]
/-- Control fields in IMM16: the bits from `n` up are zero when IMS = 1 (R243, R406). -/
def FmtA.ctl (a : FmtA) (n : Nat) : List Check := [(!a.ims || a.imm.toNat < 2 ^ n, .reservedCode)]
/-- MLDS, MFIR, TOPK: VCO = VCI (R260, R269). -/
def FmtA.same (a : FmtA) : List Check := [(a.vco == a.vci, .reservedCode)]

/-- Format I: the bits from `n` up are zero (R212). -/
def immBelow (i : BitVec 30) (n : Nat) : List Check := [(i.toNat < 2 ^ n, .unusedField)]

/-- R273: the spaces a memory word takes. -/
def FmtM.spaces (m : FmtM) (l : List Nat) : List Check := [(l.contains m.space.toNat, .reservedCode)]
/-- R154, R406: SCOPE is zero on a word that does not read it. -/
def FmtM.noScope (m : FmtM) : List Check := [(m.scope == 0, .reservedCode)]
def FmtM.noOff (m : FmtM) : List Check := [(m.off == 0, .reservedCode)]
def FmtM.noVc (m : FmtM) : List Check := [(m.vc == 0, .unusedField)]

/-- R303: fields a match word does not list are zero; SCORE 010-111 and MODE 11 are reserved. -/
def FmtK.only (x : FmtK) (kv sel k sm filt : Bool) : List Check :=
  [(x.score.toNat ≤ 1 && x.mode != 3, .reservedCode),
   ((kv || x.keyvc == 0) && (sel || x.sel == 0) && (k || x.k == 0) && (sm || (x.score == 0 && x.mode == 0)) &&
    (filt || x.filt == 0), .unusedField)]

def FmtX.auxBelow (x : FmtX) (n : Nat) : List Check := [(x.aux.toNat < 2 ^ n, .unusedField)]
def FmtX.idBelow (x : FmtX) (n : Nat) : List Check := [(x.id.toNat < n, .reservedCode)]
def FmtX.idZero (x : FmtX) : List Check := [(x.id == 0, .reservedCode)]
/-- CNTR .read and .snap of counters: n - 1 is at most 11 and c + n - 1 at most 255 (R291, R406). -/
def FmtX.counterRange (x : FmtX) : List Check :=
  [((x.aux.extractLsb' 0 4).toNat ≤ 11 && x.id.toNat + (x.aux.extractLsb' 0 4).toNat ≤ 255, .reservedCode)]

/-- CNTR .snap: bit 21 of AUX selects the stall words of node ID (bits 20 to 3 zero), else counters (R291). -/
def FmtX.snapChecks (x : FmtX) : List Check :=
  if x.aux.getLsbD 21 then [(x.id.toNat < 64, .reservedCode), (x.aux.extractLsb' 3 18 == 0, .unusedField)]
  else x.counterRange ++ x.auxBelow 4

/-- R206: codes 0x18-0x1F are reserved. -/
def seqReg (r : BitVec 7) : Bool := r.toNat < 0x18 || 0x20 ≤ r.toNat
/-- Reserved bits of a sequencer word and the FN it takes (R205, R201). -/
def SeqW.common (q : SeqW) (fnOk : Bool) : List Check := [(q.rsvA == 0 && !q.rsvB && fnOk, .seqField)]
def SeqW.need (_ : SeqW) (ok : Bool) : List Check := [(ok, .seqField)]
def SeqW.cls (_ : SeqW) (ok : Bool) : List Check := [(ok, .seqClass)]
/-- The operand v of R331: DB's register with IMM32 = 0, or IMM32 with DB = 0. -/
def SeqW.second (q : SeqW) : List Check := [(if q.imb then q.db == 0 else seqReg q.db && q.imm == 0, .seqField)]
def SeqW.isQ (r : BitVec 7) : Bool := r.toNat < 0x10
def SeqW.isIQ (r : BitVec 7) : Bool := r.toNat < 0x18

/-- Special register codes of R194. -/
def specialRegister (c : Nat) : Bool := c ≤ 9 || (0x10 ≤ c && c ≤ 0x17)

/-- Every check of a word that needs the word alone. The device's own steps carry no word. -/
def Instr.checks : Instr → List Check
  | .movCopy h a => h.targetsOk ++ h.fnZero ++ a.common ++ a.noRnd ++ a.noIms
  | .movImmediate h a => h.targetsOk ++ h.fnZero ++ a.common ++ a.needIms
  | .movi h _ => h.targetsOk ++ h.fnZero
  | .movhi h _ => h.targetsOk ++ h.fnZero
  | .fan h i => h.targetsOk ++ h.fnZero ++ immBelow i 0
  | .drop h i => h.targetsOk ++ h.fnZero ++ h.silent ++ immBelow i 0
  | .steer h i => h.targetsOk ++ h.fnZero ++ immBelow i 0
  | .merge h i => h.targetsOk ++ h.fnZero ++ immBelow i 0
  | .mrgo h i => h.targetsOk ++ h.fnZero ++ immBelow i 0
  | .sel h i => h.targetsOk ++ h.fnZero ++ immBelow i 0
  | .plog h i => h.targetsOk ++ h.fnIs (h.fn.toNat < 16) ++ immBelow i 0
  | .taga h i => h.targetsOk ++ h.fnZero ++ [(decide (i.toNat ≤ 7), DecodeError.reservedCode)]
  | .tagf h i => h.targetsOk ++ h.fnZero ++ h.silent ++ [(decide (i.toNat ≤ 7), DecodeError.reservedCode)]
  | .tagxDown h i => h.targetsOk ++ h.fnZero ++ immBelow i 1 ++ [(!i.getLsbD 0, .reservedCode)]
  | .tagxUp h i => h.targetsOk ++ h.fnZero ++ immBelow i 1 ++ [(i.getLsbD 0, .reservedCode)]
  | .wadv h i => h.targetsOk ++ h.fnZero ++ immBelow i 0
  | .gate h i => h.targetsOk ++ h.fnZero ++ immBelow i 0
  | .exit h c => h.targetsOk ++ h.fnZero ++ h.silent ++ [(c.boff == 0, .unusedField)]
  | .brb h _ => h.targetsOk ++ h.fnZero ++ h.silent
  | .rdk h i => h.targetsOk ++ h.fnZero ++ immBelow i 5
  | .wrk h i => h.targetsOk ++ h.fnZero ++ h.silent ++ immBelow i 5
  | .cnst h i => h.targetsOk ++ h.fnZero ++ immBelow i 6
  | .ord h i => h.targetsOk ++ h.fnZero ++ immBelow i 1
  | .idx h a => h.targetsOk ++ h.fnZero ++ a.common ++ a.noRnd
  | .strm h x => h.targetsOk ++ h.fnZero ++ x.idBelow 16 ++ x.auxBelow 0
  | .eosd h x => h.targetsOk ++ h.fnZero ++ h.silent ++ x.idBelow 16 ++ x.auxBelow 0
  | .iadd h a => h.targetsOk ++ h.fnZero ++ a.common ++ a.noRnd
  | .isub h a => h.targetsOk ++ h.fnZero ++ a.common ++ a.noRnd
  | .imul h a => h.targetsOk ++ h.fnZero ++ a.common ++ a.noRnd
  | .imulh h a => h.targetsOk ++ h.fnZero ++ a.common ++ a.noRnd
  | .imad h a => h.targetsOk ++ h.fnZero ++ a.common ++ a.noRnd
  | .idiv h a => h.targetsOk ++ h.fnZero ++ a.common
  | .irem h a => h.targetsOk ++ h.fnZero ++ a.common
  | .ineg h a => h.targetsOk ++ h.fnZero ++ a.common ++ a.noRnd ++ a.noIms
  | .iabs h a => h.targetsOk ++ h.fnZero ++ a.common ++ a.noRnd ++ a.noIms
  | .imin h a => h.targetsOk ++ h.fnZero ++ a.common ++ a.noRnd
  | .imax h a => h.targetsOk ++ h.fnZero ++ a.common ++ a.noRnd
  | .iand h a => h.targetsOk ++ h.fnZero ++ a.common ++ a.noRnd
  | .ior h a => h.targetsOk ++ h.fnZero ++ a.common ++ a.noRnd
  | .ixor h a => h.targetsOk ++ h.fnZero ++ a.common ++ a.noRnd
  | .inot h a => h.targetsOk ++ h.fnZero ++ a.common ++ a.noRnd ++ a.noIms
  | .ishl h a => h.targetsOk ++ h.fnZero ++ a.common ++ a.noRnd
  | .ishr h a => h.targetsOk ++ h.fnZero ++ a.common ++ a.noRnd
  | .isar h a => h.targetsOk ++ h.fnZero ++ a.common ++ a.noRnd
  | .irot h a => h.targetsOk ++ h.fnZero ++ a.common ++ a.noRnd
  | .iclz h a => h.targetsOk ++ h.fnZero ++ a.common ++ a.noRnd ++ a.noIms
  | .ipopc h a => h.targetsOk ++ h.fnZero ++ a.common ++ a.noRnd ++ a.noIms
  | .ibfx h a => h.targetsOk ++ h.fnZero ++ a.common ++ a.noRnd
  | .ibfi h a => h.targetsOk ++ h.fnZero ++ a.common ++ a.noRnd
  | .icmp h a => h.targetsOk ++ h.fnIs (h.fn.toNat < 6) ++ a.common ++ a.noRnd
  | .addi h a => h.targetsOk ++ h.fnZero ++ a.common ++ a.noRnd ++ a.needIms
  | .lea h a => h.targetsOk ++ h.fnZero ++ a.common ++ a.noRnd
  | .aff h a => h.targetsOk ++ h.fnZero ++ a.common ++ a.noRnd
  | .clamp h a => h.targetsOk ++ h.fnZero ++ a.common ++ a.noRnd
  | .fadd h a => h.targetsOk ++ h.fnZero ++ a.common
  | .fsub h a => h.targetsOk ++ h.fnZero ++ a.common
  | .fmul h a => h.targetsOk ++ h.fnZero ++ a.common
  | .fma h a => h.targetsOk ++ h.fnZero ++ a.common
  | .fmin h a => h.targetsOk ++ h.fnZero ++ a.common
  | .fmax h a => h.targetsOk ++ h.fnZero ++ a.common
  | .fabs h a => h.targetsOk ++ h.fnZero ++ a.common ++ a.noIms
  | .fneg h a => h.targetsOk ++ h.fnZero ++ a.common ++ a.noIms
  | .fcmp h a => h.targetsOk ++ h.fnIs (h.fn.toNat < 7) ++ a.common ++ a.noRnd
  | .fcvt h a => h.targetsOk ++ h.fnZero ++ a.common ++ a.noIms
  | .frcp h a => h.targetsOk ++ h.fnZero ++ a.common ++ a.noIms
  | .frsq h a => h.targetsOk ++ h.fnZero ++ a.common ++ a.noIms
  | .fex2 h a => h.targetsOk ++ h.fnZero ++ a.common ++ a.noIms
  | .flg2 h a => h.targetsOk ++ h.fnZero ++ a.common ++ a.noIms
  | .ftnh h a => h.targetsOk ++ h.fnZero ++ a.common ++ a.noIms
  | .fexs h a => h.targetsOk ++ h.fnZero ++ a.common
  | .fscl h a => h.targetsOk ++ h.fnZero ++ a.common
  | .itof h a => h.targetsOk ++ h.fnZero ++ a.common ++ a.noIms
  | .ftoi h a => h.targetsOk ++ h.fnZero ++ a.common ++ a.noIms
  | .frnd h a => h.targetsOk ++ h.fnZero ++ a.common ++ a.noIms
  | .vbcst h a => h.targetsOk ++ h.fnZero ++ a.common ++ a.noRnd ++ a.ctl 7
  | .vshuf h a => h.targetsOk ++ h.fnZero ++ a.common ++ a.noRnd
  | .vred h a => h.targetsOk ++ h.fnIs (h.fn.toNat ≤ 2) ++ a.common ++ a.noIms
  | .vscan h a => h.targetsOk ++ h.fnIs (h.fn.toNat ≤ 2) ++ a.common ++ a.noIms
  | .vdot h a => h.targetsOk ++ h.fnZero ++ a.common
  | .vcmpr h a => h.targetsOk ++ h.fnZero ++ a.common ++ a.noRnd
  | .vexpd h a => h.targetsOk ++ h.fnZero ++ a.common ++ a.noRnd
  | .vpack h a => h.targetsOk ++ h.fnZero ++ a.common ++ a.noRnd
  | .vunpk h a => h.targetsOk ++ h.fnZero ++ a.common ++ a.noRnd ++ a.noIms
  | .vselm h a => h.targetsOk ++ h.fnZero ++ a.common ++ a.noRnd
  | .vlane h a => h.targetsOk ++ h.fnZero ++ a.common ++ a.noRnd ++ a.ctl 7
  | .viota h a => h.targetsOk ++ h.fnZero ++ a.common
  | .vcset h i => h.targetsOk ++ h.fnZero ++ immBelow i 6
  | .vcget h i => h.targetsOk ++ h.fnZero ++ immBelow i 5
  | .hdr h a => h.targetsOk ++ h.fnZero ++ a.common ++ a.noRnd ++ a.noIms
  | .qnt h a => h.targetsOk ++ h.fnZero ++ a.common ++ a.noIms
  | .dqnt h a => h.targetsOk ++ h.fnZero ++ a.common
  | .sclx h a => h.targetsOk ++ h.fnZero ++ a.common ++ a.noRnd
  | .i4xp h a => h.targetsOk ++ h.fnZero ++ a.common ++ a.noIms
  | .i4xu h a => h.targetsOk ++ h.fnZero ++ a.common
  | .ld h m => h.targetsOk ++ h.fnIs (h.fn.toNat < 4) ++ m.spaces [0,1,2,3]
  | .st h m => h.targetsOk ++ h.fnIs (h.fn.toNat < 4) ++ m.spaces [0,1,2,3] ++ m.noScope
  | .ldb h m => h.targetsOk ++ h.fnZero ++ m.spaces [0,1,2,3,4,5]
  | .stb h m => h.targetsOk ++ h.fnZero ++ m.spaces [0,1,2,3,4] ++ m.noScope
  | .ldl h m => h.targetsOk ++ h.fnZero ++ m.spaces [0,3]
  | .stnt h m => h.targetsOk ++ h.fnIs (h.fn.toNat < 4) ++ m.spaces [0,3] ++ m.noScope
  | .pref h m => h.targetsOk ++ h.fnZero ++ h.silent ++ m.spaces [0,3,5] ++ m.noScope
  | .atom h m => h.targetsOk ++ h.fnIs (h.fn.toNat < 32 && h.fn.toNat % 16 ≤ 6) ++ m.spaces [0,1,2,3] ++ m.noScope
  | .cas h m => h.targetsOk ++ h.fnIs (h.fn == 0 || h.fn == 16) ++ m.spaces [0,1,2,3] ++ m.noScope
  | .fatom h m => h.targetsOk ++ h.fnIs (h.fn.toNat ≤ 2) ++ m.spaces [0,1,3] ++ m.noScope
  | .enq h m => h.targetsOk ++ h.fnZero ++ m.spaces [0,1] ++ m.noScope
  | .deq h m => h.targetsOk ++ h.fnZero ++ m.spaces [0,1] ++ m.noScope
  | .sarm h x => h.targetsOk ++ h.fnZero ++ h.silent ++ x.idBelow 16 ++ x.auxBelow 0
  | .qfnc h x => h.targetsOk ++ h.fnZero ++ h.silent ++ x.idZero ++ x.auxBelow 18 ++ [(x.aux != 0, .reservedCode)]
  | .dfnc h m => h.targetsOk ++ h.fnZero ++ m.spaces [0] ++ m.noScope ++ m.noVc
  | .rdci h i => h.targetsOk ++ h.fnZero ++ immBelow i 0
  | .fnc h m => h.targetsOk ++ h.fnZero ++ m.spaces [0] ++ m.noOff ++ m.noVc
  | .lds h m => h.targetsOk ++ h.fnIs (h.fn.toNat < 4) ++ m.spaces [1,2]
  | .sts h m => h.targetsOk ++ h.fnIs (h.fn.toNat < 4) ++ m.spaces [1,2] ++ m.noScope
  | .cntrRead h x => h.targetsOk ++ h.fnIs (h.fn == 0) ++ x.counterRange ++ x.auxBelow 4
  | .cntrSnap h x => h.targetsOk ++ h.fnIs (h.fn == 1) ++ x.snapChecks
  | .cntrStall h x => h.targetsOk ++ h.fnIs (h.fn == 2) ++ x.idBelow 64 ++ x.auxBelow 3
  | .cntrLink h x => h.targetsOk ++ h.fnIs (h.fn == 3) ++ x.auxBelow 0
  | .xfer h x => h.targetsOk ++ h.fnZero ++ h.silent ++ x.idBelow 16 ++ x.auxBelow 0
  | .xpk h i => h.targetsOk ++ h.fnZero ++ [(i.extractLsb' 0 6 == 0, .unusedField)]
  | .gath h x => h.targetsOk ++ h.fnZero ++ x.idZero ++ x.auxBelow 7
  | .scat h x => h.targetsOk ++ h.fnZero ++ x.idZero ++ x.auxBelow 7
  | .dcnt h x => h.targetsOk ++ h.fnZero ++ h.silent ++ x.idZero ++ x.auxBelow 16
  | .trdy h x => h.targetsOk ++ h.fnZero ++ h.silent ++ x.idZero ++ x.auxBelow 20
  | .coll h x => h.targetsOk ++ h.fnIs (h.fn.toNat % 32 ≤ 2) ++ x.auxBelow 16
  | .mlds h a => h.targetsOk ++ h.fnZero ++ h.silent ++ a.common ++ a.noRnd ++ a.noIms ++ a.same
  | .mswp h i => h.targetsOk ++ h.fnZero ++ h.silent ++ immBelow i 0
  | .mctl h i => h.targetsOk ++ h.fnZero ++ h.silent ++ immBelow i 1
  | .mfir h a => h.targetsOk ++ h.fnZero ++ a.common ++ a.noRnd ++ a.noIms ++ a.same
  | .mdrn h a => h.targetsOk ++ h.fnZero ++ a.common ++ a.noIms
  | .mclr h i => h.targetsOk ++ h.fnZero ++ h.silent ++ immBelow i 1
  | .vdclDeclare h i => h.targetsOk ++ h.fnIs (h.fn.toNat ≤ 6) ++ immBelow i 5 ++ [(!(h.fn.toNat ≤ 2) || i.extractLsb' 0 3 == 0, .reservedCode)] ++ [(!i.getLsbD 3, .reservedCode)]
  | .vdclSystolic h i => h.targetsOk ++ h.fnIs (h.fn.toNat ≤ 6) ++ immBelow i 5 ++ [(!(h.fn.toNat ≤ 2) || i.extractLsb' 0 3 == 0, .reservedCode)] ++ [(i.getLsbD 3 && !i.getLsbD 4, .reservedCode)]
  | .vacc h a => h.targetsOk ++ h.fnZero ++ a.common ++ a.noRnd
  | .bnds h a => h.targetsOk ++ h.fnZero ++ a.common ++ a.noRnd ++ a.ctl 1
  | .topk h a => h.targetsOk ++ h.fnZero ++ a.common ++ a.noRnd ++ a.needIms ++ a.ctl 11 ++ a.same
  | .thrp h i => h.targetsOk ++ h.fnZero ++ h.silent ++ immBelow i 13 ++ [(i.getLsbD 3 || i.toNat < 16, .unusedField)]
  | .vpik h a => h.targetsOk ++ h.fnZero ++ a.common
  | .iscr h a => h.targetsOk ++ h.fnZero ++ a.common ++ a.noRnd ++ a.needIms ++ a.ctl 2
  | .kdef h k => h.targetsOk ++ h.fnZero ++ k.only true true false false false
  | .kput h k => h.targetsOk ++ h.fnZero ++ k.only true true false false false
  | .kqry h k => h.targetsOk ++ h.fnZero ++ k.only true true true true true
  | .kdel h k => h.targetsOk ++ h.fnZero ++ k.only true true false false false
  | .kmrg h k => h.targetsOk ++ h.fnZero ++ k.only false false true false false
  | .ksmx h k => h.targetsOk ++ h.fnZero ++ k.only false false false false false
  | .kgen h k => h.targetsOk ++ h.fnZero ++ k.only true true false false false
  | .kcnt h k => h.targetsOk ++ h.fnZero ++ k.only true true false false false
  | .kflt h k => h.targetsOk ++ h.fnZero ++ k.only false false false false true
  | .ksid h k => h.targetsOk ++ h.fnZero ++ k.only true true false false false
  | .splk h m => h.targetsOk ++ h.fnZero ++ m.spaces [5] ++ m.noScope ++ m.noOff
  | .spap h m => h.targetsOk ++ h.fnZero ++ m.spaces [5] ++ m.noScope ++ m.noOff
  | .spfk h i => h.targetsOk ++ h.fnZero ++ immBelow i 0
  | .sprl h i => h.targetsOk ++ h.fnZero ++ immBelow i 0
  | .spwn h i => h.targetsOk ++ h.fnZero ++ immBelow i 8
  | .sprg h i => h.targetsOk ++ h.fnZero ++ immBelow i 1
  | .rld h m => h.targetsOk ++ h.fnZero ++ m.spaces [0,3] ++ m.noScope
  | .rst h m => h.targetsOk ++ h.fnZero ++ m.spaces [0,3] ++ m.noScope
  | .ratm h m => h.targetsOk ++ h.fnIs (1 ≤ h.fn.toNat && h.fn.toNat ≤ 6) ++ m.spaces [0,3] ++ m.noScope
  | .glaze h m => h.targetsOk ++ h.fnZero ++ m.spaces [0] ++ m.noScope ++ m.noOff ++ m.noVc
  | .trap h i => h.targetsOk ++ h.fnZero ++ immBelow i 16
  | .bkpt h i => h.targetsOk ++ h.fnZero ++ immBelow i 16
  | .svc h i => h.targetsOk ++ h.fnZero ++ h.silent ++ immBelow i 15
  | .rdsr h i => h.targetsOk ++ h.fnZero ++ immBelow i 8 ++ [(specialRegister (i.extractLsb' 0 8).toNat, .reservedCode)]
  | .wrsr h i => h.targetsOk ++ h.fnZero ++ immBelow i 8 ++ [((i.extractLsb' 3 5).toNat == 2, .reservedCode)]
  | .cpri h i => h.targetsOk ++ h.fnZero ++ immBelow i 5
  | .yld h i => h.targetsOk ++ h.fnZero ++ immBelow i 16 ++ [(i != 0, .reservedCode)]
  | .steal h x => h.targetsOk ++ h.fnZero ++ [(x.id == 0, .unusedField)] ++ x.auxBelow 15
  | .spltSteal h i => h.targetsOk ++ h.fnZero ++ immBelow i 22 ++ [(i.extractLsb' 0 16 != 0, .reservedCode), (!i.getLsbD 21, .reservedCode)]
  | .spltClaim h i => h.targetsOk ++ h.fnZero ++ immBelow i 22 ++ [(i.extractLsb' 0 16 != 0, .reservedCode), (i.getLsbD 21, .reservedCode)]
  | .perf h x => h.targetsOk ++ h.fnZero ++ x.auxBelow 1
  | .done h i => h.targetsOk ++ h.fnZero ++ immBelow i 13
  | .frd h i => h.targetsOk ++ h.fnZero ++ immBelow i 4
  | .resm h i => h.targetsOk ++ h.fnZero ++ h.silent ++ immBelow i 0
  | .qcfgLabel q => q.common (q.fn.toNat < 4) ++ q.need (q.imb && q.da == 0 && q.db == 0)
  | .qcfgRegister q => q.common (q.fn.toNat < 4) ++ q.need (!q.imb && q.db == 0 && q.imm == 0 && seqReg q.da)
  | .qloop q => q.common (q.fn == 0) ++ q.need (q.imb && q.db == 0 && seqReg q.da) ++ q.cls (SeqW.isIQ q.da)
  | .qbr q => q.common (q.fn.toNat < 7) ++ q.need (q.imb && seqReg q.da && seqReg q.db) ++ q.cls (q.fn.toNat != 6 || (q.da == 0 && q.db == 0))
  | .qarmRegister q => q.common (q.fn == 0) ++ q.need (!q.imb && q.imm == 0 && seqReg q.db) ++ q.cls (q.da.toNat < 16)
  | .qarmConstants q => q.common (q.fn == 0) ++ q.need (q.imb && q.db == 0 && q.imm.toNat < 64) ++ q.cls (q.da.toNat < 16) ++ [(q.imm.toNat % 4 == 0 && q.imm.toNat ≤ 60, .seqConst)]
  | .qarmKeep q => q.common (q.fn == 0) ++ q.need (q.imb && q.db == 0 && q.imm == 0x80000000) ++ q.cls (q.da.toNat < 16)
  | .qwaitStream q => q.common (q.fn == 0) ++ q.need (!q.imb && q.db == 0 && q.imm == 0) ++ q.cls (q.da.toNat < 16)
  | .qwaitCycles q => q.common (q.fn == 0) ++ q.need (q.imb && q.db == 0) ++ q.cls (q.da == 0)
  | .qset q => q.common (q.fn == 0) ++ q.need (seqReg q.da) ++ q.second
  | .qadd q => q.common (q.fn == 0) ++ q.need (seqReg q.da) ++ q.second
  | .qend q => q.common (q.fn == 0) ++ q.need (!q.imb && q.da == 0 && q.db == 0 && q.imm == 0)
  | .qprd q => q.common (q.fn == 0) ++ q.need (q.imb && q.da == 0 && q.db == 0) ++ q.cls (q.imm.toNat < 4096 && q.imm.extractLsb' 3 5 == 0 && !q.imm.getLsbD 10)
  | .qglzWait q => q.common (q.fn == 0) ++ q.need (!q.imb && q.db == 0 && q.imm == 0) ++ q.cls (SeqW.isQ q.da)
  | .qglzNowait q => q.common (q.fn == 0) ++ q.need (q.imb && q.da == 0 && q.db == 0 && q.imm == 0)
  | .launchToken _ _ => []
  | .hostAccessDiscarded _ => []
  | .tlbInvalidation _ => []
  | .freePageWrite _ => []
  | .hostResume _ _ => []
  | .faultSummaryRead _ => []
  | .correctedErrorRead _ => []
  | .hostErrorCounterRead => []
  | .bindingWrite _ _ _ => []
  | .buddyCopyEnable _ => []
  | .registerWrite _ _ _ => []
  | .tdispRequest _ _ => []
  | .tdispStop _ => []
  | .ideIntegrityFailure _ => []
  | .getVersion _ => []
  | .getCapabilities _ => []
  | .negotiateAlgorithms _ => []
  | .getDigests _ => []
  | .getCertificate _ => []
  | .challenge _ => []
  | .getMeasurements _ => []
  | .keyExchange _ => []
  | .finish _ => []
  | .moduleReset => []
  | .readinessFlagSet _ => []
  | .clockThrottle => []
  | .clockRestore => []
  | .thermalShutdown => []
  | .tokenArrival _ _ => []
  | .headerBeatLatch _ => []
  | .tokenAgeTick => []
  | .starvationForce _ _ _ => []
  | .instanceCommit _ => []
  | .generationAdvance _ _ _ => []
  | .tagGrant _ _ _ => []
  | .returnTailEnd _ => []
  | .settledRmwPerform _ => []
  | .phaseEnd _ _ => []
  | .configLoad _ _ => []
  | .configFlip _ _ => []
  | .isolationGateTimeout _ _ _ => []
  | .allocatorPlace _ => []
  | .strandSave _ _ => []
  | .strandRestore _ _ => []
  | .priorityChangeArrival _ => []
  | .streamBeatRequest _ _ _ => []
  | .streamBeatReturn _ _ _ => []
  | .streamPendingStart _ _ _ => []
  | .memoryResponse _ => []
  | .storePerform _ => []
  | .fenceComplete _ => []
  | .engineRelease _ => []
  | .engineOperationStart _ _ => []
  | .transferComplete _ _ => []
  | .migrationFinalWindow _ => []
  | .migrationRelease _ => []
  | .gatherRowReturn _ => []
  | .storePortApply _ _ _ => []
  | .thresholdOffer _ => []
  | .sequencePortApply _ => []
  | .glazeWriteAccept _ => []
  | .glazeContribution _ => []
  | .glazeBarrierEnter _ => []
  | .barrierFlit _ _ _ => []
  | .glazeRelease _ => []
  | .collectiveContribution _ => []
  | .collectiveResult _ => []
  | .flitReceive _ _ => []
  | .laneRetrain _ => []
  | .heartbeatSend => []
  | .peerFailureDetect _ => []
  | .recovery _ => []
  | .backPressureCheck _ _ => []
  | .tagWaitBound _ => []
  | .yldRelease _ => []
  | .qwaitExpiry _ _ => []
  | .faultTakesEffect _ _ => []
  | .faultRecordWrite _ => []
  | .dfncCompletion _ => []
  | .scatterCompletion _ => []
  | .retrainComplete _ _ => []

/-- The first failing check of lowest CODE (R362). -/
def firstError (l : List Check) : Option DecodeError :=
  l.foldl (fun best c =>
    if c.1 then best else
      match best with
      | none => some c.2
      | some e => if c.2.code.toNat < e.code.toNat then some c.2 else some e) none

def Instr.error (i : Instr) : Option DecodeError := firstError i.checks

/-- A well-formed instruction: no check of the word alone fails. -/
def Instr.wellFormed (i : Instr) : Bool := i.checks.all (·.1)

/-- The format-A, I, ... words of a block: their common fields; none for sequencer words and device steps. -/
def Instr.hd? : Instr → Option Hd
  | .movCopy h _ => some h
  | .movImmediate h _ => some h
  | .movi h _ => some h
  | .movhi h _ => some h
  | .fan h _ => some h
  | .drop h _ => some h
  | .steer h _ => some h
  | .merge h _ => some h
  | .mrgo h _ => some h
  | .sel h _ => some h
  | .plog h _ => some h
  | .taga h _ => some h
  | .tagf h _ => some h
  | .tagxDown h _ => some h
  | .tagxUp h _ => some h
  | .wadv h _ => some h
  | .gate h _ => some h
  | .exit h _ => some h
  | .brb h _ => some h
  | .rdk h _ => some h
  | .wrk h _ => some h
  | .cnst h _ => some h
  | .ord h _ => some h
  | .idx h _ => some h
  | .strm h _ => some h
  | .eosd h _ => some h
  | .iadd h _ => some h
  | .isub h _ => some h
  | .imul h _ => some h
  | .imulh h _ => some h
  | .imad h _ => some h
  | .idiv h _ => some h
  | .irem h _ => some h
  | .ineg h _ => some h
  | .iabs h _ => some h
  | .imin h _ => some h
  | .imax h _ => some h
  | .iand h _ => some h
  | .ior h _ => some h
  | .ixor h _ => some h
  | .inot h _ => some h
  | .ishl h _ => some h
  | .ishr h _ => some h
  | .isar h _ => some h
  | .irot h _ => some h
  | .iclz h _ => some h
  | .ipopc h _ => some h
  | .ibfx h _ => some h
  | .ibfi h _ => some h
  | .icmp h _ => some h
  | .addi h _ => some h
  | .lea h _ => some h
  | .aff h _ => some h
  | .clamp h _ => some h
  | .fadd h _ => some h
  | .fsub h _ => some h
  | .fmul h _ => some h
  | .fma h _ => some h
  | .fmin h _ => some h
  | .fmax h _ => some h
  | .fabs h _ => some h
  | .fneg h _ => some h
  | .fcmp h _ => some h
  | .fcvt h _ => some h
  | .frcp h _ => some h
  | .frsq h _ => some h
  | .fex2 h _ => some h
  | .flg2 h _ => some h
  | .ftnh h _ => some h
  | .fexs h _ => some h
  | .fscl h _ => some h
  | .itof h _ => some h
  | .ftoi h _ => some h
  | .frnd h _ => some h
  | .vbcst h _ => some h
  | .vshuf h _ => some h
  | .vred h _ => some h
  | .vscan h _ => some h
  | .vdot h _ => some h
  | .vcmpr h _ => some h
  | .vexpd h _ => some h
  | .vpack h _ => some h
  | .vunpk h _ => some h
  | .vselm h _ => some h
  | .vlane h _ => some h
  | .viota h _ => some h
  | .vcset h _ => some h
  | .vcget h _ => some h
  | .hdr h _ => some h
  | .qnt h _ => some h
  | .dqnt h _ => some h
  | .sclx h _ => some h
  | .i4xp h _ => some h
  | .i4xu h _ => some h
  | .ld h _ => some h
  | .st h _ => some h
  | .ldb h _ => some h
  | .stb h _ => some h
  | .ldl h _ => some h
  | .stnt h _ => some h
  | .pref h _ => some h
  | .atom h _ => some h
  | .cas h _ => some h
  | .fatom h _ => some h
  | .enq h _ => some h
  | .deq h _ => some h
  | .sarm h _ => some h
  | .qfnc h _ => some h
  | .dfnc h _ => some h
  | .rdci h _ => some h
  | .fnc h _ => some h
  | .lds h _ => some h
  | .sts h _ => some h
  | .cntrRead h _ => some h
  | .cntrSnap h _ => some h
  | .cntrStall h _ => some h
  | .cntrLink h _ => some h
  | .xfer h _ => some h
  | .xpk h _ => some h
  | .gath h _ => some h
  | .scat h _ => some h
  | .dcnt h _ => some h
  | .trdy h _ => some h
  | .coll h _ => some h
  | .mlds h _ => some h
  | .mswp h _ => some h
  | .mctl h _ => some h
  | .mfir h _ => some h
  | .mdrn h _ => some h
  | .mclr h _ => some h
  | .vdclDeclare h _ => some h
  | .vdclSystolic h _ => some h
  | .vacc h _ => some h
  | .bnds h _ => some h
  | .topk h _ => some h
  | .thrp h _ => some h
  | .vpik h _ => some h
  | .iscr h _ => some h
  | .kdef h _ => some h
  | .kput h _ => some h
  | .kqry h _ => some h
  | .kdel h _ => some h
  | .kmrg h _ => some h
  | .ksmx h _ => some h
  | .kgen h _ => some h
  | .kcnt h _ => some h
  | .kflt h _ => some h
  | .ksid h _ => some h
  | .splk h _ => some h
  | .spap h _ => some h
  | .spfk h _ => some h
  | .sprl h _ => some h
  | .spwn h _ => some h
  | .sprg h _ => some h
  | .rld h _ => some h
  | .rst h _ => some h
  | .ratm h _ => some h
  | .glaze h _ => some h
  | .trap h _ => some h
  | .bkpt h _ => some h
  | .svc h _ => some h
  | .rdsr h _ => some h
  | .wrsr h _ => some h
  | .cpri h _ => some h
  | .yld h _ => some h
  | .steal h _ => some h
  | .spltSteal h _ => some h
  | .spltClaim h _ => some h
  | .perf h _ => some h
  | .done h _ => some h
  | .frd h _ => some h
  | .resm h _ => some h
  | .qcfgLabel _ => none
  | .qcfgRegister _ => none
  | .qloop _ => none
  | .qbr _ => none
  | .qarmRegister _ => none
  | .qarmConstants _ => none
  | .qarmKeep _ => none
  | .qwaitStream _ => none
  | .qwaitCycles _ => none
  | .qset _ => none
  | .qadd _ => none
  | .qend _ => none
  | .qprd _ => none
  | .qglzWait _ => none
  | .qglzNowait _ => none
  | .launchToken _ _ => none
  | .hostAccessDiscarded _ => none
  | .tlbInvalidation _ => none
  | .freePageWrite _ => none
  | .hostResume _ _ => none
  | .faultSummaryRead _ => none
  | .correctedErrorRead _ => none
  | .hostErrorCounterRead => none
  | .bindingWrite _ _ _ => none
  | .buddyCopyEnable _ => none
  | .registerWrite _ _ _ => none
  | .tdispRequest _ _ => none
  | .tdispStop _ => none
  | .ideIntegrityFailure _ => none
  | .getVersion _ => none
  | .getCapabilities _ => none
  | .negotiateAlgorithms _ => none
  | .getDigests _ => none
  | .getCertificate _ => none
  | .challenge _ => none
  | .getMeasurements _ => none
  | .keyExchange _ => none
  | .finish _ => none
  | .moduleReset => none
  | .readinessFlagSet _ => none
  | .clockThrottle => none
  | .clockRestore => none
  | .thermalShutdown => none
  | .tokenArrival _ _ => none
  | .headerBeatLatch _ => none
  | .tokenAgeTick => none
  | .starvationForce _ _ _ => none
  | .instanceCommit _ => none
  | .generationAdvance _ _ _ => none
  | .tagGrant _ _ _ => none
  | .returnTailEnd _ => none
  | .settledRmwPerform _ => none
  | .phaseEnd _ _ => none
  | .configLoad _ _ => none
  | .configFlip _ _ => none
  | .isolationGateTimeout _ _ _ => none
  | .allocatorPlace _ => none
  | .strandSave _ _ => none
  | .strandRestore _ _ => none
  | .priorityChangeArrival _ => none
  | .streamBeatRequest _ _ _ => none
  | .streamBeatReturn _ _ _ => none
  | .streamPendingStart _ _ _ => none
  | .memoryResponse _ => none
  | .storePerform _ => none
  | .fenceComplete _ => none
  | .engineRelease _ => none
  | .engineOperationStart _ _ => none
  | .transferComplete _ _ => none
  | .migrationFinalWindow _ => none
  | .migrationRelease _ => none
  | .gatherRowReturn _ => none
  | .storePortApply _ _ _ => none
  | .thresholdOffer _ => none
  | .sequencePortApply _ => none
  | .glazeWriteAccept _ => none
  | .glazeContribution _ => none
  | .glazeBarrierEnter _ => none
  | .barrierFlit _ _ _ => none
  | .glazeRelease _ => none
  | .collectiveContribution _ => none
  | .collectiveResult _ => none
  | .flitReceive _ _ => none
  | .laneRetrain _ => none
  | .heartbeatSend => none
  | .peerFailureDetect _ => none
  | .recovery _ => none
  | .backPressureCheck _ _ => none
  | .tagWaitBound _ => none
  | .yldRelease _ => none
  | .qwaitExpiry _ _ => none
  | .faultTakesEffect _ _ => none
  | .faultRecordWrite _ => none
  | .dfncCompletion _ => none
  | .scatterCompletion _ => none
  | .retrainComplete _ _ => none

end Sys2Proof
end

