-- ==== Sys2Proof/Decode.lean ====
section
/-! DEFINITION. Decoding and encoding of block words (R197, R199, R200) and sequencer words (R205): a total function from
bytes to an instruction and the rest, or a named error; and the encoder, from the same tables. -/

namespace Sys2Proof

def Hd.ofWord (w : BitVec 64) : Hd :=
  ⟨w.extractLsb' 50 6, w.extractLsb' 48 2, w.extractLsb' 39 9, w.extractLsb' 30 9⟩
def FmtA.ofBits (p : BitVec 30) : FmtA :=
  ⟨p.extractLsb' 25 5, p.extractLsb' 20 5, p.getLsbD 19, p.extractLsb' 16 3, p.extractLsb' 0 16⟩
def FmtM.ofBits (p : BitVec 30) : FmtM :=
  ⟨p.extractLsb' 25 5, p.extractLsb' 18 7, p.extractLsb' 16 2, p.extractLsb' 13 3, p.extractLsb' 0 13⟩
def FmtC.ofBits (p : BitVec 30) : FmtC := ⟨p.extractLsb' 27 3, p.extractLsb' 0 27⟩
def FmtK.ofBits (p : BitVec 30) : FmtK :=
  ⟨p.extractLsb' 25 5, p.extractLsb' 19 6, p.extractLsb' 13 6, p.extractLsb' 10 3, p.extractLsb' 8 2, p.extractLsb' 0 8⟩
def FmtX.ofBits (p : BitVec 30) : FmtX := ⟨p.extractLsb' 22 8, p.extractLsb' 0 22⟩
def SeqW.ofWord (w : BitVec 64) : SeqW :=
  ⟨w.extractLsb' 50 6, w.extractLsb' 48 2, w.extractLsb' 41 7, w.extractLsb' 34 7, w.getLsbD 33, w.getLsbD 32, w.extractLsb' 0 32⟩

def FmtA.toBits (a : FmtA) : BitVec 30 := a.vci ++ a.vco ++ BitVec.ofBool a.ims ++ a.rnd ++ a.imm
def FmtM.toBits (m : FmtM) : BitVec 30 := m.vc ++ m.msq ++ m.scope ++ m.space ++ m.off
def FmtC.toBits (c : FmtC) : BitVec 30 := c.exn ++ c.boff
def FmtK.toBits (k : FmtK) : BitVec 30 := k.keyvc ++ k.sel ++ k.k ++ k.score ++ k.mode ++ k.filt
def FmtX.toBits (x : FmtX) : BitVec 30 := x.id ++ x.aux
/-- R197: OPC, FN, PM, TA, TB, PAYLOAD. -/
def blockWord (op : BitVec 8) (h : Hd) (p : BitVec 30) : BitVec 64 := op ++ h.fn ++ h.pm ++ h.ta ++ h.tb ++ p
/-- R205. -/
def seqWord (op : BitVec 8) (q : SeqW) : BitVec 64 :=
  op ++ q.fn ++ q.rsvA ++ q.da ++ q.db ++ BitVec.ofBool q.imb ++ BitVec.ofBool q.rsvB ++ q.imm

/-- Opcodes 0x00 to 0x1F of the opcode map (R200). -/
def parseFlow (op : Nat) (h : Hd) (p : BitVec 30) : Option Instr :=
  match op with
  | 0x01 => if !p.getLsbD 19 then some (.movCopy h (FmtA.ofBits p)) else some (.movImmediate h (FmtA.ofBits p))
  | 0x02 => some (.movi h p)
  | 0x03 => some (.movhi h p)
  | 0x04 => some (.fan h p)
  | 0x05 => some (.drop h p)
  | 0x06 => some (.steer h p)
  | 0x07 => some (.merge h p)
  | 0x08 => some (.mrgo h p)
  | 0x09 => some (.sel h p)
  | 0x0A => some (.plog h p)
  | 0x0B => some (.taga h p)
  | 0x0C => some (.tagf h p)
  | 0x0D => if !p.getLsbD 0 then some (.tagxDown h p) else some (.tagxUp h p)
  | 0x0E => some (.wadv h p)
  | 0x0F => some (.gate h p)
  | 0x10 => some (.exit h (FmtC.ofBits p))
  | 0x11 => some (.brb h (FmtC.ofBits p))
  | 0x12 => some (.rdk h p)
  | 0x13 => some (.wrk h p)
  | 0x14 => some (.cnst h p)
  | 0x15 => some (.ord h p)
  | 0x17 => some (.idx h (FmtA.ofBits p))
  | 0x18 => some (.strm h (FmtX.ofBits p))
  | 0x19 => some (.eosd h (FmtX.ofBits p))
  | _ => none

/-- Opcodes 0x20 to 0x3F of the opcode map (R200). -/
def parseInt (op : Nat) (h : Hd) (p : BitVec 30) : Option Instr :=
  match op with
  | 0x20 => some (.iadd h (FmtA.ofBits p))
  | 0x21 => some (.isub h (FmtA.ofBits p))
  | 0x22 => some (.imul h (FmtA.ofBits p))
  | 0x23 => some (.imulh h (FmtA.ofBits p))
  | 0x24 => some (.imad h (FmtA.ofBits p))
  | 0x25 => some (.idiv h (FmtA.ofBits p))
  | 0x26 => some (.irem h (FmtA.ofBits p))
  | 0x27 => some (.ineg h (FmtA.ofBits p))
  | 0x28 => some (.iabs h (FmtA.ofBits p))
  | 0x29 => some (.imin h (FmtA.ofBits p))
  | 0x2A => some (.imax h (FmtA.ofBits p))
  | 0x2B => some (.iand h (FmtA.ofBits p))
  | 0x2C => some (.ior h (FmtA.ofBits p))
  | 0x2D => some (.ixor h (FmtA.ofBits p))
  | 0x2E => some (.inot h (FmtA.ofBits p))
  | 0x2F => some (.ishl h (FmtA.ofBits p))
  | 0x30 => some (.ishr h (FmtA.ofBits p))
  | 0x31 => some (.isar h (FmtA.ofBits p))
  | 0x32 => some (.irot h (FmtA.ofBits p))
  | 0x33 => some (.iclz h (FmtA.ofBits p))
  | 0x34 => some (.ipopc h (FmtA.ofBits p))
  | 0x35 => some (.ibfx h (FmtA.ofBits p))
  | 0x36 => some (.ibfi h (FmtA.ofBits p))
  | 0x37 => some (.icmp h (FmtA.ofBits p))
  | 0x38 => some (.addi h (FmtA.ofBits p))
  | 0x39 => some (.lea h (FmtA.ofBits p))
  | 0x3A => some (.aff h (FmtA.ofBits p))
  | 0x3B => some (.clamp h (FmtA.ofBits p))
  | _ => none

/-- Opcodes 0x40 to 0x5F of the opcode map (R200). -/
def parseFloat (op : Nat) (h : Hd) (p : BitVec 30) : Option Instr :=
  match op with
  | 0x40 => some (.fadd h (FmtA.ofBits p))
  | 0x41 => some (.fsub h (FmtA.ofBits p))
  | 0x42 => some (.fmul h (FmtA.ofBits p))
  | 0x43 => some (.fma h (FmtA.ofBits p))
  | 0x44 => some (.fmin h (FmtA.ofBits p))
  | 0x45 => some (.fmax h (FmtA.ofBits p))
  | 0x46 => some (.fabs h (FmtA.ofBits p))
  | 0x47 => some (.fneg h (FmtA.ofBits p))
  | 0x48 => some (.fcmp h (FmtA.ofBits p))
  | 0x49 => some (.fcvt h (FmtA.ofBits p))
  | 0x4A => some (.frcp h (FmtA.ofBits p))
  | 0x4B => some (.frsq h (FmtA.ofBits p))
  | 0x4C => some (.fex2 h (FmtA.ofBits p))
  | 0x4D => some (.flg2 h (FmtA.ofBits p))
  | 0x4E => some (.ftnh h (FmtA.ofBits p))
  | 0x4F => some (.fexs h (FmtA.ofBits p))
  | 0x50 => some (.fscl h (FmtA.ofBits p))
  | 0x51 => some (.itof h (FmtA.ofBits p))
  | 0x52 => some (.ftoi h (FmtA.ofBits p))
  | 0x53 => some (.frnd h (FmtA.ofBits p))
  | _ => none

/-- Opcodes 0x60 to 0x7F of the opcode map (R200). -/
def parseVec (op : Nat) (h : Hd) (p : BitVec 30) : Option Instr :=
  match op with
  | 0x60 => some (.vbcst h (FmtA.ofBits p))
  | 0x61 => some (.vshuf h (FmtA.ofBits p))
  | 0x62 => some (.vred h (FmtA.ofBits p))
  | 0x63 => some (.vscan h (FmtA.ofBits p))
  | 0x64 => some (.vdot h (FmtA.ofBits p))
  | 0x65 => some (.vcmpr h (FmtA.ofBits p))
  | 0x66 => some (.vexpd h (FmtA.ofBits p))
  | 0x67 => some (.vpack h (FmtA.ofBits p))
  | 0x68 => some (.vunpk h (FmtA.ofBits p))
  | 0x69 => some (.vselm h (FmtA.ofBits p))
  | 0x6A => some (.vlane h (FmtA.ofBits p))
  | 0x6B => some (.viota h (FmtA.ofBits p))
  | 0x70 => some (.vcset h p)
  | 0x71 => some (.vcget h p)
  | 0x72 => some (.hdr h (FmtA.ofBits p))
  | 0x73 => some (.qnt h (FmtA.ofBits p))
  | 0x74 => some (.dqnt h (FmtA.ofBits p))
  | 0x75 => some (.sclx h (FmtA.ofBits p))
  | 0x76 => some (.i4xp h (FmtA.ofBits p))
  | 0x77 => some (.i4xu h (FmtA.ofBits p))
  | _ => none

/-- Opcodes 0x80 to 0x9F of the opcode map (R200). -/
def parseMem (op : Nat) (h : Hd) (p : BitVec 30) : Option Instr :=
  match op with
  | 0x80 => some (.ld h (FmtM.ofBits p))
  | 0x81 => some (.st h (FmtM.ofBits p))
  | 0x82 => some (.ldb h (FmtM.ofBits p))
  | 0x83 => some (.stb h (FmtM.ofBits p))
  | 0x84 => some (.ldl h (FmtM.ofBits p))
  | 0x85 => some (.stnt h (FmtM.ofBits p))
  | 0x86 => some (.pref h (FmtM.ofBits p))
  | 0x87 => some (.atom h (FmtM.ofBits p))
  | 0x88 => some (.cas h (FmtM.ofBits p))
  | 0x89 => some (.fatom h (FmtM.ofBits p))
  | 0x8A => some (.enq h (FmtM.ofBits p))
  | 0x8B => some (.deq h (FmtM.ofBits p))
  | 0x8C => some (.sarm h (FmtX.ofBits p))
  | 0x8D => some (.qfnc h (FmtX.ofBits p))
  | 0x8E => some (.dfnc h (FmtM.ofBits p))
  | 0x8F => some (.rdci h p)
  | 0x90 => some (.fnc h (FmtM.ofBits p))
  | 0x91 => some (.lds h (FmtM.ofBits p))
  | 0x92 => some (.sts h (FmtM.ofBits p))
  | 0x93 => if h.fn == 0 then some (.cntrRead h (FmtX.ofBits p)) else if h.fn == 1 then some (.cntrSnap h (FmtX.ofBits p)) else if h.fn == 2 then some (.cntrStall h (FmtX.ofBits p)) else if h.fn == 3 then some (.cntrLink h (FmtX.ofBits p)) else none
  | _ => none

/-- Opcodes 0xA0 to 0xBF of the opcode map (R200). -/
def parseEngine (op : Nat) (h : Hd) (p : BitVec 30) : Option Instr :=
  match op with
  | 0xA0 => some (.xfer h (FmtX.ofBits p))
  | 0xA1 => some (.xpk h p)
  | 0xA2 => some (.gath h (FmtX.ofBits p))
  | 0xA3 => some (.scat h (FmtX.ofBits p))
  | 0xA4 => some (.dcnt h (FmtX.ofBits p))
  | 0xA5 => some (.trdy h (FmtX.ofBits p))
  | 0xA6 => some (.coll h (FmtX.ofBits p))
  | 0xA7 => some (.mlds h (FmtA.ofBits p))
  | 0xA8 => some (.mswp h p)
  | 0xA9 => some (.mctl h p)
  | 0xAA => some (.mfir h (FmtA.ofBits p))
  | 0xAB => some (.mdrn h (FmtA.ofBits p))
  | 0xAC => some (.mclr h p)
  | 0xB0 => if !p.getLsbD 3 then some (.vdclDeclare h p) else some (.vdclSystolic h p)
  | 0xB1 => some (.vacc h (FmtA.ofBits p))
  | 0xB2 => some (.bnds h (FmtA.ofBits p))
  | 0xB3 => some (.topk h (FmtA.ofBits p))
  | 0xB4 => some (.thrp h p)
  | 0xB5 => some (.vpik h (FmtA.ofBits p))
  | 0xB6 => some (.iscr h (FmtA.ofBits p))
  | _ => none

/-- Opcodes 0xC0 to 0xDF of the opcode map (R200). -/
def parseMatch (op : Nat) (h : Hd) (p : BitVec 30) : Option Instr :=
  match op with
  | 0xC0 => some (.kdef h (FmtK.ofBits p))
  | 0xC1 => some (.kput h (FmtK.ofBits p))
  | 0xC2 => some (.kqry h (FmtK.ofBits p))
  | 0xC3 => some (.kdel h (FmtK.ofBits p))
  | 0xC4 => some (.kmrg h (FmtK.ofBits p))
  | 0xC5 => some (.ksmx h (FmtK.ofBits p))
  | 0xC6 => some (.kgen h (FmtK.ofBits p))
  | 0xC7 => some (.kcnt h (FmtK.ofBits p))
  | 0xC8 => some (.kflt h (FmtK.ofBits p))
  | 0xC9 => some (.ksid h (FmtK.ofBits p))
  | 0xD0 => some (.splk h (FmtM.ofBits p))
  | 0xD1 => some (.spap h (FmtM.ofBits p))
  | 0xD2 => some (.spfk h p)
  | 0xD3 => some (.sprl h p)
  | 0xD4 => some (.spwn h p)
  | 0xD5 => some (.sprg h p)
  | 0xD8 => some (.rld h (FmtM.ofBits p))
  | 0xD9 => some (.rst h (FmtM.ofBits p))
  | 0xDA => some (.ratm h (FmtM.ofBits p))
  | 0xDB => some (.glaze h (FmtM.ofBits p))
  | _ => none

/-- Opcodes 0xE0 to 0xEF of the opcode map (R200). -/
def parseSys (op : Nat) (h : Hd) (p : BitVec 30) : Option Instr :=
  match op with
  | 0xE0 => some (.trap h p)
  | 0xE1 => some (.bkpt h p)
  | 0xE2 => some (.svc h p)
  | 0xE3 => some (.rdsr h p)
  | 0xE4 => some (.wrsr h p)
  | 0xE5 => some (.cpri h p)
  | 0xE6 => some (.yld h p)
  | 0xE7 => some (.steal h (FmtX.ofBits p))
  | 0xE8 => if !p.getLsbD 21 then some (.spltSteal h p) else some (.spltClaim h p)
  | 0xE9 => some (.perf h (FmtX.ofBits p))
  | 0xEA => some (.done h p)
  | 0xEB => some (.frd h p)
  | 0xEC => some (.resm h p)
  | _ => none

/-- Opcodes 0xF0 to 0xF9: sequencer words (R331). -/
def parseSeq (op : Nat) (q : SeqW) : Option Instr :=
  match op with
  | 0xF0 => if q.imb then some (.qcfgLabel q) else some (.qcfgRegister q)
  | 0xF1 => some (.qloop q)
  | 0xF2 => some (.qbr q)
  | 0xF3 => if !q.imb then some (.qarmRegister q) else if q.imb && !q.imm.msb then some (.qarmConstants q) else some (.qarmKeep q)
  | 0xF4 => if !q.imb then some (.qwaitStream q) else some (.qwaitCycles q)
  | 0xF5 => some (.qset q)
  | 0xF6 => some (.qadd q)
  | 0xF7 => some (.qend q)
  | 0xF8 => some (.qprd q)
  | 0xF9 => if !q.imb then some (.qglzWait q) else some (.qglzNowait q)
  | _ => none

/-- The eight groups of 32 opcodes (R200). -/
def parse (w : BitVec 64) : Option Instr :=
  let op := (w.extractLsb' 56 8).toNat
  let h := Hd.ofWord w
  let p := w.extractLsb' 0 30
  if op < 0x20 then parseFlow op h p
  else if op < 0x40 then parseInt op h p
  else if op < 0x60 then parseFloat op h p
  else if op < 0x80 then parseVec op h p
  else if op < 0xA0 then parseMem op h p
  else if op < 0xC0 then parseEngine op h p
  else if op < 0xE0 then parseMatch op h p
  else if op < 0xF0 then parseSys op h p
  else parseSeq op (SeqW.ofWord w)

/-- FN of a CNTR word selects the form; a code R201 does not give is no instruction (R207). -/
def parseError (w : BitVec 64) : DecodeError := if w.extractLsb' 56 8 == (0x93 : BitVec 8) then .badFn else .reservedOpcode

/-- One 64-bit word. -/
def decodeWord (w : BitVec 64) : Except DecodeError Instr :=
  match parse w with
  | none => .error (parseError w)
  | some i => match i.error with
    | some e => .error e
    | none => .ok i

/-- Bytes in address order to a number, little-endian (R2). -/
def leNat : List Byte → Nat
  | [] => 0
  | b :: bs => b.toNat + 256 * leNat bs

/-- The low `n` bytes of a number in address order (R2). -/
def leBytes : Nat → Nat → List Byte
  | 0, _ => []
  | n + 1, v => BitVec.ofNat 8 v :: leBytes n (v / 256)

/-- Decode the first word of a byte sequence (R197: words are stored little-endian). -/
def decode (bs : List Byte) : Except DecodeError (Instr × List Byte) :=
  if bs.length < 8 then .error .short else
    match decodeWord (BitVec.ofNat 64 (leNat (bs.take 8))) with
    | .ok i => .ok (i, bs.drop 8)
    | .error e => .error e

/-- The host's question: the instruction read from the table's bits of a row, the bits above them zero. -/
def decodeTableWord (nbits w : Nat) : Option Instr :=
  match decode (leBytes 8 (w % 2 ^ nbits)) with
  | .ok (i, _) => some i
  | .error _ => none

/-- The word of an instruction; the device's own steps have none. -/
def encode : Instr → Option (BitVec 64)
  | .movCopy h a => some (blockWord 0x01 h a.toBits)
  | .movImmediate h a => some (blockWord 0x01 h a.toBits)
  | .movi h i => some (blockWord 0x02 h i)
  | .movhi h i => some (blockWord 0x03 h i)
  | .fan h i => some (blockWord 0x04 h i)
  | .drop h i => some (blockWord 0x05 h i)
  | .steer h i => some (blockWord 0x06 h i)
  | .merge h i => some (blockWord 0x07 h i)
  | .mrgo h i => some (blockWord 0x08 h i)
  | .sel h i => some (blockWord 0x09 h i)
  | .plog h i => some (blockWord 0x0A h i)
  | .taga h i => some (blockWord 0x0B h i)
  | .tagf h i => some (blockWord 0x0C h i)
  | .tagxDown h i => some (blockWord 0x0D h i)
  | .tagxUp h i => some (blockWord 0x0D h i)
  | .wadv h i => some (blockWord 0x0E h i)
  | .gate h i => some (blockWord 0x0F h i)
  | .exit h c => some (blockWord 0x10 h c.toBits)
  | .brb h c => some (blockWord 0x11 h c.toBits)
  | .rdk h i => some (blockWord 0x12 h i)
  | .wrk h i => some (blockWord 0x13 h i)
  | .cnst h i => some (blockWord 0x14 h i)
  | .ord h i => some (blockWord 0x15 h i)
  | .idx h a => some (blockWord 0x17 h a.toBits)
  | .strm h x => some (blockWord 0x18 h x.toBits)
  | .eosd h x => some (blockWord 0x19 h x.toBits)
  | .iadd h a => some (blockWord 0x20 h a.toBits)
  | .isub h a => some (blockWord 0x21 h a.toBits)
  | .imul h a => some (blockWord 0x22 h a.toBits)
  | .imulh h a => some (blockWord 0x23 h a.toBits)
  | .imad h a => some (blockWord 0x24 h a.toBits)
  | .idiv h a => some (blockWord 0x25 h a.toBits)
  | .irem h a => some (blockWord 0x26 h a.toBits)
  | .ineg h a => some (blockWord 0x27 h a.toBits)
  | .iabs h a => some (blockWord 0x28 h a.toBits)
  | .imin h a => some (blockWord 0x29 h a.toBits)
  | .imax h a => some (blockWord 0x2A h a.toBits)
  | .iand h a => some (blockWord 0x2B h a.toBits)
  | .ior h a => some (blockWord 0x2C h a.toBits)
  | .ixor h a => some (blockWord 0x2D h a.toBits)
  | .inot h a => some (blockWord 0x2E h a.toBits)
  | .ishl h a => some (blockWord 0x2F h a.toBits)
  | .ishr h a => some (blockWord 0x30 h a.toBits)
  | .isar h a => some (blockWord 0x31 h a.toBits)
  | .irot h a => some (blockWord 0x32 h a.toBits)
  | .iclz h a => some (blockWord 0x33 h a.toBits)
  | .ipopc h a => some (blockWord 0x34 h a.toBits)
  | .ibfx h a => some (blockWord 0x35 h a.toBits)
  | .ibfi h a => some (blockWord 0x36 h a.toBits)
  | .icmp h a => some (blockWord 0x37 h a.toBits)
  | .addi h a => some (blockWord 0x38 h a.toBits)
  | .lea h a => some (blockWord 0x39 h a.toBits)
  | .aff h a => some (blockWord 0x3A h a.toBits)
  | .clamp h a => some (blockWord 0x3B h a.toBits)
  | .fadd h a => some (blockWord 0x40 h a.toBits)
  | .fsub h a => some (blockWord 0x41 h a.toBits)
  | .fmul h a => some (blockWord 0x42 h a.toBits)
  | .fma h a => some (blockWord 0x43 h a.toBits)
  | .fmin h a => some (blockWord 0x44 h a.toBits)
  | .fmax h a => some (blockWord 0x45 h a.toBits)
  | .fabs h a => some (blockWord 0x46 h a.toBits)
  | .fneg h a => some (blockWord 0x47 h a.toBits)
  | .fcmp h a => some (blockWord 0x48 h a.toBits)
  | .fcvt h a => some (blockWord 0x49 h a.toBits)
  | .frcp h a => some (blockWord 0x4A h a.toBits)
  | .frsq h a => some (blockWord 0x4B h a.toBits)
  | .fex2 h a => some (blockWord 0x4C h a.toBits)
  | .flg2 h a => some (blockWord 0x4D h a.toBits)
  | .ftnh h a => some (blockWord 0x4E h a.toBits)
  | .fexs h a => some (blockWord 0x4F h a.toBits)
  | .fscl h a => some (blockWord 0x50 h a.toBits)
  | .itof h a => some (blockWord 0x51 h a.toBits)
  | .ftoi h a => some (blockWord 0x52 h a.toBits)
  | .frnd h a => some (blockWord 0x53 h a.toBits)
  | .vbcst h a => some (blockWord 0x60 h a.toBits)
  | .vshuf h a => some (blockWord 0x61 h a.toBits)
  | .vred h a => some (blockWord 0x62 h a.toBits)
  | .vscan h a => some (blockWord 0x63 h a.toBits)
  | .vdot h a => some (blockWord 0x64 h a.toBits)
  | .vcmpr h a => some (blockWord 0x65 h a.toBits)
  | .vexpd h a => some (blockWord 0x66 h a.toBits)
  | .vpack h a => some (blockWord 0x67 h a.toBits)
  | .vunpk h a => some (blockWord 0x68 h a.toBits)
  | .vselm h a => some (blockWord 0x69 h a.toBits)
  | .vlane h a => some (blockWord 0x6A h a.toBits)
  | .viota h a => some (blockWord 0x6B h a.toBits)
  | .vcset h i => some (blockWord 0x70 h i)
  | .vcget h i => some (blockWord 0x71 h i)
  | .hdr h a => some (blockWord 0x72 h a.toBits)
  | .qnt h a => some (blockWord 0x73 h a.toBits)
  | .dqnt h a => some (blockWord 0x74 h a.toBits)
  | .sclx h a => some (blockWord 0x75 h a.toBits)
  | .i4xp h a => some (blockWord 0x76 h a.toBits)
  | .i4xu h a => some (blockWord 0x77 h a.toBits)
  | .ld h m => some (blockWord 0x80 h m.toBits)
  | .st h m => some (blockWord 0x81 h m.toBits)
  | .ldb h m => some (blockWord 0x82 h m.toBits)
  | .stb h m => some (blockWord 0x83 h m.toBits)
  | .ldl h m => some (blockWord 0x84 h m.toBits)
  | .stnt h m => some (blockWord 0x85 h m.toBits)
  | .pref h m => some (blockWord 0x86 h m.toBits)
  | .atom h m => some (blockWord 0x87 h m.toBits)
  | .cas h m => some (blockWord 0x88 h m.toBits)
  | .fatom h m => some (blockWord 0x89 h m.toBits)
  | .enq h m => some (blockWord 0x8A h m.toBits)
  | .deq h m => some (blockWord 0x8B h m.toBits)
  | .sarm h x => some (blockWord 0x8C h x.toBits)
  | .qfnc h x => some (blockWord 0x8D h x.toBits)
  | .dfnc h m => some (blockWord 0x8E h m.toBits)
  | .rdci h i => some (blockWord 0x8F h i)
  | .fnc h m => some (blockWord 0x90 h m.toBits)
  | .lds h m => some (blockWord 0x91 h m.toBits)
  | .sts h m => some (blockWord 0x92 h m.toBits)
  | .cntrRead h x => some (blockWord 0x93 h x.toBits)
  | .cntrSnap h x => some (blockWord 0x93 h x.toBits)
  | .cntrStall h x => some (blockWord 0x93 h x.toBits)
  | .cntrLink h x => some (blockWord 0x93 h x.toBits)
  | .xfer h x => some (blockWord 0xA0 h x.toBits)
  | .xpk h i => some (blockWord 0xA1 h i)
  | .gath h x => some (blockWord 0xA2 h x.toBits)
  | .scat h x => some (blockWord 0xA3 h x.toBits)
  | .dcnt h x => some (blockWord 0xA4 h x.toBits)
  | .trdy h x => some (blockWord 0xA5 h x.toBits)
  | .coll h x => some (blockWord 0xA6 h x.toBits)
  | .mlds h a => some (blockWord 0xA7 h a.toBits)
  | .mswp h i => some (blockWord 0xA8 h i)
  | .mctl h i => some (blockWord 0xA9 h i)
  | .mfir h a => some (blockWord 0xAA h a.toBits)
  | .mdrn h a => some (blockWord 0xAB h a.toBits)
  | .mclr h i => some (blockWord 0xAC h i)
  | .vdclDeclare h i => some (blockWord 0xB0 h i)
  | .vdclSystolic h i => some (blockWord 0xB0 h i)
  | .vacc h a => some (blockWord 0xB1 h a.toBits)
  | .bnds h a => some (blockWord 0xB2 h a.toBits)
  | .topk h a => some (blockWord 0xB3 h a.toBits)
  | .thrp h i => some (blockWord 0xB4 h i)
  | .vpik h a => some (blockWord 0xB5 h a.toBits)
  | .iscr h a => some (blockWord 0xB6 h a.toBits)
  | .kdef h k => some (blockWord 0xC0 h k.toBits)
  | .kput h k => some (blockWord 0xC1 h k.toBits)
  | .kqry h k => some (blockWord 0xC2 h k.toBits)
  | .kdel h k => some (blockWord 0xC3 h k.toBits)
  | .kmrg h k => some (blockWord 0xC4 h k.toBits)
  | .ksmx h k => some (blockWord 0xC5 h k.toBits)
  | .kgen h k => some (blockWord 0xC6 h k.toBits)
  | .kcnt h k => some (blockWord 0xC7 h k.toBits)
  | .kflt h k => some (blockWord 0xC8 h k.toBits)
  | .ksid h k => some (blockWord 0xC9 h k.toBits)
  | .splk h m => some (blockWord 0xD0 h m.toBits)
  | .spap h m => some (blockWord 0xD1 h m.toBits)
  | .spfk h i => some (blockWord 0xD2 h i)
  | .sprl h i => some (blockWord 0xD3 h i)
  | .spwn h i => some (blockWord 0xD4 h i)
  | .sprg h i => some (blockWord 0xD5 h i)
  | .rld h m => some (blockWord 0xD8 h m.toBits)
  | .rst h m => some (blockWord 0xD9 h m.toBits)
  | .ratm h m => some (blockWord 0xDA h m.toBits)
  | .glaze h m => some (blockWord 0xDB h m.toBits)
  | .trap h i => some (blockWord 0xE0 h i)
  | .bkpt h i => some (blockWord 0xE1 h i)
  | .svc h i => some (blockWord 0xE2 h i)
  | .rdsr h i => some (blockWord 0xE3 h i)
  | .wrsr h i => some (blockWord 0xE4 h i)
  | .cpri h i => some (blockWord 0xE5 h i)
  | .yld h i => some (blockWord 0xE6 h i)
  | .steal h x => some (blockWord 0xE7 h x.toBits)
  | .spltSteal h i => some (blockWord 0xE8 h i)
  | .spltClaim h i => some (blockWord 0xE8 h i)
  | .perf h x => some (blockWord 0xE9 h x.toBits)
  | .done h i => some (blockWord 0xEA h i)
  | .frd h i => some (blockWord 0xEB h i)
  | .resm h i => some (blockWord 0xEC h i)
  | .qcfgLabel q => some (seqWord 0xF0 q)
  | .qcfgRegister q => some (seqWord 0xF0 q)
  | .qloop q => some (seqWord 0xF1 q)
  | .qbr q => some (seqWord 0xF2 q)
  | .qarmRegister q => some (seqWord 0xF3 q)
  | .qarmConstants q => some (seqWord 0xF3 q)
  | .qarmKeep q => some (seqWord 0xF3 q)
  | .qwaitStream q => some (seqWord 0xF4 q)
  | .qwaitCycles q => some (seqWord 0xF4 q)
  | .qset q => some (seqWord 0xF5 q)
  | .qadd q => some (seqWord 0xF6 q)
  | .qend q => some (seqWord 0xF7 q)
  | .qprd q => some (seqWord 0xF8 q)
  | .qglzWait q => some (seqWord 0xF9 q)
  | .qglzNowait q => some (seqWord 0xF9 q)
  | .launchToken _ _ => none
  | .hostAccessDiscarded _ => none
  | .tlbInvalidation _ => none
  | .freePageWrite _ => none
  | .hostResume _ _ => none
  | .faultSummaryRead _ => none
  | .correctedErrorRead _ => none
  | .hostErrorCounterRead => none
  | .bindingWrite _ _ _ => none
  | .buddyCopyEnable _ => none
  | .registerWrite _ _ _ => none
  | .tdispRequest _ _ => none
  | .tdispStop _ => none
  | .ideIntegrityFailure _ => none
  | .getVersion _ => none
  | .getCapabilities _ => none
  | .negotiateAlgorithms _ => none
  | .getDigests _ => none
  | .getCertificate _ => none
  | .challenge _ => none
  | .getMeasurements _ => none
  | .keyExchange _ => none
  | .finish _ => none
  | .moduleReset => none
  | .readinessFlagSet _ => none
  | .clockThrottle => none
  | .clockRestore => none
  | .thermalShutdown => none
  | .tokenArrival _ _ => none
  | .headerBeatLatch _ => none
  | .tokenAgeTick => none
  | .starvationForce _ _ _ => none
  | .instanceCommit _ => none
  | .generationAdvance _ _ _ => none
  | .tagGrant _ _ _ => none
  | .returnTailEnd _ => none
  | .settledRmwPerform _ => none
  | .phaseEnd _ _ => none
  | .configLoad _ _ => none
  | .configFlip _ _ => none
  | .isolationGateTimeout _ _ _ => none
  | .allocatorPlace _ => none
  | .strandSave _ _ => none
  | .strandRestore _ _ => none
  | .priorityChangeArrival _ => none
  | .streamBeatRequest _ _ _ => none
  | .streamBeatReturn _ _ _ => none
  | .streamPendingStart _ _ _ => none
  | .memoryResponse _ => none
  | .storePerform _ => none
  | .fenceComplete _ => none
  | .engineRelease _ => none
  | .engineOperationStart _ _ => none
  | .transferComplete _ _ => none
  | .migrationFinalWindow _ => none
  | .migrationRelease _ => none
  | .gatherRowReturn _ => none
  | .storePortApply _ _ _ => none
  | .thresholdOffer _ => none
  | .sequencePortApply _ => none
  | .glazeWriteAccept _ => none
  | .glazeContribution _ => none
  | .glazeBarrierEnter _ => none
  | .barrierFlit _ _ _ => none
  | .glazeRelease _ => none
  | .collectiveContribution _ => none
  | .collectiveResult _ => none
  | .flitReceive _ _ => none
  | .laneRetrain _ => none
  | .heartbeatSend => none
  | .peerFailureDetect _ => none
  | .recovery _ => none
  | .backPressureCheck _ _ => none
  | .tagWaitBound _ => none
  | .yldRelease _ => none
  | .qwaitExpiry _ _ => none
  | .faultTakesEffect _ _ => none
  | .faultRecordWrite _ => none
  | .dfncCompletion _ => none
  | .scatterCompletion _ => none
  | .retrainComplete _ _ => none

/-- The bytes of an instruction, in address order. -/
def encodeBytes (i : Instr) : Option (List Byte) := (encode i).map fun w => leBytes 8 w.toNat

end Sys2Proof
end

