-- ==== Sys2Proof/Config.lean ====
section
/-! DEFINITION. What one device or one installation fixes and the spec does not give, and the FREE VALUES of the model.
Every constant here is opaque: nothing in Lean can evaluate it, so a statement holds whatever its value is. -/

namespace Sys2Proof.Config

/-- FREE VALUE number n, as wide as its user needs (log entry 1): read with the state's counter, never twice. -/
opaque free : Nat → Nat

/-- The logical module number strapped at assembly (LMOD's reset, R404) and the pod number (R322). -/
opaque moduleStrap : BitVec 8
opaque podNumber : BitVec 5
/-- The key pair the device generates for slot 0 at reset (R347). -/
opaque deviceKey : BitVec 512
/-- The AES-GMAC of a binding word under a link key, cut to 64 bits (R165); the cipher is outside the model. -/
opaque gmac : BitVec 256 → Word → Word
/-- The 40-bit PMAC of a flit (R167), from the link key, the nonce and the flit, whose own PMAC and FEC are 0. -/
opaque pmac : BitVec 256 → Nat → Flit → BitVec 40
/-- The 48 bytes that AES-256-GCM adds to a payload, modulo 2, under a key and a nonce (R167), and the FEC fragment of a flit. -/
opaque keystream : BitVec 256 → Nat → Beat
opaque fec : Flit → BitVec 64
/-- The payloads of a message's flits, and what the payloads received on a binding of a class say (R167: the coding is private). -/
opaque payloads : FlitBody → List Beat
opaque message : Nat → List Beat → Option FlitBody
/-- Whether a partition-table entry lists a module as one of the partition (R165; R346 gives the entry no such field). -/
opaque listsModule : BitVec 1024 → BitVec 8 → Bool
/-- Where a line of an address lies in the copy area at the buddy (R404). -/
opaque buddyPlace : Nat → Nat
/-- The coding of compressed lines (R137) is not published: a line's stored sectors, and its plain bytes. -/
opaque compress : List Byte → List Beat
opaque decompress : List Beat → Option (List Byte)
/-- SHAKE256 with 64-byte output (R349), over a digest followed by bytes. -/
opaque shake : BitVec 512 → List Byte → BitVec 512
/-- The digest of a configuration image's bytes (R349). -/
opaque imageDigest : List Byte → BitVec 512
/-- The answer body Tchizer's responder gives to an SPDM request (R349): certificate chains and signatures. -/
opaque spdmAnswer : Nat → Nat → Nat → BitVec 512
/-- Digests of boot ROM, die firmware and Tchizer firmware (R349, indices 1 to 3). -/
opaque firmwareDigest : Nat → Nat → BitVec 512
/-- Whether the die's firmware passes its ML-DSA-65 check at boot (R401). -/
opaque firmwareGood : Nat → Bool

/-! Physical memory (R10, R14, R15): 8 HBM stacks of 48 GiB and 12 LPDDR packages of 128 GiB, 32 GiB of which are the glaze spill area.
Where each part lies in the 52-bit physical address space is not given: the parts come in some order, with some gaps (log entry 51). -/

def hbmStackBytes : Nat := 48 * 2 ^ 30
def lpddrPackageBytes : Nat := 128 * 2 ^ 30
def spillBytes : Nat := 32 * 2 ^ 30
/-- The place of a part (HBM stacks 0 to 7, LPDDR packages 8 to 19) in the order of the addresses, and the gap before it. -/
opaque partRank : Nat → Nat
opaque partGap : Nat → Nat
/-- The LPDDR package that holds the spill area, and where in it. -/
opaque spillPackage : Nat
opaque spillPlace : Nat

def partBytes (i : Nat) : Nat := if i < 8 then hbmStackBytes else lpddrPackageBytes
/-- A gap in bytes: whole 64 KiB frames, less than 64 TiB. -/
def gapBytes (i : Nat) : Nat := partGap i % 2 ^ 30 * 65536
/-- The first address of a part: behind every part that comes before it. -/
def partBase (i : Nat) : Nat :=
  (((List.range 20).filter fun j => decide (partRank j < partRank i ∨ partRank j = partRank i ∧ j < i)).map fun j =>
    gapBytes j + partBytes j).foldl (· + ·) (gapBytes i)
def spillBase : Nat :=
  partBase (8 + spillPackage % 12) + spillPlace % ((lpddrPackageBytes - spillBytes) / 65536 + 1) * 65536

/-- What an address of physical memory reaches: the stack of a die, or an LPDDR package. -/
inductive Part where
  | hbm (die : Nat) | lpddr (package : Nat)
deriving DecidableEq, Repr

def within (base size pa : Nat) : Bool := decide (base ≤ pa ∧ pa < base + size)
/-- The memory at a physical address; none where the module has none, or where the spill area lies. -/
def memoryAt (pa : Nat) : Option Part :=
  if within spillBase spillBytes pa then none else
  ((List.range 20).find? fun i => within (partBase i) (partBytes i) pa).map fun i =>
    if i < 8 then Part.hbm i else Part.lpddr (i - 8)

/-- Entries of the TLBs (R12); lines of an L2 (128 slices of 512 KiB), an RDC (32 MiB) and one cell of a wafer line cache. -/
def waferTlbEntries : Nat := 256
def dieTlbEntries : Nat := 16384
def l2Lines : Nat := 128 * 524288 / 192
def rdcLines : Nat := 32 * 2 ^ 20 / 192
def cellLines : Nat := 65536 / 192

/-- Cells, wafers, slots of one die (R12, R17). -/
def diesPerModule : Nat := 8
def wafersPerDie : Nat := 64
def cellsPerWafer : Nat := 64
/-- Bytes of a cell bank (R12). -/
def bankBytes : Nat := 65536
/-- Records a die buffers per parity (64 MiB of 96 bytes: R15, R171) and records of the module's spill area (R395). -/
def glazeRecordsPerDie : Nat := 64 * 2 ^ 20 / 96
def spillRecords : Nat := spillBytes / 96
/-- The byte of a step-shared page of another module as a glaze has left it (R163): partition, step, module, address. -/
opaque sharedByte : Nat → Nat → Nat → Nat → Byte
/-- The check code over a sector's data and its metadata bits [71:0], and the integrity code under a key over data, address, KIDX and
STATE (R131). -/
opaque ecc : List Byte → BitVec 72 → BitVec 56
opaque mac : BitVec 512 → List Byte → Nat → BitVec 8 → BitVec 4 → BitVec 56
/-- Ready records of a die (R60). -/
def readyRecords : Nat := 4096

end Sys2Proof.Config
end

