-- ==== Sys2Proof/Machine/State.lean ====
section
/-! DEFINITION. The state of one module (8 compute dies, memories, engines, links, host registers) as plain data, and the
state after reset. INVENTORY.md lists every piece with the rule that names it. -/

namespace Sys2Proof.Machine

/-- A sparse table: keys strictly rising, no entry that equals the table's default (the reset value). -/
abbrev Tab (α : Type) := List (Nat × α)

/-- An exact value: (-1)^neg × man × 2^exp (man = 0 is a signed zero), an infinity, or NaN. -/
inductive Val where
  | fin (neg : Bool) (man : Nat) (exp : Int)
  | inf (neg : Bool)
  | nan
deriving DecidableEq, Repr

/-- Level, tag and generation of an instance (R19). -/
structure Key where
  lvl : BitVec 3
  tag : BitVec 8
  gen : BitVec 2
deriving DecidableEq, Repr

/-- A configuration context: die, wafer, context slot (R17). -/
structure Ctx where
  die : Nat
  wafer : Nat
  slot : Nat
deriving DecidableEq, Repr

/-- A node: a context and an instruction index (R17). -/
structure Node where
  ctx : Ctx
  index : Nat
deriving DecidableEq, Repr

def Key.zero : Key := ⟨0, 0, 0⟩
def Node.zero : Node := ⟨⟨0, 0, 0⟩, 0⟩

/-- The FLAGS of a token (R26); CIPH is 0 on a die. -/
structure Flags where
  hdr : Bool := false
  last : Bool := false
  endf : Bool := false
  nil : Bool := false
  poi : Bool := false
  crb : Bool := false
  cside : Bool := false
  retry : Bool := false
deriving DecidableEq, Repr

/-- What a token carries besides its destination and instance (R23). -/
structure Tok where
  wave : BitVec 16 := 0
  seq : BitVec 16 := 0
  vc : BitVec 5 := 0
  fl : Flags := {}
  age : BitVec 8 := 0
  nlane : BitVec 7 := 0
  data : Beat := 0
  /-- The match store whose port sent it (global store id + 1, 0 for none): a merge node tells its inputs apart (R380). -/
  src : Nat := 0
deriving DecidableEq, Repr

/-- A token on its way to, or waiting at, operand slot `port` of a node (R18, R23). -/
structure LTok where
  node : Node
  port : Nat
  key : Key
  tok : Tok
deriving DecidableEq, Repr

/-- One result in a node's output latch (R19): the targets that have not accepted it. `late` marks a late token (R292). -/
structure Latch where
  node : Node
  key : Key
  tok : Tok
  left : List (Nat × Nat)
deriving DecidableEq, Repr

/-- The header latch of one node slot and VC (R85, R88): header words, elements consumed under it, elements written. -/
structure HLatch where
  node : Node
  port : Nat
  vc : BitVec 5
  words : List (BitVec 32)
  used : Nat
  wrote : Nat
deriving DecidableEq, Repr

/-- What a node keeps for a tag between firings (R19, R225, R267, R269, R295, R305 to R310). -/
structure Kept where
  node : Node
  key : Key
  ctl : List Tok
  toks : List Tok
  nums : List Nat
deriving DecidableEq, Repr

/-- The reorder window of an MRGO node for one level (R43). -/
structure Mrgo where
  node : Node
  lvl : BitVec 3
  next : BitVec 16
  win : List LTok
deriving DecidableEq, Repr

/-- A token YLD holds and the cycles left (R324). -/
structure Yielded where
  node : Node
  key : Key
  tok : Tok
  left : Nat
deriving DecidableEq, Repr

/-- A token on the operand network (R45): the cell it is at, and the side it came in by (0 north, 1 east, 2 south, 3 west; 4 when that
cell has injected it in this cycle). -/
structure Flight where
  tok : LTok
  die : Nat
  wafer : Nat
  cell : Nat
  side : Nat
deriving DecidableEq, Repr

/-- Tokens and nodes of the module (R19 to R22, R44 to R48, R68, R69). -/
structure Fabric where
  latch : List Latch
  net : List Flight
  part : List LTok
  ostore : List LTok
  hlatch : List HLatch
  kept : List Kept
  mrgo : List Mrgo
  yielded : List Yielded
  /-- Credits spent per (cell, context) (R47). -/
  spent : Tab Nat
  /-- Stall words per node (R22). -/
  stall : Tab (BitVec 64)
  /-- Starvation counters per (cell, context) (R69). -/
  starve : Tab (BitVec 6)
  /-- Nodes that have issued in the present cycle, one per cell (R68). -/
  issued : List Node
  /-- Contexts that a counter forces to issue (R69). -/
  forced : List (Nat × Nat)
  /-- Cycles since the last age tick (R24). -/
  agePhase : Nat
  /-- Tokens that have entered their slots in the present cycle (R218): node, slot, instance. -/
  came : List (Node × Nat × Key)
  /-- What closed gates have held, in order (R373): a node's latch, or a beat of a stream engine. -/
  turn : List (Node ⊕ (Nat × Nat))
deriving DecidableEq, Repr

/-- A loaded block (R202): header, words, and the address its image came from. -/
structure Block where
  hdr : BitVec 128
  words : List (BitVec 64)
  cfg : Word
  own : Word
deriving DecidableEq, Repr

/-- One context slot of one wafer (R17, R65). -/
structure CtxState where
  active : Option Block := none
  shadow : Option Block := none
  blocked : List Nat := []
  prio : BitVec 4 := 0
deriving DecidableEq, Repr

/-- What each wafer and cell holds beside its contexts. -/
structure Plane where
  ctx : Tab CtxState
  /-- Latched role map and INTLV per wafer (R126). -/
  roles : Tab (BitVec 129)
  consts : Tab Word
  vcs : Tab (BitVec 32)
  thr : Tab (BitVec 64)
  filt : Tab (BitVec 96)
deriving DecidableEq, Repr

/-- A translated access (R133 to R135), or one in a bank. -/
structure Acc where
  bank : Bool := false
  addr : Nat := 0
  va : Word := 0
  /-- The page frame, for the sector grid (R130). -/
  base : Nat := 0
  size : Nat := 0
  ss : Bool := false
  cv : Bool := false
  ca : Bool := false
  conf : Bool := false
  migs : Bool := false
  tier : Bool := false
  cr : BitVec 3 := 0
  kidx : BitVec 8 := 0
  hmod : BitVec 8 := 0
  hdie : BitVec 3 := 0
  /-- The partition in whose tables it was found. -/
  part : Nat := 0
deriving DecidableEq, Repr

/-- A row beat of a SCAT as the firing read it which took it (R87): the bytes of its valid lanes, its format, POI and NIL. -/
structure RowBeat where
  bytes : List Byte
  fmt : BitVec 5
  poi : Bool
  nil : Bool
deriving DecidableEq, Repr

/-- A request at an engine queue (R147, R295, R298). -/
inductive EngReq where
  | xfer (b0 b1 : Beat)
  | gath (scat : Bool) (aux : BitVec 22) (desc : Beat) (idx : List Nat) (rows : List RowBeat) (tok : Tok)
  /-- Of a collective's beats the entries that the firings read which took them (R87). -/
  | coll (id : Nat) (fn : BitVec 6) (vc : BitVec 5) (ents : List (BitVec 32)) (beats : List Tok)
deriving DecidableEq, Repr

/-- An operation at a match store's port (R303 to R311). -/
inductive PortOp where
  | kdef (beat : Beat)
  | kput (keys : List Beat) (info : BitVec 128) (val : Beat) (poi : Bool)
  /-- The tokens taken (slot and token), and the header words of both latches (R336). -/
  | kqry (mode : BitVec 2) (score : BitVec 3) (k : BitVec 6) (filt : BitVec 8) (ops : List (Nat × Tok))
      (qw kw : List (BitVec 32)) (ta tb : BitVec 9)
  | kdel (seqn : BitVec 32)
  | kgen
  | kcnt (ops : List (Nat × Tok))
  | ksid
  /-- The fold that KSIDs of a strand (die × 4096 + task) asked for, at the end of its phase (R113). -/
  | fold (who : Nat)
deriving DecidableEq, Repr

/-- An append on its way to the sequence port (R312, R314): sequence, head group, position, beat; how many bytes of it valid lanes hold
(R25), the page that it was checked for, and the frame address it will write, none on a step-shared page. -/
structure SeqOp where
  sq : Nat
  hg : Nat
  pos : Nat
  beat : Nat
  data : Beat
  valid : Nat
  page : Nat
  poi : Bool
  last : Bool
  frame : Option Nat
deriving DecidableEq, Repr

/-- A buffered write to a step-shared page (R171). -/
structure GRec where
  data : Beat
  poi : Bool
  dom : Nat
  mask : BitVec 48
  aop : BitVec 4
  /-- The format code of DATA (log entry 12). -/
  vc : BitVec 5
  omod : BitVec 8
  oseq : BitVec 32
  step : BitVec 32
  pa : Nat
  die : Nat
deriving DecidableEq, Repr

/-- A held effect of an instance (R30). -/
inductive Eff where
  | store (a : Acc) (bytes : List (Nat × Byte)) (poi whole : Bool)
  | shared (a : Acc) (data : Beat) (mask : BitVec 48) (fmt : BitVec 5) (poi : Bool)
  | enq (a : Acc) (data : Beat) (poi : Bool)
  | carry (k : Nat) (v : Word)
  | leave (toks : List LTok)
  | exit (exn : BitVec 3) (ptr : Option Word)
  | tagf (l : Nat)
  | sarm (e : Nat) (d : BitVec 256)
  | eosd (e : Nat)
  | vcset (i : BitVec 6) (v : BitVec 32)
  | engine (q : Nat) (r : EngReq)
  | qfnc (mask : BitVec 18)
  | dcnt (die ctr amt : Nat)
  | launch (die task : Nat) (ops : List Word) (priov : Bool) (prio : BitVec 4)
  /-- `before`: instances whose held writes had issued when its own committed (R159). -/
  | fnc (scope : BitVec 2) (tok : Tok) (before : List (Ctx × Key))
  | dfnc (lo len : Word) (tok : Tok)
  | glaze (tok : Tok)
  | rst (a : Acc) (data : Beat) (mask : BitVec 48) (fmt : BitVec 5) (poi : Bool) (tok : Tok)
  | port (sel : Nat) (kvc : BitVec 5) (op : PortOp)
  | kflt (f : Nat) (e : BitVec 96)
  | spap (op : SeqOp)
  | spwn (i : Nat) (v : Word)
  | sprg (page : Nat) (clr : Bool)
  | wrsr (t : Nat) (v : Word)
  | offer (die wafer t : Nat) (v : BitVec 48)
  | cpri (p : BitVec 4) (all : Bool)
  | done (dc : Option Nat)
  | resm (va : Word) (act : BitVec 2) (sub : Bool)
deriving DecidableEq, Repr

/-- A held effect, the node it came from, its WAVE and its memory-sequence number (127: none), and the release number that stood next when it
issued: those that an effect of this or a higher release number finds issued before it (R159, R173). -/
structure Held where
  index : Nat
  msq : Nat
  wave : BitVec 16
  iss : Nat
  eff : Eff
deriving DecidableEq, Repr

/-- A block instance (R28 to R32, R292). -/
structure Inst where
  ctx : Ctx
  key : Key
  wave : Option (BitVec 16)
  held : List Held
  issued : List Nat
  /-- A read-modify-write of it has performed, or a descendant of it has committed (R358: no re-run). -/
  rmw : Bool
  /-- Tokens that entered it from outside; those a stream read and delivered, with the walk's descriptor and the beat (R386). -/
  entered : List LTok
  beats : List (LTok × BitVec 256 × Nat)
  /-- Committed, and its return tail open (R292); the release number that stood next when it committed. -/
  tail : Bool
  since : Nat
  /-- Late tokens still due. -/
  due : Nat
  /-- The instances whose tags its own TAGAs were granted (R223). -/
  granted : List Key
deriving DecidableEq, Repr

/-- A granted tag (R222): its instance's parent and continue predicate, the context it was granted in; `dead` when killed, until
its level advances. -/
structure TagRec where
  tag : BitVec 8
  gen : BitVec 2
  parent : Option Key
  frm : Bool
  cont : Option Bool
  reserve : Bool
  dead : Bool
  gone : Bool
  home : Ctx
deriving DecidableEq, Repr

/-- A TAGF that has committed and waits for its level's generation to advance (R226): its node, instance and WAVE, the cycles waited and
whether that has been reported (R369). -/
structure TagfWait where
  node : Node
  key : Key
  wave : BitVec 16
  waited : Nat
  told : Bool
deriving DecidableEq, Repr

/-- A level of a strand (R34 to R39). -/
structure Level where
  gen : BitVec 2
  tags : List TagRec
  /-- The level owes a generation advance (R35, R36). -/
  adv : Bool
  /-- A committed TAGF waits for the advance and the tails (R226, R292). -/
  free : Bool
  /-- A TAGF has committed and no entry has opened since (R226). -/
  closed : Bool
  /-- The first iteration on the current entry: the instance granted first, and its WAVE (R43, R232), set by its first token. -/
  first : Option Key
  w0 : Option (BitVec 16)
  /-- The committed TAGF that waits for the advance (R36, R370): its node and instance, cycles waited, reported. -/
  tagf : Option TagfWait
deriving DecidableEq, Repr

/-- A waiting TAGA (R222, R38): cycles waited and whether it has been reported (R370). -/
structure TagReq where
  node : Node
  key : Key
  trig : Tok
  lvl : BitVec 3
  parent : Option Key
  waited : Nat
  told : Bool
deriving DecidableEq, Repr

/-- What a sequencer does (R51, R330 to R334, R363). -/
inductive SeqMode where
  | run
  | load (slot : Nat) (cfg : Word)
  | loaded (slot : Nat) (cfg : Word)
  /-- The set flips: the wafers that have acknowledged, and the cycles that their gates have been closed (R65, R66). -/
  | flipping (slot : Nat) (cfg : Word) (acked : List Nat) (age : Nat)
  | phase (slot : Nat)
  | failed (slot : Nat) (cfg : Word)
  | cycles (n : Nat)
  | glaze (reg : Nat)
  | faulted
  | ended
deriving DecidableEq, Repr

/-- A glaze contribution that waits (R173): the GLAZE node, its instance and token, or none for the sequencer; the step; the release
number of its commit, and the instances whose held writes had issued by then. -/
structure Glz where
  who : Option (Node × Key × Tok)
  step : BitVec 32
  seq : Nat
  before : List (Ctx × Key)
deriving DecidableEq, Repr

/-- A strand (R49, R50). -/
structure Strand where
  die : Nat
  task : Nat
  part : Nat
  wafers : List Nat
  slots : List Nat
  square : Bool
  sqpc : Word
  q : Tab Word
  i : Tab (BitVec 32)
  sd : Tab (BitVec 256)
  k : Tab Word
  exitMap : Tab (BitVec 4)
  mode : SeqMode
  /-- Level-0 instance of the present or the coming phase, and the wafers whose block has committed it. -/
  l0 : Option Key
  l0done : List Nat
  levels : List Level
  insts : List Inst
  reqs : List TagReq
  /-- Exits committed in this phase: strand-local wafer, exit number, pointer. -/
  exits : List (Nat × BitVec 3 × Option Word)
  done : Option (Option Nat)
  frozen : Bool
  /-- Stopped for a save (R71). -/
  saving : Bool
  /-- The steal queue (R325): requests, each the thief's node and instance with its trigger token. -/
  steals : List LTok
  claims : List Node
  step : BitVec 32
  fault : Word
  /-- The configuration boundary's stamp (R128), and that of the last RDCI (R288). -/
  stamp : Nat
  fills : Nat := 0
  glz : List Glz
deriving DecidableEq, Repr

/-- A ready record (R60): operands, priority, and a saved strand to restore. -/
structure Ready where
  task : Nat
  prio : BitVec 4
  ops : List Word
  restore : Bool
  fault : Word
deriving DecidableEq, Repr

/-- An operand area (R59). -/
structure OpArea where
  ops : List Word := []
  priov : Bool := false
  prio : BitVec 4 := 0
deriving DecidableEq, Repr

/-- A priority on its way to cells (R70): the context that wrote it, the contexts it is for, the cells and slots (cell × 4 + slot) it has
not reached, and the cycles since it was written. -/
structure PrioWrite where
  ctx : Ctx
  ctxs : List Ctx
  prio : BitVec 4
  left : List Nat
  age : Nat
deriving DecidableEq, Repr

/-- A die's plan for a waiting record (R62, R63): the record's task and priority, the set it frees, the strands to be saved, where each
of those that are moved goes, and whether the record has still to be placed. -/
structure Plan where
  task : Nat
  prio : Nat
  wafers : List Nat
  slots : List Nat
  /-- Every wafer that a strand to be saved holds. -/
  cleared : List Nat
  moves : List (Nat × List Nat × List Nat)
  evicts : List Nat
  waits : Bool
deriving DecidableEq, Repr

/-- The task schedulers of the dies (R55 to R63). Tables are keyed by die × 4096 + number. -/
structure Sched where
  tasks : Tab (BitVec 256)
  ops : Tab OpArea
  counters : Tab (BitVec 64)
  ready : List (Nat × Ready)
  /-- Decrements held for a free record (R60): die, counter, amount. -/
  held : List (Nat × Nat × Nat)
  /-- Handler records waiting for a free record: die and record. -/
  heldReady : List (Nat × Ready)
  prioq : List PrioWrite
  /-- Per die, the plan that frees a set for a waiting record. -/
  plans : Tab Plan
deriving DecidableEq, Repr

/-- Fields of a record that name where a fault is (R356). -/
structure Loc where
  kind : Nat
  cause : BitVec 8
  code : Nat := 0
  addr : Word := 0
  wave : Nat := 0
  node : Node := Node.zero
  key : Key := Key.zero
  die : Nat := 0
  task : Nat := 0
  cfg : Word := 0
  sqpc : Word := 0
  step : Nat := 0
  rerun : Bool := false
  hdr : BitVec 128 := 0
  word : BitVec 64 := 0
  detail : Nat := 0
  detail1 : Nat := 0
deriving DecidableEq, Repr

/-- A released effect that has not performed (R153, R158). `seq` is its release number. -/
structure Pend where
  die : Nat
  task : Nat
  node : Node
  key : Key
  msq : Nat
  wave : BitVec 16
  seq : Nat
  /-- An open record holds it (R416). -/
  stuck : Bool
  /-- Partition and wafers of its strand. -/
  part : Nat
  wafers : List Nat
  /-- The step of its strand, once that has ended (R328). -/
  ended : Option (BitVec 32)
  /-- What a fault record says of it, as it was when the effect left its instance (R356). -/
  loc : Loc
  eff : Eff
deriving DecidableEq, Repr

/-- A result to be emitted: to TA, to TB. -/
structure Out where
  a : Bool
  b : Bool
  tok : Tok
deriving DecidableEq, Repr

/-- An outstanding response (R155): what its node will emit, or the read still to be made when it arrives. -/
structure Resp where
  node : Node
  key : Key
  outs : List Out
  late : Bool
  seq : Nat
deriving DecidableEq, Repr

/-- A read-modify-write that waits until its instance is settled (R30, R227): the tokens its firing took, with their slots. -/
structure Rmw where
  node : Node
  key : Key
  ops : List (Nat × Tok)
  msq : Nat
  word : BitVec 64
  seq : Nat
  /-- What the firing read besides its tokens. -/
  nums : List Nat
  /-- One more than the release number that stood next when its instance was first seen settled, which those first seen together share
(R157, R260, R262); 0 before. -/
  since : Nat
deriving DecidableEq, Repr

/-- A copy of a line or beat in a wafer line cache or an RDC (R128, R129). -/
structure Copy where
  wafer : Option Nat
  die : Nat
  addr : Nat
  /-- The line's number, counted within its page (R128, R130). -/
  num : Nat
  bytes : List Byte
  /-- Offsets of its poisoned sectors. -/
  poi : List Nat
  strand : Nat
  stamp : Nat
deriving DecidableEq, Repr

/-- A plain line of a compressed page in the L2 of a die (R129, R137): written since its fill, its bytes, the offsets of its poisoned
sectors. -/
structure PlainLine where
  die : Nat
  dirty : Bool
  bytes : List Byte
  poi : List Nat
deriving DecidableEq, Repr

/-- A TLB entry (R134, R136); `stale` since an invalidation at that stamp. -/
structure Tlb where
  die : Nat
  wafer : Option Nat
  part : Nat
  page : Nat
  size : Nat
  entry : BitVec 128
  stale : Option Nat
deriving DecidableEq, Repr

/-- A migration (R138). -/
structure Migration where
  va : Word
  part : Nat
  leaf : Nat
  old : Nat
  new : Nat
  size : Nat
  tier : Bool
  hdie : Nat
  stage : Nat
  dirty : List Nat
  stamp : Nat
  queue : Nat
deriving DecidableEq, Repr

/-- A sector with an error that no read has found (R383): true for ECC, false for the MAC; with a MAC that was good under a key the
sector's slot no longer holds, that key (R347). -/
structure BadSector where
  sec : Nat
  ecc : Bool
  key : Option (BitVec 512)
deriving DecidableEq, Repr

/-- Memories, copies and what waits on them (files 07, 08, 24). -/
structure Mem where
  phys : List Host.Cell
  bank : List Host.Cell
  poi : List Nat
  kidx : Tab (BitVec 8)
  /-- Sectors that carry CV = 1 (R131, R137). -/
  cvs : List Nat
  /-- Plain lines of compressed pages in the L2s (R137), by address. -/
  plain : Tab PlainLine
  /-- Images the device has made (none: a poisoned sector), and the plain bytes and poisoned offsets each stands for (R137). -/
  coded : List (List (Option Beat) × List Byte × List Nat)
  bad : List BadSector
  copies : List Copy
  tlb : List Tlb
  resp : List Resp
  pend : List Pend
  rmwq : List Rmw
  nextSeq : Nat
  migs : List Migration
  redirect : List (Nat × Nat × Nat × Nat)
  clock : Nat
deriving DecidableEq, Repr

/-- A stream engine (R149, R233). -/
structure Stream where
  desc : BitVec 256 := 0
  armed : Bool := false
  fin : Bool := false
  /-- Beats delivered in the walk: R233 shows 32 bits of it. -/
  sent : Nat := 0
  next : Nat := 0
  consumed : Nat := 0
  stop : Bool := false
  key : Option Key := none
  /-- Context slot of its target; 4 until a QARM's phase has its slot. -/
  slot : Nat := 0
  /-- Task whose strand armed it. -/
  task : Nat := 0
  pending : Option (BitVec 256 × Key × Nat × Nat) := none
  /-- Beats on their way: index, token, and whether the engine has read it from memory. -/
  returns : List (Nat × Tok × Bool) := []
  stuck : Option Nat := none
deriving DecidableEq, Repr

/-- An entry of an engine queue (R161, R162). -/
inductive QEnt where
  /-- A request, its strand's die, task, partition and wafer set, where it was issued (R356), the element its next start performs, and the
  step of its strand, once that has ended. -/
  | op (r : EngReq) (die task part : Nat) (wafers : List Nat) (loc : Loc) (start : Bool) (at_ : Nat) (stuck : Bool) (ended : Option (BitVec 32))
  | fence (id : Nat)
deriving DecidableEq, Repr

/-- A gathered row beat in flight (R150, R151): its gather network's die, the request that another module has still to answer
and whether its page has C = 1,
and what it will emit. -/
structure Row where
  die : Nat
  node : Node
  key : Key
  remote : Option (Nat × Bool)
  out : Out
deriving DecidableEq, Repr

/-- A round of a collective on this module (R176, R298). -/
structure Coll where
  part : Nat
  id : Nat
  fn : BitVec 6
  fmt : BitVec 32
  vc : BitVec 5
  /-- The entries of this module's beats (R87). -/
  ents : List (BitVec 32)
  own : Option (List Tok)
  node : Node
  key : Key
  kids : List (Nat × List Beat)
  bad : Bool
  sent : Bool
  result : Option (List Beat)
  loc : Loc
deriving DecidableEq, Repr

/-- Engines (R147 to R152, R161, R176). -/
structure Engines where
  streams : Tab Stream
  queues : Tab (List QEnt)
  nextFence : Nat
  rows : List Row
  routing : Tab (BitVec 32)
  perf : Tab (BitVec 64)
  events : Tab (BitVec 64)
  links : Tab (BitVec 64)
  colls : List Coll
deriving DecidableEq, Repr

/-- A record of a match store (R99, R100). -/
structure KRec where
  key : List Beat
  info : BitVec 128
  val : Beat
  poi : Bool
deriving DecidableEq, Repr

/-- A store descriptor (R97). -/
abbrev Desc := BitVec 128

/-- A match store (R97). Key: ((die × 64 + wafer) × 64 + select). -/
structure Store where
  desc : Desc := 0
  recs : List KRec := []
  /-- Strands (die × 4096 + task) whose KSID has asked for a fold at the end of their phase (R113). -/
  fold : List Nat := []
  /-- SEQNs of paged records that a fold has removed (R113, log entry 154). -/
  gone : List Nat := []
  /-- Merge-feed buffer (R307): the KQRY and instance it is held for, its beats, and what belongs to them: whether a page with C = 1
  gave some of them (R168), then for each its poison (HARD), or M, l, COUNT and lanes (SOFT). -/
  feed : Option (Node × Key × List Beat × List Nat) := none
  /-- Cells of the wafer whose banks have taken records of this store since they entered their role; and, of its cells that have left it,
  what their banks held then, by offset (R126, log entry 60). -/
  used : List Nat := []
  left : Tab (List Host.Cell) := []
deriving DecidableEq, Repr

/-- A scan under way (R102, R106, R118): the entries of KVC and VVC as it began, the next record and its next key beat, the score so far, the
EPOCH latched for the record, whether its checks go on, the TREG value of its last check, the records that count (score, number, record),
best first, and those whose checks have ended are behind `pos`. -/
structure ScanAt where
  ent : BitVec 32
  vent : BitVec 32
  pos : Nat
  beat : Nat
  acc : Nat
  epoch : Nat
  checking : Bool
  last : Option (BitVec 64)
  hits : List (Nat × Nat × KRec)
deriving DecidableEq, Repr

/-- An operation waiting at a port (R112, R312): node, instance, store-class or not, and what a fault record says of it, as it was when
the operation left its instance (R356). -/
structure PortReq where
  store : Nat
  node : Node
  key : Key
  kvc : BitVec 5
  op : PortOp
  seq : Nat
  loc : Loc
  /-- What a query reads when it reaches its port: its filter entry (R311), LEN of its sequence, if that resolves (R306), and the budgets of
  the head groups that the store has or that a KDEF queued before it names (R317). -/
  filt : BitVec 96
  len : Option Nat
  heads : List (Nat × Bool × Nat × Nat)
  scan : Option ScanAt
deriving DecidableEq, Repr

/-- An offer to a threshold register (R117, R309); `who` when it waits for that instance to be settled. -/
structure Offer where
  die : Nat
  wafer : Nat
  reg : Nat
  val : BitVec 48
  who : Option (Node × Key)
  /-- The strand that issued it. -/
  die0 : Nat
  task : Nat
  /-- The store of another module whose wafer it is for. -/
  store : Option Nat := none
deriving DecidableEq, Repr

/-- A merge's fetch from another module (R309): the request, the store and the rank (none: the whole SOFT result), and its answer. -/
structure Fetch where
  rid : Nat
  gid : Nat
  rank : Option Nat
  res : Option (Option (List Beat × List Nat))
deriving DecidableEq, Repr

/-- A merge node whose last input has come, and what it waits for: the token that completed it, and what the node kept before. -/
structure Merging where
  node : Node
  key : Key
  trig : Tok
  before : List Kept
  fetches : List Fetch
deriving DecidableEq, Repr

structure Match where
  stores : Tab Store
  portq : List PortReq
  /-- Records reserved at firing (R380): store, node, instance. -/
  reserved : List (Nat × Node × Key)
  offers : List Offer
  merging : List Merging
deriving DecidableEq, Repr

/-- A row of a weight plane (R258, R261): bytes, format code, scale code of each lane, poison. -/
structure PlaneRow where
  data : Beat := 0
  fmt : Nat := 2
  scales : List Nat := []
  poison : Bool := false
deriving DecidableEq, Repr

/-- Elements that one header word covers (R88): the block's first element, how many of its elements, the word with the scale that applies,
and the format they are in. -/
structure Span where
  start : Nat
  len : Nat
  word : BitVec 32
  fmt : Nat
deriving DecidableEq, Repr

/-- An activation beat in the tile (R263): k-step, row, the exact sum of its products for each of the 64 columns, the columns it
poisons, whether it ends the accumulation, and its lanes by header block. -/
structure TileBeat where
  step : Nat
  row : Nat
  sums : List Val
  poison : List Nat
  ends : Bool
  blocks : List Span
deriving DecidableEq, Repr

/-- A declaration of a tile's monitor (R266): predicate, register, weight bound word. -/
structure TileDecl where
  pred : BitVec 3
  treg : BitVec 3
  word : BitVec 32
deriving DecidableEq, Repr

/-- A tag's entry in the partial-sum store (R259, R263, R264, R123). -/
structure TileTag where
  key : Key
  slot : Nat
  /-- Accumulator format, as ACCF stood at k-step 0. -/
  fmt : Nat
  beats : List TileBeat
  /-- Beats delivered, and the k-step that ends the accumulation once known. -/
  seen : Nat
  ending : Option Nat
  sums : List Nat
  done : Nat
  final : Bool
  dropped : Bool
  drained : Bool
  poison : List Nat
  decl : Option TileDecl
  epoch : Nat
  checking : Bool
deriving DecidableEq, Repr

structure Tile where
  plane : Tab PlaneRow := []
  shadow : Tab PlaneRow := []
  accf : Bool := false
  tags : List TileTag := []
  /-- By context slot and tag. -/
  decls : List (Nat × Key × TileDecl) := []
deriving DecidableEq, Repr

/-- An append waiting at the sequence port; `stuck` while an open record holds it (R416); `loc` as in PortReq. A write of it to a
step-shared page counts in `step` (R170). -/
structure SeqReq where
  node : Node
  key : Key
  task : Nat
  op : SeqOp
  step : BitVec 32
  seq : Nat
  stuck : Bool
  loc : Loc
deriving DecidableEq, Repr

structure Pages where
  stbase : Word
  poolbase : Word
  pstride : Word
  pdbase : Word
  rb : Word
  ppart : Word
  free : List Nat
  heads : Tab Word
  /-- Pages pinned by an issued append (R390) and pages taken for one (R416): page, node, instance, sequence, group, index. -/
  pinned : List (Nat × Node × Key)
  taken : List (Nat × Node × Key × Nat × Nat × Nat)
  seqq : List SeqReq
  regen : BitVec 128
deriving DecidableEq, Repr

/-- A flit as its sender keeps it (R398): the payload in the clear, CIPH, LAST, and the CRD it went out with. -/
structure Piece where
  payload : Beat
  ciph : Bool
  last : Bool
  crd : BitVec 6
deriving DecidableEq, Repr

/-- A lane group's binding (R165, R167, R398 to R400). -/
structure Link where
  word : Word := 0
  tag : Word := 0
  tx : BitVec 64 := 0
  rx : BitVec 64 := 0
  credits : Nat := 64
  /-- Flits sent whose credit has not returned, oldest first; how many of the last of them are to be sent again (R398); and kept flits of
  a lost binding that are to be sent first (R399). -/
  kept : List Piece := []
  replay : Nat := 0
  again : List Piece := []
  /-- Messages waiting for a credit or for the link, true: CIPH = 1 (R168); pieces of the first that have been sent. -/
  wait : List (FlitBody × Bool) := []
  cut : Nat := 0
  /-- Receive entries freed since the last flit sent (CRD); the payloads received of the message under way (LAST), and whether one of
  them came in the clear. -/
  owed : Nat := 0
  got : List Beat := []
  clear : Bool := false
  /-- The flit that goes out in the present cycle. -/
  wire : Option Flit := none
  /-- Cycles of the drops by PMAC and of the replays that still count (R398, R400). -/
  drops : List Nat := []
  replays : List Nat := []
  failed : Nat := 0
  training : Bool := false
deriving DecidableEq, Repr

/-- A remote request that waits for its answer (R169). -/
structure Remote where
  rid : Nat
  node : Node
  key : Key
  kind : Nat
  tok : Tok
  late : Bool
  seq : Nat
  /-- Its page has C = 1 (R168, R400). -/
  conf : Bool
deriving DecidableEq, Repr

/-- A glaze domain on this module (R170 to R174). -/
structure Domain where
  reg : BitVec 64 := 0
  status : BitVec 128 := 0
  /-- Contributions of the present step: the node and instance, or the strand's sequencer. -/
  contrib : List (Nat × Nat × Option (Node × Key × Tok)) := []
  entered : Bool := false
  /-- Lane groups of the children that have sent their flit up, with its step and the modules it speaks for; those that have been sent
  the flit down. -/
  up : List (Nat × BitVec 32 × Nat) := []
  down : List Nat := []
  sentUp : Bool := false
  released : Bool := false
  oseq : Tab (BitVec 32) := []
  /-- Refused writes per die and parity (die × 2 + parity), and the lowest refused address of each parity (R395, R396). -/
  refused : Tab Nat := []
  frpa : List (Nat × Nat) := []
deriving DecidableEq, Repr

/-- A record on its way to its buffer (R171, R172): what it is sent for (0 a store or a SCAT row, 1 RST, 2 RATM, 3 an atomic), and
the tokens its node will emit, the completion's and the data's. -/
structure Sent where
  grec : GRec
  node : Node
  key : Key
  kind : Nat
  tok : Tok
  ans : Tok
  late : Bool
  seq : Nat
deriving DecidableEq, Repr

structure Pod where
  links : Tab Link
  domains : Tab Domain
  records : List GRec
  /-- Records sent toward their buffers: GLAZE_WRITE_ACCEPT takes one. -/
  sent : List Sent
  remotes : List Remote
  nextRid : Nat
  recovery : BitVec 128
  /-- Buddy copies waiting for an acknowledgement. -/
  buddy : Nat
  /-- Lines held for the module whose buddy this one is: their address there, where they lie here and how long (R404), whether they came as
  ciphertext (R168), and the offsets of their poisoned sectors. -/
  copies : Tab (Nat × Nat × Bool × List Nat)
  /-- Per domain, the cell (plus one) whose step-shared write was numbered last in the present cycle (R172). -/
  ranks : Tab Nat
  /-- Cycles since each peer's heartbeat, and failed peers. -/
  heard : Tab Nat
  peersFailed : List Nat
  fenced : Bool
  /-- Bindings that R399 or R400 has disabled and whose pair is not bound anew, as they failed. -/
  lost : List Link
  /-- STEP of the domains whose copies this module holds (R404, R405), by partition. -/
  copySteps : Tab (BitVec 32)
deriving DecidableEq, Repr

/-- A pending fault of a node (R353). -/
structure FaultReg where
  node : Node
  key : Key
  cause : BitVec 8
  code : BitVec 16
  addr : Word
  wave : BitVec 16
  detail : Beat
  /-- The slots that the firing takes, which a Skip consumes (R358). -/
  slots : List Nat
deriving DecidableEq, Repr

/-- What a record is about, for the effect of its ACT (R358, R360). -/
inductive Subject where
  | exact (die task : Nat) (node : Node) (key : Key)
  | sequencer (die task : Nat)
  | launch (die task : Nat)
  | ring (die task : Nat)
  | stream (die wafer e : Nat)
  | engine (die q : Nat)
  | held (seq : Nat) (die task : Nat)
  | image (die task : Nat)
  | restore (die task : Nat)
  | peer (lg : Nat)
  | only
deriving DecidableEq, Repr

/-- A fault whose record is to be written (R357): reporting die, partition, kind, record beats 0 to 2. -/
structure RecReq where
  die : Nat
  part : Nat
  beat0 : Beat
  beat1 : Beat
  beat2 : Beat
  subject : Subject
deriving DecidableEq, Repr

/-- An open record: where it lies (VA under its partition, or none for the die's host record), and its subject. -/
structure OpenRec where
  die : Nat
  part : Nat
  va : Option Word
  subject : Subject
deriving DecidableEq, Repr

structure Faults where
  regs : List FaultReg
  reqs : List RecReq
  opened : List OpenRec
  handlers : Tab (BitVec 128)
  pointers : Tab Nat
  hostRec : Tab (BitVec 1536)
  hostVa : Tab Word
  summary : Tab (BitVec 64)
  corrected : Tab (BitVec 64)
  tagBound : Tab (BitVec 64)
  /-- Rings already reported (R368): their nodes. -/
  rings : List (List Node)
  /-- Per wafer, the cycle of its last check for rings (R367). -/
  checks : Tab Nat
deriving DecidableEq, Repr

/-- What a wafer holds for a saved strand (R71), under keys that start at 0. -/
structure WaferImage where
  roles : BitVec 129
  bank : List Host.Cell
  consts : Tab Word
  vcs : Tab (BitVec 32)
  thr : Tab (BitVec 64)
  filt : Tab (BitVec 96)
  stores : Tab Store
  tile : Tile
  streams : Tab Stream
deriving DecidableEq, Repr

/-- What reaches a strand while it is saved, and takes effect once it is restored. -/
inductive Later where
  /-- A record of it is closed (R358): ACT, and beat 3 when SUB = 1. -/
  | act (sub : Subject) (act : Nat) (beat : Option Beat)
  /-- A glaze it contributed to ends (R174): the GLAZE node, its instance and token, or the sequencer; the summary. -/
  | glaze (who : Option (Node × Key × Tok)) (sum : Beat)
deriving DecidableEq, Repr

/-- A saved strand (R71 to R73): the image's contents, what waits for its restore, where the free bytes of the image in memory begin, and
whether an open record holds its restore (R372). -/
structure Saved where
  strand : Strand
  latch : List Latch
  part : List LTok
  ostore : List LTok
  hlatch : List HLatch
  kept : List Kept
  mrgo : List Mrgo
  yielded : List Yielded
  rmwq : List Rmw
  blocks : List (Nat × Nat × CtxState)
  wafers : List WaferImage
  regs : List FaultReg
  reserved : List (Nat × Nat × Node × Key)
  later : List Later
  seed : Nat
  broken : Bool
deriving DecidableEq, Repr

/-- An access that a host port holds back, and every later one behind it (R60, R345, R350): a launch token, a write to an offset of BAR0,
an access that is discarded, or a read that clears its register. -/
inductive HostWrite where
  | launch (tok : BitVec 512)
  | write (offset : Nat) (v : Word) (ide : Option Nat)
  | discarded
  | readErrors
  | readSummary (die : Nat)
  | readCorrected (die : Nat)
deriving DecidableEq, Repr

structure HostIf where
  parts : Tab (BitVec 1024)
  keys : Tab (BitVec 512)
  linkKeys : Tab (BitVec 256)
  ready : BitVec 64
  errors : BitVec 64
  time : BitVec 64
  lowered : Bool
  digests : Tab (BitVec 512)
  /-- Bytes and words of the SPDM mailboxes: the last answer of each port. -/
  answers : Tab (BitVec 512)
  /-- SPDM connection state of each port and slot (R349). -/
  spdm : Tab Nat
  /-- IDE streams bound to partitions, and Tchizer's logs of failed flits. -/
  reports : List (Nat × Nat)
  log : Tab Nat
  waiting : List (Bool × HostWrite)
  /-- SPDM requests that wait for Tchizer (R350), by number: GET_VERSION 1 to FINISH 9. -/
  asks : List (Nat × SpdmReq)
deriving DecidableEq, Repr

/-- What is chosen to happen next. -/
inductive Activity where
  | fire (n : Node) (k : Key)
  | word (die task : Nat)
  | event (i : Instr)
  | cycle
deriving DecidableEq, Repr

/-- Which firing or sequencer word a meaning acts for. -/
structure Cursor where
  node : Node
  key : Key
  word : BitVec 64
  die : Nat
  task : Nat
deriving DecidableEq, Repr

/-- The module. `cur`, `agenda` and `ctr` are the model's own: what the step acts for, what is chosen to come next, and
the counter of free values (log entry 1). -/
structure State where
  cur : Cursor
  agenda : List Activity
  ctr : Nat
  fab : Fabric
  pl : Plane
  strands : List Strand
  sch : Sched
  mem : Mem
  eng : Engines
  mat : Match
  tiles : Tab Tile
  pages : Pages
  pod : Pod
  flt : Faults
  saved : List Saved
  host : HostIf
deriving DecidableEq, Repr

/-- Why a step stops with a fault: the model's own stops, none of them a fault of the device. -/
inductive Fault where
  /-- Raised when an active block or context does not hold what the loader guarantees (R361): a state no load makes. Safe. -/
  | notLoaded
deriving DecidableEq, Repr

/-- Why a step refuses. -/
inductive Refusal where
  /-- Raised by an arm of exec whose instruction has no meaning yet. Safe: the machine stops. -/
  | notModelled (mnemonic : String)
deriving DecidableEq, Repr

/-- The module right after reset (R350): nothing loaded, no strand, memory zero, every register at its reset value. -/
def State.reset : State where
  cur := ⟨Node.zero, Key.zero, 0, 0, 0⟩
  agenda := []
  ctr := 0
  fab := ⟨[], [], [], [], [], [], [], [], [], [], [], [], [], 0, [], []⟩
  pl := ⟨[], [], [], [], [], []⟩
  strands := []
  sch := ⟨[], [], [], [], [], [], [], []⟩
  mem := ⟨[], [], [], [], [], [], [], [], [], [], [], [], [], 0, [], [], 0⟩
  eng := ⟨[], [], 0, [], [], [], [], [], []⟩
  mat := ⟨[], [], [], [], []⟩
  tiles := []
  pages := ⟨0, 0, 0, 0, 0, 0, [], [], [], [], [], 0⟩
  pod := ⟨[], [], [], [], [], 0, (Config.moduleStrap.zeroExtend 128) <<< 40, 0, [], [], [], [], false, [], []⟩
  flt := ⟨[], [], [], [], [], [], [], [], [], [], [], []⟩
  saved := []
  host := ⟨[], [(0, Config.deviceKey)], [], 0, 0, 0, false, [], [], [], [], [], [], []⟩

end Sys2Proof.Machine
end

