-- ==== Sys2Proof/Machine/Ops.lean ====
section
/-! DEFINITION. The named operations over tables, memory bytes, tokens, contexts, tags and instances; firing a node (R19,
R20, R68), taking an exact fault (R353) and asking for a fault record (R356, R357). -/

namespace Sys2Proof.Machine

/-! Tables and bit fields. -/

def Tab.get {α : Type} (d : α) (k : Nat) : Tab α → α
  | [] => d
  | (j, v) :: t => if j = k then v else Tab.get d k t

def Tab.find {α : Type} (k : Nat) : Tab α → Option α
  | [] => none
  | (j, v) :: t => if j = k then some v else Tab.find k t

def Tab.del {α : Type} (k : Nat) : Tab α → Tab α
  | [] => []
  | (j, v) :: t => if j = k then t else (j, v) :: Tab.del k t

def Tab.ins {α : Type} (k : Nat) (v : α) : Tab α → Tab α
  | [] => [(k, v)]
  | (j, w) :: t =>
    if k < j then (k, v) :: (j, w) :: t else if j = k then (k, v) :: t else (j, w) :: Tab.ins k v t

/-- Write an entry of a table whose unlisted entries are `d`; the canonical form is kept. -/
def Tab.put {α : Type} [DecidableEq α] (d : α) (k : Nat) (v : α) (t : Tab α) : Tab α :=
  if v = d then Tab.del k t else Tab.ins k v t

/-- Keys strictly rising and above `lo`, no entry equal to the default. -/
def Tab.wfFrom {α : Type} [DecidableEq α] (d : α) : Option Nat → Tab α → Bool
  | _, [] => true
  | lo, (k, v) :: t => (match lo with | none => true | some l => decide (l < k)) && decide (v ≠ d) && Tab.wfFrom d (some k) t

def Tab.wf {α : Type} [DecidableEq α] (d : α) (t : Tab α) : Bool := Tab.wfFrom d none t

/-- A byte that nothing has written reads as zero (R350: every sector is written with ZERO = 1). -/
def memDefault : Byte := 0

/-- The canonical form of a memory. -/
def Memory.wf (m : List Host.Cell) : Bool := Tab.wf memDefault m

def bits {w : Nat} (v : BitVec w) (lo n : Nat) : Nat := (v.extractLsb' lo n).toNat
def bit {w : Nat} (v : BitVec w) (i : Nat) : Bool := v.getLsbD i
/-- The field of `n` bits at `lo` replaced. -/
def setBits {w : Nat} (v : BitVec w) (lo n x : Nat) : BitVec w :=
  (v &&& ~~~(BitVec.ofNat w ((2 ^ n - 1) * 2 ^ lo))) ||| BitVec.ofNat w (x % 2 ^ n * 2 ^ lo)
/-- A word from its fields (lowest bit, width, value). -/
def pack (l : List (Nat × Nat × Nat)) : Nat := l.foldl (fun acc f => acc + f.2.2 % 2 ^ f.2.1 * 2 ^ f.1) 0
def b2n (b : Bool) : Nat := if b then 1 else 0
/-- Two's complement value of the low `n` bits. -/
def signed (n v : Nat) : Int := if v % 2 ^ n < 2 ^ (n - 1) then (v % 2 ^ n : Nat) else ((v % 2 ^ n : Nat) : Int) - (2 ^ n : Nat)
/-- An integer modulo 2^n. -/
def wrap (n : Nat) (v : Int) : Nat := (v % ((2 ^ n : Nat) : Int)).toNat

/-- Entry `n` of a list replaced. -/
def upd {α : Type} (f : α → α) : Nat → List α → List α
  | _, [] => []
  | 0, x :: t => f x :: t
  | n + 1, x :: t => x :: upd f n t
/-- Entry `n` of a list removed. -/
def drop1 {α : Type} : Nat → List α → List α
  | _, [] => []
  | 0, _ :: t => t
  | n + 1, x :: t => x :: drop1 n t
/-- Remove the first entry that meets `p`. -/
def dropFirst {α : Type} (p : α → Bool) : List α → List α
  | [] => []
  | x :: t => if p x then t else x :: dropFirst p t

/-- Append when absent. -/
def addNew (l : List Nat) (x : Nat) : List Nat := if l.contains x then l else l ++ [x]

/-- Insert into a list sorted by `le`, after equals. -/
def insSorted {α : Type} (le : α → α → Bool) (x : α) : List α → List α
  | [] => [x]
  | y :: t => if le y x then y :: insSorted le x t else x :: y :: t
/-- Stable insertion sort. -/
def insSort {α : Type} (le : α → α → Bool) (l : List α) : List α := l.foldl (fun acc x => insSorted le x acc) []

/-! Bytes of memory (R2). -/

def memRead (m : List Host.Cell) (a : Nat) : Nat → List Byte
  | 0 => []
  | n + 1 => Tab.get memDefault a m :: memRead m (a + 1) n

/-- Write bytes at consecutive addresses. -/
def memWrite (m : List Host.Cell) (a : Nat) : List Byte → List Host.Cell
  | [] => m
  | b :: bs => memWrite (Tab.put memDefault a b m) (a + 1) bs

/-- Write bytes at the addresses given. -/
def memPut (m : List Host.Cell) : List (Nat × Byte) → List Host.Cell
  | [] => m
  | (a, b) :: l => memPut (Tab.put memDefault a b m) l

def beatOf (bs : List Byte) : Beat := BitVec.ofNat 384 (leNat bs)
def bytesOf (b : Beat) : List Byte := leBytes 48 b.toNat

/-! Keys of tables. -/

def waferKey (die wafer : Nat) : Nat := die * 64 + wafer
def Ctx.num (c : Ctx) : Nat := waferKey c.die c.wafer * 4 + c.slot
def cellKey (die wafer cell : Nat) : Nat := waferKey die wafer * 64 + cell
def Node.cell (n : Node) : Nat := n.index / 2
def Node.num (n : Node) : Nat := n.ctx.num * 128 + n.index
def taskKey (die task : Nat) : Nat := die * 4096 + task
/-- A byte of a cell's bank. -/
def bankKey (die wafer cell off : Nat) : Nat := cellKey die wafer cell * Config.bankBytes + off

/-! Free values (log entry 1). -/

def State.freeBits (s : State) (w : Nat) : BitVec w := BitVec.ofNat w (Config.free s.ctr)
def State.spent (s : State) : State := { s with ctr := s.ctr + 1 }
/-- One of `n` alternatives, free. -/
def State.pick (s : State) (n : Nat) : Nat := Config.free s.ctr % n

/-! Contexts, blocks and their headers (R202). -/

def State.ctxAt (s : State) (c : Ctx) : CtxState := Tab.get {} c.num s.pl.ctx
def State.setCtx (s : State) (c : Ctx) (x : CtxState) : State :=
  { s with pl := { s.pl with ctx := Tab.put {} c.num x s.pl.ctx } }
def State.block (s : State) (c : Ctx) : Option Block := (s.ctxAt c).active
def Block.ninst (b : Block) : Nat := bits b.hdr 109 7 + 1
def Block.nmem (b : Block) : Nat := bits b.hdr 99 7
def Block.lvl (b : Block) : Nat := bits b.hdr 96 3
def Block.krd (b : Block) (k : Nat) : Bool := bit b.hdr (64 + k)
def Block.kwr (b : Block) (k : Nat) : Bool := bit b.hdr (32 + k)
def Block.syst (b : Block) : Bool := bit b.hdr 31
/-- SPEC, read as 0 in frame mode (R40). -/
def Block.frame (b : Block) : Bool := bit b.hdr 29
def Block.spec (b : Block) : Bool := bit b.hdr 30 && !b.frame
def Block.cb (b : Block) : Nat := bits b.hdr 16 8
def Block.word (b : Block) (i : Nat) : BitVec 64 := b.words.getD i 0
def State.wordAt (s : State) (n : Node) : BitVec 64 :=
  match s.block n.ctx with
  | none => 0
  | some b => b.word n.index
def opcode (w : BitVec 64) : Nat := bits w 56 8

/-- Role of a cell (R125, R126). -/
def State.role (s : State) (die wafer cell : Nat) : Nat := bits (Tab.get 0 (waferKey die wafer) s.pl.roles) (2 * cell) 2
def State.intlv (s : State) (die wafer : Nat) : Bool := bit (Tab.get 0 (waferKey die wafer) s.pl.roles) 128
/-- A node of a token-FIFO cell takes tokens in arrival order (R44). -/
def State.fifo (s : State) (n : Node) : Bool := s.role n.ctx.die n.ctx.wafer n.cell = 1

/-! Strands. -/

def Strand.has (st : Strand) (c : Ctx) : Bool := st.die = c.die && st.wafers.contains c.wafer && st.slots.contains c.slot
def Strand.is (st : Strand) (die task : Nat) : Bool := st.die = die && st.task = task
def State.strandOf (s : State) (c : Ctx) : Option Strand := s.strands.find? (·.has c)
def State.strand (s : State) (die task : Nat) : Option Strand := s.strands.find? (·.is die task)
def State.setStrand (s : State) (st : Strand) : State :=
  { s with strands := s.strands.map fun x => if x.is st.die st.task then st else x }
def State.onStrand (s : State) (die task : Nat) (f : Strand → Strand) : State :=
  { s with strands := s.strands.map fun x => if x.is die task then f x else x }
/-- Strand-local index of a wafer (R49). -/
def Strand.local (st : Strand) (w : Nat) : Nat := st.wafers.findIdx (· == w)
def Strand.lead (st : Strand) : Nat := st.wafers.headD 0

/-! Tags and instances (R28 to R39). -/

def Level.fresh : Level := ⟨0, [], false, false, false, none, none, none⟩
def Strand.level (st : Strand) (l : Nat) : Level := st.levels.getD l Level.fresh
def Strand.setLevel (st : Strand) (l : Nat) (x : Level) : Strand := { st with levels := upd (fun _ => x) l st.levels }
def Strand.tagRec (st : Strand) (k : Key) : Option TagRec :=
  (st.level k.lvl.toNat).tags.find? fun t => t.tag = k.tag && t.gen = k.gen
def Strand.onTag (st : Strand) (k : Key) (f : TagRec → TagRec) : Strand :=
  let l := st.level k.lvl.toNat
  st.setLevel k.lvl.toNat { l with tags := l.tags.map fun t => if t.tag = k.tag && t.gen = k.gen then f t else t }
def Strand.inst (st : Strand) (c : Ctx) (k : Key) : Option Inst := st.insts.find? fun x => x.ctx = c && x.key = k
def Strand.onInst (st : Strand) (c : Ctx) (k : Key) (f : Inst → Inst) : Strand :=
  { st with insts := st.insts.map fun x => if x.ctx = c && x.key = k then f x else x }
/-- The instance's record, made when it has none. -/
def Strand.touch (st : Strand) (c : Ctx) (k : Key) (w : BitVec 16) : Strand :=
  match st.inst c k with
  | some _ => st.onInst c k fun x => { x with wave := x.wave.or (some w) }
  | none => { st with insts := st.insts ++ [⟨c, k, some w, [], [], false, [], [], false, 0, 0, []⟩] }

def Strand.tailOpen (st : Strand) (k : Key) : Bool := st.insts.any fun x => x.key = k && x.tail
/-- A live instance (R35): granted, not killed, not yet given back. -/
def Strand.live (st : Strand) (k : Key) : Bool :=
  match st.tagRec k with
  | none => false
  | some t => !t.dead && (!t.gone || st.tailOpen k || st.l0 = some k)

/-- Live in a context: the level-0 instance of a phase is committed block by block (R37). -/
def Strand.liveAt (st : Strand) (c : Ctx) (k : Key) : Bool :=
  st.live k && (st.l0 != some k || !st.l0done.contains c.wafer ||
    (match st.inst c k with | some x => x.tail | none => false))

/-- R35: a token that names no live instance. -/
def State.stale (s : State) (t : LTok) : Bool :=
  match s.strandOf t.node.ctx with
  | none => true
  | some st => !st.liveAt t.node.ctx t.key

/-- Position of a tag in its level's allocation order. -/
def Strand.order (st : Strand) (k : Key) : Nat :=
  (st.level k.lvl.toNat).tags.findIdx fun t => t.tag = k.tag && t.gen = k.gen

/-- The oldest uncommitted instance of its level (R32). -/
def Strand.oldest (st : Strand) (k : Key) : Bool :=
  match (st.level k.lvl.toNat).tags.find? fun t => !t.dead && !t.gone with
  | none => true
  | some t => t.tag = k.tag && t.gen = k.gen

/-- A block is a loop body when it holds a WADV (R34). -/
def Block.loop (b : Block) : Bool := b.words.any fun w => opcode w == 0x0E

/-- The instance's continue predicate is known, if it is a loop body's (R34, R227). -/
def State.contKnown (s : State) (st : Strand) (k : Key) : Bool :=
  let body := st.insts.any fun x => x.key = k &&
    (match s.block x.ctx with | some b => b.loop && b.lvl = k.lvl.toNat | none => false)
  match st.tagRec k with
  | some t => !body || t.cont.isSome
  | none => true

/-- R227: settled, by levels outward; a committed instance and a return tail (R292) are settled. -/
def State.settledIn (s : State) (st : Strand) : Nat → Key → Bool
  | 0, _ => true
  | f + 1, k =>
    st.tailOpen k || (match st.tagRec k with
      | none => true
      | some t => t.gone || (st.oldest k && s.contKnown st k &&
        match t.parent with
        | none => true
        | some p => s.settledIn st f p))

def State.settled (s : State) (st : Strand) (k : Key) : Bool := s.settledIn st 8 k

/-- The parent of an instance is settled, or is the sequencer (R227). -/
def State.parentSettled (s : State) (st : Strand) (k : Key) : Bool :=
  match (st.tagRec k).bind (·.parent) with
  | none => true
  | some p => s.settledIn st 8 p

/-! Outputs: latch and targets (R18, R19, R198). -/

def targetsOf (h : Hd) (o : Out) : List (Nat × Nat) :=
  (if o.a && h.ta != noTarget then [(bits h.ta 2 7, bits h.ta 0 2)] else []) ++
  (if o.b && h.tb != noTarget then [(bits h.tb 2 7, bits h.tb 0 2)] else [])

def outA (t : Tok) : Out := ⟨true, false, t⟩
def outB (t : Tok) : Out := ⟨false, true, t⟩
def outBoth (t : Tok) : Out := ⟨true, true, t⟩

/-- Results enter the node's output latch, in order; a result with no target goes nowhere. -/
def State.emit (s : State) (n : Node) (k : Key) (h : Hd) (outs : List Out) : State :=
  let new := outs.filterMap fun o =>
    match targetsOf h o with
    | [] => none
    | l => some (Latch.mk n k { o.tok with age := 0 } l)
  { s with fab := { s.fab with latch := s.fab.latch ++ new } }

def State.latchEmpty (s : State) (n : Node) : Bool := !(s.fab.latch.any fun l => l.node = n)

/-- A token in a node's cell, as it is injected there (R45). -/
def Flight.inject (n : Node) (t : LTok) : Flight := ⟨t, n.ctx.die, n.ctx.wafer, n.cell, 4⟩

/-- A token that no latch holds waits at its destination's cell for an entry of its partition, and uses no link: a stream's beat, or a token
entered again. -/
def State.setDown (s : State) (t : LTok) : State :=
  { s with fab := { s.fab with net := s.fab.net ++ [Flight.inject t.node t] } }

/-- A token created outside its instance enters it, if that lives (R28, R358): the instance is known from now, and, when it is the level's
first iteration, the level's first wave (R232). -/
def State.enter (s : State) (t : LTok) : State :=
  match s.strandOf t.node.ctx with
  | none => s
  | some st =>
    if !st.live t.key then s else
    let st := st.touch t.node.ctx t.key t.tok.wave
    let st := st.onInst t.node.ctx t.key fun x => { x with entered := x.entered ++ [t] }
    let l := st.level t.key.lvl.toNat
    s.setStrand (if l.first = some t.key then st.setLevel t.key.lvl.toNat { l with w0 := l.w0.or (some t.tok.wave) } else st)

/-- The WAVE of the first iteration of a level on its current entry is known: a token has entered that iteration, or it is gone (R43). -/
def State.waveKnown (s : State) (c : Ctx) (l : BitVec 3) : Bool :=
  match s.strandOf c with
  | none => true
  | some st => l = 0 || (st.level l.toNat).w0.isSome || !((st.level l.toNat).first.any st.live)

/-! Exact faults (R353) and records (R356). -/

/-- What a failing firing reports. -/
structure Exn where
  cause : BitVec 8
  code : BitVec 16
  addr : Word := 0
  detail : Beat := 0
deriving DecidableEq, Repr

/-- Cause 0x17, condition `n` of the word with opcode `op` (R407). -/
def illegal (op n : Nat) (addr : Word := 0) (detail : Nat := 0) : Exn :=
  { cause := 0x17, code := BitVec.ofNat 16 (op * 256 + n), addr := addr, detail := BitVec.ofNat 384 detail }

/-- Place of a fault among those of one firing: causes 0x21, 0x22, 0x20, 0x23, 0x24, and within a cause the lowest CODE (R374). -/
def Exn.rank (x : Exn) : Nat :=
  (if x.cause = 0x21 then 0 else if x.cause = 0x22 then 1 else if x.cause = 0x20 then 2 else if x.cause = 0x23 then 3 else 4) * 65536 +
    x.code.toNat

/-- The fault that is recorded when several checks fail (R374): the first in rank, and of equals the first in the list. -/
def firstExn : List (Option Exn) → Option Exn
  | [] => none
  | none :: t => firstExn t
  | some x :: t =>
    match firstExn t with
    | some y => if y.rank < x.rank then some y else some x
    | none => some x

/-- Taking an exact fault: the node's fault register holds it; an older instance's fault replaces a younger one's (R353). -/
def State.takeFault (s : State) (n : Node) (k : Key) (wave : BitVec 16) (slots : List Nat) (x : Exn) : State :=
  let new : FaultReg := ⟨n, k, x.cause, x.code, x.addr, wave, x.detail, slots⟩
  let keep := s.flt.regs.find? fun r => r.node = n && r.key.lvl = k.lvl
  match keep, s.strandOf n.ctx with
  | some r, some st =>
    if st.order r.key < st.order k then s
    else { s with flt := { s.flt with regs := new :: s.flt.regs.filter fun q => !(q.node = n && q.key.lvl = k.lvl) } }
  | _, _ => { s with flt := { s.flt with regs := new :: s.flt.regs } }

/-- A node has stopped firing for an instance (R353): it, or an older one of the level, has faulted there. -/
def State.stopped (s : State) (n : Node) (k : Key) : Bool :=
  match s.strandOf n.ctx with
  | none => true
  | some st => s.flt.regs.any fun r => r.node = n && r.key.lvl = k.lvl && st.order r.key ≤ st.order k

/-- Ask for an asynchronous, launch or sequencer record (R352, R356). -/
def State.askRecord (s : State) (r : RecReq) : State := { s with flt := { s.flt with reqs := s.flt.reqs ++ [r] } }

/-- A location that names no node. -/
def Loc.none : Loc := { kind := 1, cause := 0 }
def Loc.beat0 (l : Loc) : Beat := BitVec.ofNat 384 <| pack
  [(355, 1, b2n l.rerun), (352, 2, 1), (320, 32, l.step), (256, 64, l.sqpc.toNat), (192, 64, l.cfg.toNat),
   (128, 64, l.addr.toNat), (96, 16, l.wave), (72, 16, l.code), (64, 7, l.node.index), (59, 2, l.key.gen.toNat),
   (51, 8, l.key.tag.toNat), (48, 3, l.key.lvl.toNat), (45, 2, l.node.ctx.slot), (44, 1, l.node.index % 2),
   (38, 6, l.node.cell), (32, 6, l.node.ctx.wafer), (28, 3, l.die), (16, 12, l.task), (8, 2, l.kind),
   (0, 8, l.cause.toNat)]
def Loc.beat1 (l : Loc) : Beat := BitVec.ofNat 384 <| pack
  [(64, 128, l.hdr.toNat), (0, 64, l.word.toNat), (192, 192, l.detail1)]

/-- The record request of a fault of strand `st`. -/
def State.report (s : State) (l : Loc) (part : Nat) (sub : Subject) : State :=
  s.askRecord ⟨l.die, part, l.beat0, l.beat1, BitVec.ofNat 384 l.detail, sub⟩

/-- The location of a node of a strand. -/
def State.locOf (s : State) (st : Strand) (n : Node) (k : Key) : Loc :=
  { kind := 1, cause := 0, node := n, key := k, die := n.ctx.die, task := st.task, sqpc := st.sqpc,
    step := st.step.toNat, cfg := (match s.block n.ctx with | some b => b.cfg | none => 0),
    hdr := (match s.block n.ctx with | some b => b.hdr | none => 0), word := s.wordAt n }

/-- An asynchronous fault of a node's request (R352). -/
def State.async (s : State) (n : Node) (k : Key) (cause : BitVec 8) (code : Nat) (addr : Word) (detail : Nat)
    (sub : Subject) : State :=
  match s.strandOf n.ctx with
  | some st => s.report { s.locOf st n k with cause := cause, code := code, addr := addr, detail := detail } st.part sub
  | none => s.report { kind := 1, cause := cause, code := code, addr := addr, detail := detail, node := n, key := k,
                       die := n.ctx.die } 0 sub

/-! Operands and firing (R19 to R21, R44, R68). -/

/-- Cell and bank offset of a scratchpad offset (R127). -/
def scratch (intlv : Bool) (a : Nat) : Nat × Nat :=
  if intlv then (a / 256 % 64, a / 16384 % 256 * 256 + a % 256) else (a / 65536 % 64, a % 65536)

/-- Where an access of `n` bytes at scratchpad offset `a` of a wafer lies; none when it crosses a bank. -/
def State.scratchAcc (s : State) (die wafer : Nat) (a n : Nat) : Option (Nat × Nat) :=
  let f := scratch (s.intlv die wafer) a
  let l := scratch (s.intlv die wafer) (a + n - 1)
  if f.1 = l.1 && l.2 = f.2 + n - 1 then some f else none

/-- R40: the token's slot in its frame, in the top 1 MiB of the lead wafer's scratchpad. The slots of a node lie together, in node order,
and a slot holds the payload and then the header (log entry 142). -/
def frameOffset (ninst : Nat) (t : LTok) : Nat :=
  3 * 2 ^ 20 + t.key.tag.toNat * (ninst * 256) + (t.node.index * 4 + t.port) * 64

/-- A frame holds the token (R40): its block has FRAME = 1, and its level is the block's (R29). Answers the block's instruction count. -/
def State.inFrame (s : State) (t : LTok) : Option Nat :=
  match s.block t.node.ctx with
  | some b => if b.frame && b.lvl = t.key.lvl.toNat then some b.ninst else none
  | none => none

/-- Bank address of the token's slot in its frame. -/
def State.frameAddr (s : State) (t : LTok) : Option Nat :=
  match s.inFrame t, s.strandOf t.node.ctx with
  | some ninst, some st => (s.scratchAcc st.die st.lead (frameOffset ninst t) 64).map fun x => bankKey st.die st.lead x.1 x.2
  | _, _ => none

/-- The token a header and payload stand for; its AGE and the store that sent it stand in its presence entry. -/
def Tok.read (t : Tok) (h : Nat) (data : Beat) : Tok :=
  let f := fun (lo n : Nat) => h / 2 ^ lo % 2 ^ n
  { t with wave := BitVec.ofNat 16 (f 79 16), seq := BitVec.ofNat 16 (f 63 16), vc := BitVec.ofNat 5 (f 58 5), nlane := BitVec.ofNat 7 (f 33 7),
           data := data,
           fl := ⟨f 57 1 = 1, f 56 1 = 1, f 55 1 = 1, f 54 1 = 1, f 53 1 = 1, f 52 1 = 1, f 51 1 = 1, f 50 1 = 1⟩ }

/-- A waiting token as its slot holds it: in frame mode, as the frame's bytes in the bank stand now (R40). -/
def State.framed (s : State) (t : LTok) : LTok :=
  match s.frameAddr t with
  | none => t
  | some a => { t with tok := t.tok.read (leNat (memRead s.mem.bank (a + 48) 16)) (beatOf (memRead s.mem.bank a 48)) }

/-- Tokens waiting at a slot for an instance, oldest first; in a FIFO cell, only the head of the slot's queue. -/
def State.slotToks (s : State) (n : Node) (k : Key) (p : Nat) : List LTok :=
  if s.fifo n then (s.fab.ostore.filter fun t => t.node = n && t.port = p).take 1
  else (s.fab.ostore.filter fun t => t.node = n && t.port = p && t.key = k).map s.framed

def State.slotTok (s : State) (n : Node) (k : Key) (p : Nat) : Option Tok := ((s.slotToks n k p).head?).map (·.tok)

/-- Slots a word reads in an ordinary firing (R18, R212, R236 and the other tables), slot 3 apart. Words with IMS = 1 take
IMM16 for slot 1 (R199). -/
def slotsOf (w : BitVec 64) : List Nat :=
  let op := opcode w
  let all : List Nat :=
    if [0x09, 0x24, 0x36, 0x39, 0x3A, 0x3B, 0x43, 0x69, 0x88, 0xB1, 0xC1, 0xD9, 0xDA].contains op then [0, 1, 2]
    else if op = 0x15 then (if bit w 0 then [0, 1, 2] else [0, 1])
    else if op = 0x0D then (if bit w 0 then [0] else [0, 1])
    else if [0x06, 0x0A, 0x0E, 0x17, 0x61, 0x65, 0x66, 0x67, 0x60, 0x6A, 0x64, 0x74, 0x75, 0x81, 0x83, 0x85, 0x87, 0x89, 0x8A,
      0x8E, 0x92, 0xA0, 0xA1, 0xA5, 0xB2, 0xD1, 0xD8, 0xB5, 0xC2].contains op then [0, 1]
    else if 0x20 ≤ op && op < 0x54 && !([0x27, 0x28, 0x2E, 0x33, 0x34, 0x38, 0x46, 0x47, 0x49, 0x4A, 0x4B, 0x4C, 0x4D, 0x4E, 0x51,
      0x52, 0x53].contains op) then [0, 1]
    else [0]
  if (0x20 ≤ op && op < 0x78 || op = 0x17 || op = 0xB1 || op = 0xB5) && bit w 19 then all.filter (· != 1) else all

/-- A predicate (R20): bit 0 of the payload, false when NIL. -/
def pred (t : Tok) : Bool := bit t.data 0 && !t.fl.nil

/-- The slot among 0 and 1 whose token of the instance arrived first (R218). -/
def State.earlier (s : State) (n : Node) (k : Key) : Nat :=
  match s.fab.ostore.find? fun t => t.node = n && (s.fifo n || t.key = k) && t.port ≤ 1 with
  | some t => t.port
  | none => 0

/-- What a node keeps for an instance. -/
def State.keptOf (s : State) (n : Node) (k : Key) : Option Kept := s.fab.kept.find? fun x => x.node = n && x.key = k

/-- Slots that a node's next firing for an instance reads (R19, R20): those of its opcode, but for the words whose description reads a
slot only with some tokens (MERGE, MRGO, GATE, WADV, GATH, SCAT, VACC, KPUT, KQRY, KMRG, KSMX). -/
def State.reads (s : State) (n : Node) (k : Key) : List Nat :=
  let w := s.wordAt n
  let op := opcode w
  let first := (s.keptOf n k).isNone
  let base :=
    if op = 0x07 || op = 0x08 || op = 0x0F then [s.earlier n k]
    else if op = 0x0E then (match s.slotTok n k 2 with | some c => if pred c then [0, 1, 2] else [0, 2] | none => [0, 1, 2])
    else if op = 0xA2 || op = 0xC4 || op = 0xC5 then (if first then [0, 1] else [0])
    else if op = 0xA3 then
      (if first then [0, 1] else if (s.slotTok n k 2).isSome && (s.slotTok n k 0).isNone then [2] else [0])
    else if op = 0xB1 then (if first then slotsOf w else (slotsOf w).filter (· != 2))
    else if op = 0xC1 || op = 0xC2 then
      (match s.slotTok n k 0 with
       | some t => if t.fl.nil || t.fl.last then (if op = 0xC1 then [0, 1, 2] else [0, 1]) else [0]
       | none => [0])
    else slotsOf w
  if bits w 48 2 = 0 then base else base ++ [3]

/-- Words that may hold back for more than their operands: whether one of them can fire is told by trying it (State.outranked). -/
def mayWait (w : BitVec 64) : Bool :=
  let op := opcode w
  (0x07 ≤ op && op ≤ 0x08) || (0x0B ≤ op && op ≤ 0x12) || (0x78 ≤ op)

/-- Every slot that the firing reads holds a token of the instance (R19, R20). -/
def State.filled (s : State) (n : Node) (k : Key) : Bool := (s.reads n k).all fun p => (s.slotTok n k p).isSome
/-- Ready by R19: its operands are there and its latch is empty. -/
def State.ready (s : State) (n : Node) (k : Key) : Bool := s.filled n k && s.latchEmpty n

/-- Oldest AGE among the tokens the firing would consume (R68 key 2). -/
def State.ageOf (s : State) (n : Node) (k : Key) : Nat :=
  (s.reads n k).foldl (fun a p => max a (((s.slotTok n k p).map (·.age.toNat)).getD 0)) 0

/-- A context at a cell: (cell × 4 + slot). -/
def Node.spot (n : Node) : Nat := cellKey n.ctx.die n.ctx.wafer n.cell * 4 + n.ctx.slot

/-- The priority of a node's context as it stands at its cell: a write counts from where it has arrived (R70). -/
def State.prioIn (s : State) (n : Node) : BitVec 4 :=
  match s.sch.prioq.reverse.find? fun w => w.ctxs.contains n.ctx && !w.left.contains n.spot with
  | some w => w.prio
  | none => (s.ctxAt n.ctx).prio

/-- A counter that has reached 60 forces its context (R69); a context of priority 0 has no counter. -/
def State.forces (s : State) (n : Node) : Bool := s.prioIn n != 0 && decide (60 ≤ (Tab.get 0 n.spot s.fab.starve).toNat)

/-- A YLD ranks a context below every other at a cell, for its n cycles (R324). -/
def State.yields (s : State) (n : Node) : Bool :=
  s.fab.yielded.any fun y => y.node.ctx = n.ctx && y.node.cell = n.cell && y.left != 0
/-- Rank of a context at a cell: below every other while it yields there (R324); above every priority when a counter forces it, the lowest
slot first (R69). -/
def State.prioAt (s : State) (n : Node) : Int :=
  if s.yields n then -1
  else if s.fab.forced.contains (cellKey n.ctx.die n.ctx.wafer n.cell, n.ctx.slot) then 20
  else if s.forces n then 19 - (n.ctx.slot : Int)
  else (s.prioIn n).toNat

/-- Does (m, j) come before (n, k) by the keys of R68? -/
def State.before (s : State) (m : Node) (j : Key) (n : Node) (k : Key) : Bool :=
  s.prioAt m > s.prioAt n || (s.prioAt m = s.prioAt n &&
    (s.ageOf m j > s.ageOf n k || (s.ageOf m j = s.ageOf n k &&
      m.ctx.slot * 2 + m.index % 2 < n.ctx.slot * 2 + n.index % 2)))

/-- The strand of a node may fire it for the instance: it is live, not frozen, not being saved, not stopped by a fault. -/
def State.runnable (s : State) (n : Node) (k : Key) : Bool :=
  (match s.strandOf n.ctx with
   | none => false
   | some st => !st.frozen && !st.saving && st.liveAt n.ctx k && (match st.mode with | .phase _ => true | _ => st.tailOpen k)) &&
  !s.stopped n k && s.latchEmpty n

/-- Key of the token a node of a FIFO cell takes next: the head of its lowest slot, or the earlier head of MERGE, MRGO, GATE. An
instance that a fault has stopped at the node holds up no other (R353). -/
def State.headKey (s : State) (n : Node) : Option Key :=
  let mine := s.fab.ostore.filter fun t => t.node = n && !s.stopped n t.key
  (if [0x07, 0x08, 0x0F].contains (opcode (s.wordAt n)) then mine.find? fun t => t.port ≤ 1
   else (List.range 4).findSome? fun p => mine.find? fun t => t.port = p).map (·.key)
/-- The token of slot 1 that MERGE, MRGO or GATE would take came in this cycle: one may still come to slot 0, which then goes first
(R218). -/
def State.justCame (s : State) (n : Node) (k : Key) : Bool :=
  [0x07, 0x08, 0x0F].contains (opcode (s.wordAt n)) && s.earlier n k = 1 &&
  decide ((s.fab.ostore.filter fun t => t.node = n && t.port = 1 && t.key = k).length ≤ s.fab.came.count (n, 1, k)) &&
  (s.fab.ostore.any fun t => t.node = n && t.port = 1 && t.key = k)
/-- In a FIFO cell a firing belongs to the instance of the head it takes (R29, R44). MERGE forwards its tokens in arrival order, whatever
their instances (R42, R218). -/
def State.inQueue (s : State) (n : Node) (k : Key) : Bool :=
  !s.justCame n k &&
  (!(s.fifo n || opcode (s.wordAt n) = 0x07) || opcode (s.wordAt n) = 0x08 || (s.headKey n).all (· == k))

/-- R68: the cell has not issued in this cycle, and no other ready node of the cell comes first. -/
def State.mayIssue (s : State) (n : Node) (k : Key) : Bool :=
  let cell := fun (m : Node) => m.ctx.die = n.ctx.die && m.ctx.wafer = n.ctx.wafer && m.cell = n.cell
  !(s.fab.issued.any cell) &&
  s.fab.ostore.all fun t => !(cell t.node && t.node != n && !mayWait (s.wordAt t.node) && s.ready t.node t.key &&
    s.runnable t.node t.key && s.inQueue t.node t.key && s.before t.node t.key n k)

def State.mayFire (s : State) (n : Node) (k : Key) : Bool := s.runnable n k && s.mayIssue n k && s.inQueue n k

/-- The stream that feeds a slot counts one beat as consumed (R149). -/
def State.countBeat (s : State) (n : Node) (p : Nat) : State :=
  let streams := s.eng.streams.map fun e =>
    if e.1 / 16 = waferKey n.ctx.die n.ctx.wafer && e.2.slot = n.ctx.slot && e.2.armed && !bit e.2.desc 236 &&
       bits e.2.desc 211 9 = n.index * 4 + p then
      (e.1, { e.2 with consumed := e.2.consumed + 1 }) else e
  { s with eng := { s.eng with streams := streams } }

/-- Header-word elements that a token uses up at a node (R88): NLANE + 1, a NIL token's too (log entry 145); KQRY uses none up (R336). -/
def usesUp (w : BitVec 64) (t : Tok) : Nat := if opcode w = 0xC2 then 0 else t.nlane.toNat + 1

/-- Remove the first token of an instance at a slot: the stream that feeds the slot counts it as consumed (R149), and the
slot's header latch on its VC counts its elements (R88). -/
def State.consume (s : State) (n : Node) (k : Key) (p : Nat) : State :=
  let here := fun (t : LTok) => t.node = n && t.port = p && (s.fifo n || t.key = k)
  match s.fab.ostore.find? here with
  | none => s
  | some t =>
    let t := s.framed t
    let hl := s.fab.hlatch.map fun x =>
      if x.node = n && x.port = p && x.vc = t.tok.vc then { x with used := x.used + usesUp (s.wordAt n) t.tok } else x
    { s with fab := { s.fab with ostore := dropFirst here s.fab.ostore, hlatch := hl } }.countBeat n p

/-- A node that took tokens and then faults has them back (R353, R374): in front of its slots, their counts undone. -/
def State.restore (s : State) (n : Node) (k : Key) (ops : List (Nat × Tok)) : State :=
  let streams := s.eng.streams.map fun e =>
    if e.1 / 16 = waferKey n.ctx.die n.ctx.wafer && e.2.slot = n.ctx.slot && e.2.armed && !bit e.2.desc 236 then
      (e.1, { e.2 with consumed := e.2.consumed - ops.countP fun o => bits e.2.desc 211 9 = n.index * 4 + o.1 }) else e
  let hl := s.fab.hlatch.map fun x =>
    if x.node = n then
      { x with used := x.used - ((ops.filter fun o => o.1 = x.port && o.2.vc = x.vc).map fun o => usesUp (s.wordAt n) o.2).foldl (· + ·) 0 }
    else x
  { s with fab := { s.fab with ostore := (ops.map fun o => LTok.mk n o.1 k o.2) ++ s.fab.ostore, hlatch := hl },
           eng := { s.eng with streams := streams } }

def State.consumeAll (s : State) (n : Node) (k : Key) (ps : List Nat) : State := ps.foldl (fun s p => s.consume n k p) s

/-- What the body of a word answers. -/
inductive Res where
  /-- It fires: the state with its effects, and the results it emits. -/
  | fires (s : State) (outs : List Out)
  /-- It does not fire and faults (R353). -/
  | faults (x : Exn)
  /-- It does not fire and faults, and the access it tried has changed the state: an error found (R383), a TLB entry dropped (R382). -/
  | stops (s : State) (x : Exn)
  /-- It does not fire yet. -/
  | waits

/-! The result token of a firing (R23, R27, R209). -/

/-- Does the opcode's word carry VCO (format A) or VC (format M) (R200)? -/
def formatA (op : Nat) : Bool :=
  op = 0x01 || op = 0x17 || (0x20 ≤ op && op ≤ 0x3B) || (0x40 ≤ op && op ≤ 0x53) || (0x60 ≤ op && op ≤ 0x6B) ||
  (0x72 ≤ op && op ≤ 0x77) || op = 0xA7 || op = 0xAA || op = 0xAB || (0xB1 ≤ op && op ≤ 0xB3) || op = 0xB5 || op = 0xB6
def formatM (op : Nat) : Bool :=
  (0x80 ≤ op && op ≤ 0x92 && op != 0x8C && op != 0x8D && op != 0x8F) || op = 0xD0 || op = 0xD1 || (0xD8 ≤ op && op ≤ 0xDB)

/-- The result's VC: VCO, the word's VC, or slot 0's (R209). -/
def vcOut (w : BitVec 64) (t : Tok) : BitVec 5 :=
  if formatA (opcode w) then w.extractLsb' 20 5 else if formatM (opcode w) then w.extractLsb' 25 5 else t.vc

/-- NIL, END and LAST joined over the operands; the rest clear (R27). -/
def joinFlags (ts : List Tok) : Flags :=
  { nil := ts.any (·.fl.nil), endf := ts.any (·.fl.endf), last := ts.any (·.fl.last) }

/-- SEQ, WAVE and NLANE of the lowest slot's token, VC by R209, flags joined, payload given; NIL empties it (R27). -/
def result (w : BitVec 64) (ts : List Tok) (data : Beat) : Tok :=
  let t := ts.headD {}
  let f := joinFlags ts
  { t with fl := f, data := if f.nil then 0 else data, age := 0, vc := vcOut w t }

/-- The tokens whose flags join the result: an ordering slot's are ignored (RLD slot 1, RST and RATM slot 2: R274). -/
def flagToks (w : BitVec 64) (ts : List Tok) : List Tok :=
  let op := opcode w
  if op = 0xD8 then ts.take 1 else if op = 0xD9 || op = 0xDA then ts.take 2 else ts

/-- The NIL result of a word (R209). -/
def nilResult (w : BitVec 64) (ts : List Tok) : Tok :=
  let t := result w (flagToks w ts) 0
  { t with fl := { t.fl with nil := true } }

/-- Lanes and codes: cause 0x34 for a POI or RETRY token in a computing slot (R384). -/
def poisonFault (p : Nat) (t : Tok) : Option Exn :=
  if t.fl.poi || t.fl.retry then
    some { cause := 0x34, code := BitVec.ofNat 16 (p + 4 * b2n (t.fl.retry && !t.fl.poi)) } else none

/-- VC entry `vc` of a cell (R84). -/
def State.vcEntry (s : State) (die wafer cell : Nat) (vc : BitVec 5) : BitVec 32 :=
  Tab.get 0x03F80000 (cellKey die wafer cell * 32 + vc.toNat) s.pl.vcs
/-- The entry of a node's cell, and its format code. -/
def State.entryAt (s : State) (n : Node) (vc : BitVec 5) : BitVec 32 := s.vcEntry n.ctx.die n.ctx.wafer n.cell vc
def State.fmtAt (s : State) (n : Node) (vc : BitVec 5) : Nat := bits (s.entryAt n vc) 27 5

/-- DETAIL of cause 0x17: a VC index and its entry in the present node's cell (R407). -/
def State.vcDetail (s : State) (vc : BitVec 5) : Nat := vc.toNat + (s.entryAt s.cur.node vc).toNat * 2 ^ 32
/-- Illegal use by an effective address (conditions 4 and 5), with the VC of a memory word. -/
def State.illegalEa (s : State) (op n : Nat) (ea : Word) : Exn :=
  illegal op n ea (if formatM op then s.vcDetail (s.cur.word.extractLsb' 25 5) else 0)

/-- A 48-bit crumb code: its side (R80; R81 when `f` is S48). -/
def crumb48 (f c : Nat) : Option Bool :=
  if f = 15 then (if c = 0x800000000000 then some false else if c = 0x800000000001 then some true else none)
  else if c / 2 ^ 37 = 0x3FD then some (c / 2 ^ 36 % 2 = 1) else none

/-- The lowest lane of a crumb token that holds a crumb, and its side. -/
def crumbLane (f : Nat) (t : Tok) : Nat × Bool :=
  ((List.range 8).findSome? fun i =>
    if i ≤ t.nlane.toNat then (crumb48 f (bits t.data (48 * i) 48)).map fun d => (i, d) else none).getD (0, t.fl.cside)

/-- Cause 0x20 for a crumb in a computing slot (R375). -/
def State.crumbFault (s : State) (n : Node) (p : Nat) (t : Tok) : Option Exn :=
  if t.fl.crb then
    let x := crumbLane (s.fmtAt n t.vc) t
    some { cause := 0x20, code := BitVec.ofNat 16 (pack [(8, 8, x.1), (2, 1, b2n x.2), (0, 2, p)]) }
  else none

/-- How a word uses its slots: the ones it reads, those it could ever read, and those that compute (R210). -/
structure Slots where
  rd : List Nat
  ever : List Nat
  comp : List Nat
  /-- NIL in any of these cancels the word and makes it emit NIL (R209). -/
  nils : List Nat

def Slots.of (rd comp : List Nat) : Slots := ⟨rd, rd, comp, comp⟩
/-- A generator reads a trigger only (R209). -/
def Slots.trigger : Slots := ⟨[0], [0], [], []⟩

/-- Slots that the word never reads and that hold a token of the instance (R407 condition 3). -/
def State.strays (s : State) (n : Node) (k : Key) (h : Hd) (sl : Slots) : List Nat :=
  (List.range 4).filter fun p => !(sl.ever.contains p) && !(p = 3 && h.pm != 0) && (s.slotTok n k p).isSome

/-- The fault of stray tokens, with the VC of the first. -/
def State.strayFault (s : State) (n : Node) (k : Key) (h : Hd) (sl : Slots) : Option Exn :=
  (s.strays n k h sl).head?.map fun p =>
    illegal (opcode s.cur.word) 3 0 (((s.slotTok n k p).map fun t => s.vcDetail t.vc).getD 0)

/-- The checks of a firing's tokens that do not depend on formats: a stray token (R407 condition 3), then crumbs in computing slots, the
lowest CODE (R374), then poison. -/
def State.tokenFault (s : State) (n : Node) (k : Key) (h : Hd) (sl : Slots) : Option Exn :=
  let comp := sl.comp ++ (if h.pm = 0 then [] else [3])
  (s.strayFault n k h sl).or <|
    (firstExn (comp.map fun p => (s.slotTok n k p).bind (s.crumbFault n p))).or
      (comp.findSome? fun p => (s.slotTok n k p).bind (poisonFault p))

/-- The node of the present firing has issued (R68): its cell issues no other node in this cycle. -/
def State.markIssued (s : State) (n : Node) : State := { s with fab := { s.fab with issued := n :: s.fab.issued } }

/-- A memory-sequence node has issued or been cancelled for its instance (R33). -/
def State.markMsq (s : State) (n : Node) (k : Key) (wave : BitVec 16) (m : Nat) : State :=
  match s.strandOf n.ctx with
  | none => s
  | some st => if m = 127 then s else
      s.setStrand ((st.touch n.ctx k wave).onInst n.ctx k fun x => { x with issued := m :: x.issued })

/-- R20 with the predicate token: does the node perform its operation? -/
def performs (h : Hd) (p : Option Tok) : Bool :=
  match h.pm, p with
  | 1, some t => pred t
  | 2, some t => !pred t
  | _, _ => true

/-- The tokens of the slots read, in order; none when one is missing. -/
def State.operands (s : State) (n : Node) (k : Key) : List Nat → Option (List Tok)
  | [] => some []
  | p :: ps =>
    match s.slotTok n k p, s.operands n k ps with
    | some t, some ts => some (t :: ts)
    | _, _ => none

/-- One firing (R19, R20). `pre` are checks that come before the crumb check (causes 0x21, 0x22: R374); `msq` is the word's
memory-sequence number, 127 for none. A cancelled node consumes its operands and emits nothing. A token in a slot that the
word never reads faults by itself (R407). The general rules for crumbs, poison and such tokens hold at every word, also where R408's row lists
no such cause (log entry 185). -/
def State.fire (s : State) (h : Hd) (sl : Slots) (msq : Nat) (pre : State → List Tok → Option Exn)
    (body : State → List Tok → Res) : Host.Outcome State Fault Refusal :=
  let n := s.cur.node
  let k := s.cur.key
  let all := sl.rd ++ (if h.pm = 0 then [] else [3])
  if !s.mayFire n k then .next s else
  match s.operands n k all with
  | none =>
    match s.strays n k h sl with
    | [] => .next s
    | p :: ps => .next (s.takeFault n k (((s.slotTok n k p).getD {}).wave) (p :: ps)
        ((s.strayFault n k h sl).getD (illegal (opcode s.cur.word) 3)))
  | some ts =>
    let wave := (ts.headD {}).wave
    let took := all ++ s.strays n k h sl
    let spend := fun (s : State) => (s.consumeAll n k all).markIssued n
    if !performs h (s.slotTok n k 3) then
      match s.tokenFault n k h { sl with comp := [] } with
      | some x => .next (s.takeFault n k wave took x)
      | none => .next ((spend s).markMsq n k wave msq)
    else
      match (pre s (ts.take sl.rd.length)).or (s.tokenFault n k h sl) with
      | some x => .next (s.takeFault n k wave took x)
      | none =>
        if sl.nils.any fun p => match s.slotTok n k p with | some t => t.fl.nil | none => false then
          .next (((spend s).markMsq n k wave msq).emit n k h [outBoth (nilResult s.cur.word (ts.take sl.rd.length))])
        else
          match body s (ts.take sl.rd.length) with
          | .waits => .next s
          | .faults x => .next (s.takeFault n k wave took x)
          | .stops s' x => .next (s'.takeFault n k wave took x)
          | .fires s' outs => .next ((spend s').emit n k h outs)

/-- No checks before the crumb check. -/
def noPre : State → List Tok → Option Exn := fun _ _ => none

/-- Put an effect into the instance's commit buffer (R30). -/
def State.hold (s : State) (msq : Nat) (wave : BitVec 16) (e : Eff) : State :=
  let n := s.cur.node
  let k := s.cur.key
  match s.strandOf n.ctx with
  | none => s
  | some st =>
    s.setStrand ((st.touch n.ctx k wave).onInst n.ctx k fun x => { x with held := x.held ++ [⟨n.index, msq, wave, s.mem.nextSeq, e⟩] })

/-! Tokens taken in SEQ order (R94). -/

/-- Bring the token of the given SEQ to the front of its slot; none when it is not there. A FIFO cell offers its head only. -/
def State.bySeq (s : State) (n : Node) (k : Key) (p : Nat) (q : BitVec 16) : Option State :=
  if s.fifo n then
    (match s.slotTok n k p with | some t => if t.seq = q then some s else none | none => none)
  else
    let here := fun (t : LTok) => t.node = n && t.port = p && t.key = k && t.tok.seq = q
    match s.fab.ostore.find? here with
    | none => none
    | some t => some { s with fab := { s.fab with ostore := t :: dropFirst here s.fab.ostore } }

/-- The strand of the present firing. -/
def State.here (s : State) : Option Strand := s.strandOf s.cur.node.ctx

end Sys2Proof.Machine
end

