-- ==== Sys2Proof/Machine/MemOps.lean ====
section
/-! DEFINITION. Sectors, poison and errors (R130, R131, R383), translation and protection (R134, R135, R382), the address
forms of the spaces (R127, R133, R274), copies in caches (R128, R129, R154), and reads and writes at the home slice. -/

namespace Sys2Proof.Machine

def State.partEntry (s : State) (p : Nat) : BitVec 1024 := Tab.get 0 p s.host.parts
def State.module (s : State) : BitVec 8 := s.pod.recovery.extractLsb' 40 8
def State.domain (s : State) (p : Nat) : Domain := Tab.get {} p s.pod.domains
def Domain.step (d : Domain) : BitVec 32 := d.reg.extractLsb' 0 32

/-! Sectors. -/

/-- Base addresses of the sectors that `n` bytes at `a` touch, on the grid of the frame at `base` (R130). -/
def sectorsOf (base a n : Nat) : List Nat :=
  if n = 0 then [] else
    let f := (a - base) / 48
    (List.range ((a + n - 1 - base) / 48 - f + 1)).map fun i => base + (f + i) * 48

/-- The frame a physical address is read at: the new frame once a migration has changed the entry (R138). -/
def State.home (s : State) (a : Nat) : Nat :=
  s.mem.redirect.foldl (fun a r => if r.1 ≤ a && a < r.1 + r.2.2.1 then r.2.1 + (a - r.1) else a) a

def zeros (n : Nat) : List Byte := List.replicate n 0

/-- A sector of a page being migrated has been written: its MIG bit is set (R138). -/
def markMig (l : List Migration) (sec : Nat) : List Migration :=
  l.map fun m => if m.stage = 1 && m.old ≤ sec && sec < m.old + m.size then { m with dirty := addNew m.dirty sec } else m

/-- A read finds the errors of the sectors it reads: the controller rewrites each with POI = 1, and a sector with POI = 1 reads as
zero (R383). -/
def State.findErrors (s : State) (secs : List Nat) : State :=
  let hit := (s.mem.bad.filter fun b => secs.contains b.sec).map (·.sec)
  if hit.isEmpty then s else
    { s with mem := { s.mem with
        bad := s.mem.bad.filter fun b => !secs.contains b.sec,
        poi := s.mem.poi ++ hit.filter fun a => !s.mem.poi.contains a,
        migs := hit.foldl markMig s.mem.migs } }

/-- The memory cause a computing access meets: an error it finds (0x32 ECC, 0x33 MAC), or poison (0x34). -/
def State.sectorFault (s : State) (secs : List Nat) : Option (BitVec 8) :=
  match s.mem.bad.find? fun b => secs.contains b.sec with
  | some b => some (if b.ecc then 0x32 else 0x33)
  | none => if s.mem.poi.any secs.contains then some 0x34 else none

/-- Bytes at an address of physical memory; a poisoned sector reads as zero (R383). A sector of a new grid that has not been written
whole reads as its bytes stand, poisoned where a poisoned sector begins at its base: the spec leaves that value open (log entry 168). -/
def State.physBytes (s : State) (base a n : Nat) : List Byte :=
  (List.range n).map fun i =>
    let x := a + i
    if s.mem.poi.contains (base + (x - base) / 48 * 48) then 0 else Tab.get memDefault x s.mem.phys

def State.setPoi (s : State) (sec : Nat) (p : Bool) : State :=
  { s with mem := { s.mem with poi := (s.mem.poi.filter (· != sec)) ++ (if p then [sec] else []) } }

/-- A whole sector written: poison and unfound errors go, CV as given; KIDX is the page's (R131, R383). No byte of the padding behind
a page's end `top` has an address (R130). -/
def State.putSector (s : State) (sec top : Nat) (data : List Byte) (cv : Bool) (kidx : BitVec 8) : State :=
  let s := s.setPoi sec false
  { s with mem := { s.mem with
      phys := memWrite s.mem.phys sec (data.take (top - sec)), bad := s.mem.bad.filter (fun b => b.sec != sec),
      cvs := (s.mem.cvs.filter (· != sec)) ++ (if cv then [sec] else []), kidx := Tab.put 0 sec kidx s.mem.kidx,
      migs := markMig s.mem.migs sec } }

/-! Compressed pages (R137): the home L2's plain lines and the stored image. -/

/-- The sectors of a line that carry CV = 1. -/
def State.imageSectors (s : State) (line : Nat) : List Nat :=
  ((List.range 4).map fun i => line + 48 * i).filter s.mem.cvs.contains

/-- Offsets of a line's sectors. -/
def sectorOffsets (len : Nat) : List Nat := (List.range ((len + 47) / 48)).map (48 * ·)

/-- The image of a line: one to as many sectors as the line has, the last no longer than it (R130, R137). A line with poisoned sectors is
stored sector by sector, those with POI = 1 (log entry 169). -/
def imageOf (bytes : List Byte) (poi : List Nat) : List (Option Beat) :=
  let cut := fun (o : Nat) (b : List Byte) => beatOf (b.take (min 48 (bytes.length - o)))
  if poi.isEmpty then
    let c := Config.compress bytes
    ((sectorOffsets bytes.length).zip (if c.isEmpty then [0] else c)).map fun x => some (cut x.1 (bytesOf x.2))
  else (sectorOffsets bytes.length).map fun o => if poi.contains o then none else some (cut o (bytes.drop o))

/-- The stored image of a line; none is a sector that is poisoned, or whose read would poison it. -/
def State.storedImage (s : State) (base top line : Nat) : List (Option Beat) :=
  (s.imageSectors line).map fun x =>
    if s.mem.poi.contains x || s.mem.bad.any (fun b => b.sec = x) then none else some (beatOf (s.physBytes base x (min 48 (top - x))))

/-- The plain bytes an image of a line of `len` bytes stands for, and their poisoned sectors: those the device made it from, when it did;
else all of it poisoned when a sector is; else by the private coding. -/
def State.decoded (s : State) (image : List (Option Beat)) (len : Nat) : Option (List Byte × List Nat) :=
  match s.mem.coded.find? fun c => c.1 = image && c.2.1.length = len with
  | some c => some c.2
  | none =>
    if image.contains none then some (zeros len, sectorOffsets len)
    else (Config.decompress (image.filterMap id)).map fun l => ((l ++ zeros 192).take len, [])

/-- The L2 writes back a dirty plain line: compressed into the line's first sectors. -/
def State.writeBack (s : State) (line : Nat) (kidx : BitVec 8) : State :=
  match Tab.find line s.mem.plain with
  | some l =>
    if !l.dirty then s else
    let image := imageOf l.bytes l.poi
    let s := (sectorOffsets l.bytes.length).foldl (fun s o =>
      let sec := line + o
      match image[o / 48]? with
      | some b => (s.putSector sec (line + l.bytes.length) (bytesOf (b.getD 0)) true kidx).setPoi sec b.isNone
      | none =>
        if !s.mem.cvs.contains sec then s
        else { s with mem := { s.mem with cvs := s.mem.cvs.filter (· != sec), migs := markMig s.mem.migs sec } }) s
    { s with mem := { s.mem with plain := Tab.ins line { l with dirty := false } s.mem.plain, coded := (image, l.bytes, l.poi) :: s.mem.coded } }
  | none => s

/-- A plain line leaves the L2, written back when dirty. -/
def State.evict (s : State) (line : Nat) (kidx : BitVec 8) : State :=
  let s := s.writeBack line kidx
  { s with mem := { s.mem with plain := Tab.del line s.mem.plain } }

/-- The L2 may have evicted a line before an access (free). -/
def State.mayEvict (s : State) (line : Nat) (kidx : BitVec 8) : State :=
  if (Tab.find line s.mem.plain).isNone then s
  else if s.pick 2 = 0 then s.spent.evict line kidx else s.spent

/-- A plain line enters the L2 of its die; a full L2 first lets one of its lines go, which one is free (R12, R129). -/
def State.fillL2 (s : State) (line : Nat) (l : PlainLine) : State :=
  let own := (s.mem.plain.filter fun x => x.2.die = l.die).map (·.1)
  let s := if own.contains line || own.length < Config.l2Lines then s
    else
      let old := own.getD (s.pick own.length) 0
      s.spent.evict old (Tab.get 0 old s.mem.kidx)
  { s with mem := { s.mem with plain := Tab.ins line l s.mem.plain } }

/-- Length of a line of a frame (R130). -/
def lineLen (base size line : Nat) : Nat := min 192 (base + size - line)

/-- The plain line for an access, with its poisoned sectors: filled from the image when the L2 has none, into the L2 of the page's home die
when the page is cacheable (R129); none when the image does not decode (R388). -/
def State.plainLine (s : State) (a : Acc) (line : Nat) : Option (List Byte × List Nat) × State :=
  let base := s.home a.base
  let s := s.mayEvict line a.kidx
  match Tab.find line s.mem.plain with
  | some l => (some (l.bytes, l.poi), s)
  | none =>
    let s := s.findErrors (s.imageSectors line)
    match s.decoded (s.storedImage base (base + a.size) line) (lineLen base a.size line) with
    | none => (none, s)
    | some l => (some l, if a.ca then s.fillL2 line ⟨a.hdie.toNat, false, l.1, l.2⟩ else s)

/-- Some part of bytes [o, o + n) of a line lies in one of its poisoned sectors. -/
def poisonIn (poi : List Nat) (o n : Nat) : Bool := poi.any fun p => decide (p < o + n ∧ o < p + 48)

/-- A line with new bytes written over it (none: not written): a poisoned datum poisons each sector it touches, a whole write clears poison,
a partial write to a poisoned sector is discarded (R383, R384). -/
def writeOver (old : List Byte) (bad : List Nat) (new : List (Option Byte)) (poi : Bool) : List Byte × List Nat :=
  let at_ := fun (i : Nat) => new.getD i none
  let bad := (sectorOffsets old.length).filter fun o =>
    let mine := (List.range (min 48 (old.length - o))).map fun j => (at_ (o + j)).isSome
    if poi && mine.contains true then true else bad.contains o && mine.contains false
  ((List.range old.length).map fun i => if bad.contains (i / 48 * 48) then 0 else (at_ i).getD (old.getD i 0), bad)

/-! Translation (R134). -/

/-- What a walk answers: the leaf and its level, or a cause and CODE. -/
inductive Walk where
  | leaf (e : BitVec 128) (lvl : Nat) (at_ : Nat)
  | fails (cause : BitVec 8) (code : Nat) (sec : Nat)
deriving DecidableEq, Repr

/-- Levels, the lowest index bit, and the index width (R134). -/
def walkLevels : List (Nat × Nat × Nat) := [(1, 48, 9), (2, 39, 9), (3, 30, 9), (4, 21, 9), (5, 16, 5)]

def pageSize (lvl : Nat) : Nat := if lvl = 3 then 2 ^ 30 else if lvl = 4 then 2 ^ 21 else 2 ^ 16

/-- A malformed entry at a level (R134). -/
def malformed (e : BitVec 128) (lvl : Nat) : Bool :=
  if !bit e 1 then
    lvl = 5 || bits e 2 7 != 0 || bits e 52 76 != 0 || (lvl ≤ 3 && bits e 9 4 != 0)
  else
    lvl ≤ 2 || bits e 2 2 != 5 - lvl || bits e 14 2 != 0 || bit e 55 || bits e 72 56 != 0 ||
    bits e 16 36 * 65536 % pageSize lvl != 0

/-! Readiness (R350). -/

/-- Every stack and package is usable, and every cache die in front of them. -/
def State.allReady (s : State) : Bool := bits s.host.ready 8 24 = 0xFFFFFF && bits s.host.ready 32 12 = 0xFFF
/-- The two stacked cache dies of a compute die (R10). -/
def State.llcReady (s : State) (die : Nat) : Bool := bits s.host.ready (16 + 2 * die) 2 = 3
/-- The memory at an address is usable; an address the map gives no memory waits for all of it. -/
def State.paReady (s : State) (pa : Nat) : Bool :=
  s.allReady || match Config.memoryAt pa with
    | some (.hbm d) => bit s.host.ready (8 + d)
    | some (.lpddr p) => bit s.host.ready (32 + p)
    | none => false
/-- The memory of a page is usable: its die's cache dies, and its die's HBM stack, or, for a page in LPDDR, its package. -/
def State.memReady (s : State) (a : Acc) : Bool :=
  a.bank || a.hmod != s.module ||
  (s.llcReady a.hdie.toNat && (if a.tier then s.paReady (s.home a.addr) else bit s.host.ready (8 + a.hdie.toNat)))

def State.walkFrom (s : State) (va : Word) (table : Nat) : List (Nat × Nat × Nat) → Walk
  | [] => .fails 0x30 0x000D 0
  | (lvl, sh, n) :: rest =>
    let a := s.home (table + 16 * bits va sh n)
    match s.mem.bad.find? fun b => b.sec < a + 16 && a < b.sec + 48 with
    | some b => .fails (if b.ecc then 0x32 else 0x33) 0 b.sec
    | none =>
      if s.mem.poi.any fun p => p < a + 16 && a < p + 48 then .fails 0x34 0 0 else
      let e := BitVec.ofNat 128 (leNat (memRead s.mem.phys a 16))
      if !bit e 0 then .fails 0x30 lvl 0
      else if malformed e lvl then .fails 0x30 (lvl + 8) 0
      else if bit e 1 then .leaf e lvl a
      else s.walkFrom va (bits e 9 43 * 512) rest


/-- A TLB entry that covers a page for a strand's partition, in the wafer's TLB or the die's; a stale one only while the
strand has passed no boundary since (R136). -/
def State.tlbHit (s : State) (die wafer part stamp : Nat) (va : Word) : Option Tlb :=
  let ok := fun (t : Tlb) => t.die = die && t.part = part && t.page ≤ va.toNat && va.toNat < t.page + t.size &&
    (match t.stale with | none => true | some x => stamp ≤ x)
  (s.mem.tlb.find? fun t => t.wafer = some wafer && ok t).or (s.mem.tlb.find? fun t => t.wafer = none && ok t)

/-- A TLB takes a new entry; a full one lets one of its own go, which one is free (R12). -/
def State.addTlb (s : State) (t : Tlb) : State :=
  let own := fun (x : Tlb) => x.die = t.die && x.wafer = t.wafer
  let n := s.mem.tlb.countP own
  let size := if t.wafer.isSome then Config.waferTlbEntries else Config.dieTlbEntries
  if n < size then { s with mem := { s.mem with tlb := t :: s.mem.tlb } }
  else
    match (s.mem.tlb.filter own)[s.pick n]? with
    | some v => { s.spent with mem := { s.mem with tlb := t :: dropFirst (fun x => x = v) s.mem.tlb } }
    | none => s

/-- A stale entry may be used or not: free (R136). -/
def State.lookup (s : State) (die wafer part stamp : Nat) (va : Word) : Walk × State :=
  let root := bits (s.partEntry part) 352 64
  match s.tlbHit die wafer part stamp va with
  | some t =>
    let lvl := if t.size = 2 ^ 30 then 3 else if t.size = 2 ^ 21 then 4 else 5
    if t.stale.isNone || s.pick 2 = 0 then (.leaf t.entry lvl 0, if t.stale.isNone then s else s.spent)
    else (s.walkFrom va root walkLevels, s.spent)
  | none =>
    match s.walkFrom va root walkLevels with
    | .leaf e lvl a =>
      let page := va.toNat / pageSize lvl * pageSize lvl
      let new := fun (w : Option Nat) => Tlb.mk die w part page (pageSize lvl) e none
      (.leaf e lvl a, (s.addTlb (new none)).addTlb (new (some wafer)))
    | w => (w, s)

/-- Every table that a walk reads lies in memory that is usable. -/
def State.tablesReady (s : State) (va : Word) (table : Nat) : List (Nat × Nat × Nat) → Bool
  | [] => true
  | (_, sh, n) :: rest =>
    let a := s.home (table + 16 * bits va sh n)
    s.paReady a &&
    (let e := BitVec.ofNat 128 (leNat (memRead s.mem.phys a 16))
     !bit e 0 || bit e 1 || s.tablesReady va (bits e 9 43 * 512) rest)
/-- A walk of a partition's tables waits for their memory (R350). -/
def State.partWalkWaits (s : State) (part : Nat) (va : Word) : Bool :=
  !s.allReady && !s.tablesReady va (bits (s.partEntry part) 352 64) walkLevels
/-- An access of a strand whose translation needs such a walk. -/
def State.walkWaits (s : State) (die wafer : Nat) (st : Strand) (va : Word) : Bool :=
  !s.allReady && (s.tlbHit die wafer st.part st.stamp va).isNone && s.partWalkWaits st.part va
/-- The same for a memory word of a node. -/
def State.nodeWaits (s : State) (st : Strand) (n : Node) (space : BitVec 3) (va : Word) : Bool :=
  !(space = 1 || space = 2) && s.walkWaits n.ctx.die n.ctx.wafer st va

/-- What a leaf makes of an access. The frame may lie anywhere: the spec has only MIGR check that memory is installed there (R387), and an
access to a frame of no part, or of the spill area, is one to ordinary memory (log entry 170). -/
def accOf (va : Word) (e : BitVec 128) (lvl : Nat) : Acc :=
  let base := bits e 16 36 * 65536
  { addr := base + va.toNat % pageSize lvl, va := va, base := base, size := pageSize lvl, ss := bit e 7, cv := bit e 11,
    ca := bit e 5, conf := bit e 6, migs := bit e 12, tier := bit e 13, cr := e.extractLsb' 8 3, kidx := e.extractLsb' 64 8,
    hmod := e.extractLsb' 56 8, hdie := e.extractLsb' 52 3 }

def memExn (cause : BitVec 8) (code : Nat) (va : Word) (pa : Nat) : Exn :=
  { cause := cause, code := BitVec.ofNat 16 code, addr := va, detail := BitVec.ofNat 384 (pa % 2 ^ 52) }

/-- R346: KIDX within the partition's key range, or 0. -/
def State.keyOk (s : State) (part : Nat) (k : BitVec 8) : Bool :=
  let e := s.partEntry part
  k = 0 || (bits e 432 8 ≤ k.toNat && k.toNat ≤ bits e 432 8 + bits e 424 8)

/-- Translate and check protection (R134, R382). A protection fault removes the page from both TLBs. -/
def State.translate (s : State) (die wafer part stamp : Nat) (va : Word) (write : Bool) : Except Exn Acc × State :=
  if bits va 57 7 != (if bit va 56 then 127 else 0) then (.error (memExn 0x30 0 va 0), s) else
  match s.lookup die wafer part stamp va with
  | (.fails c code sec, s) => (.error (memExn c code va 0), s.findErrors [sec])
  | (.leaf e lvl _, s) =>
    let a := { accOf va e lvl with part := part }
    let unmap := { s with mem := { s.mem with tlb := s.mem.tlb.filter fun t =>
      !(t.die = die && t.part = part && t.page ≤ va.toNat && va.toNat < t.page + t.size) } }
    if write && !bit e 4 then (.error (memExn 0x31 1 va a.addr), unmap)
    else if !s.keyOk part a.kidx then (.error (memExn 0x31 3 va a.addr), unmap)
    else (.ok a, s)

/-! Banks (R127). -/

def State.bankByte (s : State) (k : Nat) : Byte := Tab.get memDefault k s.mem.bank

/-- A node's access in space 001 or 010 (R133, R274); `al` is its alignment. -/
def State.bankAccess (s : State) (st : Strand) (n : Node) (space : Nat) (ea : Word) (size al : Nat) (op : Nat) :
    Except Exn Acc :=
  let die := n.ctx.die
  if space = 1 && (bits ea 28 36 != 0 || st.wafers.length ≤ bits ea 22 6) then .error (s.illegalEa op 5 ea)
  else if space = 2 && bits ea 16 48 != 0 then .error (s.illegalEa op 5 ea)
  else
    let w := if space = 1 then st.wafers.getD (bits ea 22 6) 0 else n.ctx.wafer
    let at_ := if space = 1 then s.scratchAcc die w (bits ea 0 22) size
      else if bits ea 0 16 + size ≤ 65536 then some (n.cell, bits ea 0 16) else none
    match at_ with
    | none => .error (s.illegalEa op 4 ea)
    | some (cell, off) =>
      if off % al != 0 then .error (s.illegalEa op 4 ea)
      else if s.role die w cell != 0 then .error (memExn 0x31 4 ea 0)
      else .ok { bank := true, addr := bankKey die w cell off, va := ea, hdie := BitVec.ofNat 3 die, hmod := s.module }

/-- Alignment and page bounds of a translated access (R274): cause 0x17, condition 4. -/
def alignedIn (a : Acc) (size : Nat) : Bool :=
  let off := a.va.toNat % a.size
  if size = 192 then off % 192 = 0 else if size = 48 then off % 48 = 0 && off + 48 ≤ a.size else off % size = 0

/-- The access of a node's memory word (R133, R274, R382). -/
def State.access (s : State) (st : Strand) (n : Node) (space : Nat) (ea : Word) (size : Nat) (write : Bool) (op : Nat) :
    Except Exn Acc × State :=
  if space = 1 || space = 2 then (s.bankAccess st n space ea size size op, s)
  else if size < 48 && ea.toNat % size != 0 then (.error (s.illegalEa op 4 ea), s)
  else
    match s.translate n.ctx.die n.ctx.wafer st.part st.stamp ea write with
    | (.error x, s) => (.error x, s)
    | (.ok a, s) =>
      if !alignedIn a size then (.error (s.illegalEa op 4 ea), s)
      else if space = 3 && !a.ss then (.error (memExn 0x31 2 ea a.addr), s)
      else if space = 4 && !a.cv then (.error (memExn 0x36 1 ea a.addr), s)
      else (.ok a, s)

/-! Reading (R153 to R155, R163). -/

/-- A read's answer: the bytes, and whether a sector of them is poisoned. -/
structure Bytes where
  bytes : List Byte
  poi : Bool
deriving DecidableEq, Repr

/-- Lines of a page in which bytes lie. -/
def linesIn (base : Nat) (bytes : List (Nat × Byte)) : List Nat := (bytes.map fun b => base + (b.1 - base) / 192 * 192).foldl addNew []

/-- Bytes of one line of a compressed page, from `addr` on. -/
def State.readLine (s : State) (a : Acc) (addr n : Nat) : Option Bytes × State :=
  let base := s.home a.base
  let line := base + (addr - base) / 192 * 192
  match s.plainLine a line with
  | (none, s) => (none, s)
  | (some (l, poi), s) => (some ⟨(l ++ zeros 192).drop (addr - line) |>.take n, poisonIn poi (addr - line) n⟩, s)
/-- The same of bytes that lie in up to two lines. -/
def State.readLines (s : State) (a : Acc) (addr n : Nat) : Option Bytes × State :=
  let room := 192 - (addr - s.home a.base) % 192
  if n ≤ room then s.readLine a addr n else
  match s.readLine a addr room with
  | (none, s) => (none, s)
  | (some b, s) =>
    match s.readLine a (addr + room) (n - room) with
    | (none, s) => (none, s)
    | (some c, s) => (some ⟨b.bytes ++ c.bytes, b.poi || c.poi⟩, s)

/-- The bytes of a long run of a page whose errors have been looked for; none when a line of it does not decode. -/
def State.readRun (s : State) (a : Acc) (n : Nat) : Option (List Byte) × State :=
  if !a.cv then (some (s.physBytes (s.home a.base) (s.home a.addr) n), s) else
  let base := s.home a.base
  let addr := s.home a.addr
  ((linesIn base ((List.range n).map fun i => (addr + i, 0))).foldl (fun acc line =>
    let lo := max line addr
    match acc with
    | (none, s) => (none, s)
    | (some l, s) =>
      match s.readLine a lo (min (line + 192) (addr + n) - lo) with
      | (some b, s) => (some (l ++ b.bytes), s)
      | (none, s) => (none, s)) (some [], s))

/-- Read at the home slice or bank; none when a compressed line does not decode (R388). -/
def State.readHome (s : State) (a : Acc) (n : Nat) : Option Bytes × State :=
  if a.bank then (some ⟨memRead s.mem.bank a.addr n, false⟩, s) else
  if a.hmod != s.module then
    if a.ss then
      -- the state as of the last glaze, on whatever module the page lies (R163)
      (some ⟨(List.range n).map fun i => Config.sharedByte a.part (s.domain a.part).step.toNat a.hmod.toNat (a.addr + i), false⟩, s)
    else
      -- the spec gives an access to another module's page no value, whoever makes it (log entry 20)
      (some ⟨leBytes n (Config.free s.ctr), false⟩, s.spent) else
  let addr := s.home a.addr
  let base := s.home a.base
  if a.cv then s.readLines a addr n
  else
    let secs := sectorsOf base addr n
    let s := s.findErrors secs
    (some ⟨s.physBytes base addr n, s.mem.poi.any secs.contains⟩, s)

/-- Lines in which `n` bytes of an access lie. -/
def State.accLines (s : State) (a : Acc) (n : Nat) : List Nat :=
  let base := s.home a.base
  let addr := s.home a.addr
  if n = 0 then [] else
    let f := (addr - base) / 192
    (List.range ((addr + n - 1 - base) / 192 - f + 1)).map fun i => base + (f + i) * 192
/-- The sectors that an access of `n` bytes reads at its home: on a page with CV = 1 those of the images of the lines that the L2 has not. -/
def State.secsOf (s : State) (a : Acc) (n : Nat) : List Nat :=
  if a.cv then ((s.accLines a n).filter fun l => (Tab.find l s.mem.plain).isNone).flatMap s.imageSectors
  else sectorsOf (s.home a.base) (s.home a.addr) n
/-- The image of a line that the L2 has not does not decode (R388). -/
def State.noImage (s : State) (a : Acc) (line : Nat) : Bool :=
  let base := s.home a.base
  (Tab.find line s.mem.plain).isNone && (s.decoded (s.storedImage base (base + a.size) line) (lineLen base a.size line)).isNone
/-- Poisoned sectors of a plain line, in the L2 or as its image decodes. -/
def State.linePoison (s : State) (a : Acc) (line : Nat) : List Nat :=
  let base := s.home a.base
  match Tab.find line s.mem.plain with
  | some l => l.poi
  | none => ((s.decoded (s.storedImage base (base + a.size) line) (lineLen base a.size line)).map (·.2)).getD []
/-- The memory cause that an access meets which does not perform on an error or on poison (R383): 0x32 or 0x33 for an error it finds, 0x34. -/
def State.accFault (s : State) (a : Acc) (n : Nat) : Option (BitVec 8) :=
  let secs := s.secsOf a n
  match s.mem.bad.find? fun b => secs.contains b.sec with
  | some b => some (if b.ecc then 0x32 else 0x33)
  | none =>
    if !a.cv then s.sectorFault secs
    else
      let lo := fun (l : Nat) => max l (s.home a.addr)
      let hi := fun (l : Nat) => min (l + 192) (s.home a.addr + n)
      if (s.accLines a n).any fun l => poisonIn (s.linePoison a l) (lo l - l) (hi l - lo l) then some 0x34 else none

/-- A copy of the line that a strand may hit (R128, R129): filled since its boundary and its last RDCI (R288), in the wafer's line cache or
the RDC. A line has one copy in each, by whatever frame it is reached (R138). -/
def State.copyHit (s : State) (st : Strand) (wafer : Option Nat) (die line : Nat) : Option Copy :=
  s.mem.copies.find? fun c => c.wafer = wafer && c.die = die && s.home c.addr = s.home line && max st.stamp st.fills ≤ c.stamp

/-- Cells of a wafer in the cache role. -/
def State.cacheCells (s : State) (die wafer : Nat) : Nat := (List.range 64).countP fun x => s.role die wafer x = 2
/-- Copies that share the room of a copy: in one RDC, or in one cell of the wafer line cache, that of rank L mod n (R128), L being the line's
number within its page (log entry 187). -/
def State.sharesRoom (s : State) (c x : Copy) : Bool :=
  x.die = c.die && x.wafer = c.wafer &&
  (match c.wafer with | none => true | some w => decide (x.num % s.cacheCells c.die w = c.num % s.cacheCells c.die w))

/-- A filled line; a full cache, or cell of one, lets its oldest go (which one no rule gives: a copy may be missed at any time). -/
def State.addCopy (s : State) (c : Copy) : State :=
  let rest := s.mem.copies.filter fun x => !(x.die = c.die && x.wafer = c.wafer && s.home x.addr = s.home c.addr)
  let own := s.sharesRoom c
  let rest := if rest.countP own < (if c.wafer.isNone then Config.rdcLines else Config.cellLines) then rest
    else (dropFirst own rest.reverse).reverse
  { s with mem := { s.mem with copies := c :: rest } }

/-- A whole line as a cache fills it: its errors are found, its poisoned sectors named. -/
def State.wholeLine (s : State) (a : Acc) (line : Nat) : Option (List Byte × List Nat) × State :=
  if a.cv then s.plainLine a line else
  let base := s.home a.base
  let n := lineLen base a.size line
  let s := s.findErrors (sectorsOf base line n)
  (some (s.physBytes base line n, (sectorOffsets n).filter fun o => s.mem.poi.contains (line + o)), s)

def State.hasLineCache (s : State) (die wafer : Nat) : Bool := (List.range 64).any fun c => s.role die wafer c = 2

/-- A load at a scope (R154): a copy that may serve it does or does not (free), and a read may or may not fill (free). -/
def State.readScoped (s : State) (st : Strand) (n : Node) (a : Acc) (len : Nat) (scope : Nat) : Option Bytes × State :=
  if a.bank || a.ss || !a.ca || a.hmod != s.module then s.readHome a len else
  let line := a.base + (a.addr - a.base) / 192 * 192
  let wlc := scope = 0 && s.hasLineCache n.ctx.die n.ctx.wafer
  let rdc := scope ≤ 1 && a.hdie.toNat != n.ctx.die
  if !wlc && !rdc then s.readHome a len else
  let hit := (if wlc then s.copyHit st (some n.ctx.wafer) n.ctx.die line else none).or
    (if rdc then s.copyHit st none n.ctx.die line else none)
  match hit with
  | some c =>
    if s.pick 2 = 0 then (some ⟨(c.bytes ++ zeros 192).drop (a.addr - line) |>.take len, poisonIn c.poi (a.addr - line) len⟩, s.spent)
    else s.spent.readHome a len
  | none =>
    match s.readHome a len with
    | (some b, s) =>
      let into : List (Option Nat) := (if wlc && s.pick 2 = 0 then [some n.ctx.wafer] else []) ++ (if rdc && s.pick 4 < 2 then [none] else [])
      if into.isEmpty then (some b, s.spent) else
      match s.spent.wholeLine a (s.home line) with
      | (some l, s) =>
        (some b, (into.map fun w =>
          Copy.mk w n.ctx.die line ((a.addr - a.base) / 192) l.1 l.2 (taskKey st.die st.task) s.mem.clock).foldl State.addCopy s)
      | (none, s) => (some b, s)
    | r => r

/-! Writing at the home slice (R153, R383, R384). -/

/-- The bytes of a write that fall into one sector. -/
def inSector (sec : Nat) (bytes : List (Nat × Byte)) : List (Nat × Byte) := bytes.filter fun b => sec ≤ b.1 && b.1 < sec + 48

/-- One sector of a write: whole writes clear poison, partial writes to a poisoned sector are discarded (R383), a poisoned
datum poisons each sector it touches (R384). `top` is the end of the page. -/
def State.writeSector (s : State) (a : Acc) (top sec : Nat) (bytes : List (Nat × Byte)) (poi : Bool) : State :=
  let mine := inSector sec bytes
  let whole := (List.range (min 48 (top - sec))).all fun i => mine.any fun b => b.1 = sec + i
  if poi then (s.putSector sec top (zeros 48) false a.kidx).setPoi sec true
  else if whole then
    s.putSector sec top ((List.range 48).map fun i => ((mine.find? fun b => b.1 = sec + i).map (·.2)).getD 0) false a.kidx
  else if s.mem.bad.any fun b => b.sec = sec then s.findErrors [sec]
  else if s.mem.poi.contains sec then s
  else { s with mem := { s.mem with phys := memPut s.mem.phys mine, cvs := s.mem.cvs.filter (· != sec),
                                    kidx := Tab.put 0 sec a.kidx s.mem.kidx, migs := markMig s.mem.migs sec } }

/-- A store updates the copies its wafer and its die hold (R128, R129, R160), by whatever frame they were reached (R138). -/
def State.updateCopies (s : State) (die wafer : Nat) (bytes : List (Nat × Byte)) (poi : Bool) : List Copy :=
  s.mem.copies.map fun c =>
    if c.die = die && (c.wafer = none || c.wafer = some wafer) then
      let new := (List.range c.bytes.length).map fun i => (bytes.find? fun b => s.home b.1 = s.home (c.addr + i)).map (·.2)
      if new.all (·.isNone) then c else
      let l := writeOver c.bytes c.poi new poi
      { c with bytes := l.1, poi := l.2 }
    else c

/-- The bytes of a write that fall into one line, written to it; an uncached page's line is compressed at once (R129, R137). A line that is
overwritten whole needs no image that decodes. -/
def State.writeLine (s : State) (a : Acc) (bytes : List (Nat × Byte)) (poi : Bool) (line : Nat) : State :=
  let len := lineLen (s.home a.base) a.size line
  let new := (List.range len).map fun i => (bytes.find? fun b => b.1 = line + i).map (·.2)
  let (old, s) := s.plainLine a line
  match (if old.isNone && new.all (·.isSome) then some (zeros len, []) else old) with
  | none => s
  | some (old, bad) =>
    let l := writeOver old bad new poi
    let s := s.fillL2 line ⟨a.hdie.toNat, true, l.1, l.2⟩
    if a.ca then s else s.evict line a.kidx
/-- Write bytes (absolute addresses) at the home slice or bank, from wafer `wafer` of die `die`. -/
def State.writeHome (s : State) (die wafer : Nat) (a : Acc) (bytes : List (Nat × Byte)) (poi : Bool) : State :=
  if a.bank then { s with mem := { s.mem with bank := memPut s.mem.bank bytes } }
  else if a.hmod != s.module then s
  else
    let s := { s with mem := { s.mem with copies := s.updateCopies die wafer bytes poi } }
    let base := s.home a.base
    let bytes := bytes.map fun b => (s.home b.1, b.2)
    if a.cv then (linesIn base bytes).foldl (fun s line => s.writeLine a bytes poi line) s
    else ((bytes.map fun b => base + (b.1 - base) / 48 * 48).foldl addNew []).foldl (fun s sec => s.writeSector a (base + a.size) sec bytes poi) s

/-- The first line of a compressed page that a write covers only in part and whose image does not decode: it cannot be filled (R388). -/
def State.undecodable (s : State) (a : Acc) (bytes : List (Nat × Byte)) : Bool :=
  a.cv && !a.bank && a.hmod = s.module &&
  (let base := s.home a.base
   let bytes := bytes.map fun b => (s.home b.1, b.2)
   (linesIn base bytes).any fun line => s.noImage a line &&
     !((List.range (lineLen base a.size line)).all fun i => bytes.any fun b => b.1 = line + i))

/-- Some byte of a write would not be written (R357): its page lies elsewhere, or it writes part of a poisoned sector, or part of a line
whose image does not decode (R383, R388). -/
def State.writeDrops (s : State) (a : Acc) (bytes : List (Nat × Byte)) : Bool :=
  let base := s.home a.base
  let top := base + a.size
  let bytes := bytes.map fun b => (s.home b.1, b.2)
  let whole := fun (x : Nat) => (List.range (min 48 (top - x))).all fun i => bytes.any fun b => b.1 = x + i
  let spoilt := fun (sec : Nat) => s.mem.poi.contains sec || s.mem.bad.any fun b => b.sec = sec
  if a.bank then false
  else if a.hmod != s.module then true
  else
    let secs := (bytes.map fun b => base + (b.1 - base) / 48 * 48).foldl addNew []
    if a.cv then s.undecodable a bytes || secs.any fun sec =>
      let line := base + (sec - base) / 192 * 192
      (s.linePoison a line).contains (sec - line) && !whole sec
    else secs.any fun sec => spoilt sec && !whole sec

/-- Bytes at consecutive addresses from an access's first. -/
def at_ (a : Acc) (bytes : List Byte) : List (Nat × Byte) := (List.range bytes.length).map fun i => (a.addr + i, bytes.getD i 0)

/-- Bytes at an access, cut by sector. -/
def bySector (a : Acc) (bytes : List Byte) : List (Acc × List Byte) :=
  (sectorsOf a.base a.addr bytes.length).map fun sec =>
    let lo := max sec a.addr
    let hi := min (sec + 48) (a.addr + bytes.length)
    ({ a with addr := lo, va := a.va + BitVec.ofNat 64 (lo - a.addr) }, (bytes.drop (lo - a.addr)).take (hi - lo))

/-! Glaze buffers (R171, R172, R395). -/

def State.setDomain (s : State) (p : Nat) (d : Domain) : State :=
  { s with pod := { s.pod with domains := Tab.put {} p d s.pod.domains } }

/-- An access waits for its memory (R350), and a read of a step-shared page while the strand runs ahead of its module (R164). -/
def State.ahead (s : State) (st : Strand) (a : Acc) : Bool :=
  !s.memReady a || a.ss && st.step != (s.domain st.part).step

/-! Bindings (R165, R166). -/

def State.link (s : State) (lg : Nat) : Link := Tab.get {} lg s.pod.links
def State.setLink (s : State) (lg : Nat) (l : Link) : State := { s with pod := { s.pod with links := Tab.put {} lg l s.pod.links } }
def bindPart (v : Word) : Nat := bits v 57 6
/-- A binding word names a class, a partition, and a pair: die `d` of this module and die `e` of module `m`. -/
def joins (v : Word) (cls part d : Nat) (m : BitVec 8) (e : Nat) : Bool :=
  bits v 33 3 = cls && bindPart v = part && bits v 49 8 = m.toNat && bits v 39 3 = e && bits v 36 3 = d
/-- The binding of a class and partition from die `d` to (module, die). -/
def State.binding (s : State) (cls part d : Nat) (m : BitVec 8) (e : Nat) : Option Nat :=
  (s.pod.links.find? fun l => bit l.2.word 63 && joins l.2.word cls part d m e).map (·.1)
/-- Bindings of a class that belong to a partition: lane group and peer. -/
def State.treeLinks (s : State) (cls p : Nat) : List (Nat × Nat) :=
  (s.pod.links.filter fun l => bit l.2.word 63 && bits l.2.word 33 3 = cls && bindPart l.2.word = p).map fun l => (l.1, bits l.2.word 49 8)
def Domain.root (d : Domain) : Nat := bits d.reg 40 8
/-- The link toward the root: to the root itself when there is one, else the lowest lane group; none on the root. -/
def State.treeParent (s : State) (cls p : Nat) : Option Nat :=
  let root := (s.domain p).root
  if s.module.toNat = root then none
  else (((s.treeLinks cls p).find? fun l => l.2 = root).or (s.treeLinks cls p).head?).map (·.1)
/-- Links to the children, by lane group. -/
def State.treeChildren (s : State) (cls p : Nat) : List (Nat × Nat) :=
  (s.treeLinks cls p).filter fun l => some l.1 != s.treeParent cls p

/-- A flit waits at its lane group; `ciph` by R168. -/
def State.sendFlit (s : State) (lg : Nat) (b : FlitBody) (ciph : Bool) : State :=
  let l := Tab.get {} lg s.pod.links
  { s with pod := { s.pod with links := Tab.put {} lg { l with wait := l.wait ++ [(b, ciph)] } s.pod.links } }

/-- A message for a pair: on its binding, or, where that has been disabled, with what waits for the pair to be bound anew (R399). -/
def State.sendOn (s : State) (cls part d : Nat) (m : BitVec 8) (e : Nat) (b : FlitBody) (ciph : Bool) : State :=
  match s.binding cls part d m e with
  | some g => s.sendFlit g b ciph
  | none =>
    let add := fun (l : Link) => if joins l.word cls part d m e then { l with wait := l.wait ++ [(b, ciph)] } else l
    { s with pod := { s.pod with lost := s.pod.lost.map add } }

/-- A record as 768 bits (R171). -/
def GRec.bits768 (r : GRec) : BitVec 768 := BitVec.ofNat 768 (pack [(384, 384, r.data.toNat), (338, 1, b2n r.poi),
  (332, 6, r.dom), (240, 48, r.mask.toNat), (236, 4, r.aop.toNat), (231, 5, r.vc.toNat), (192, 8, r.omod.toNat),
  (160, 32, r.oseq.toNat), (128, 32, r.step.toNat), (0, 52, r.pa)])

/-- What a step-shared write is sent for: 0 a store or a SCAT row, 1 RST, 2 RATM, 3 an atomic. -/
structure SendFor where
  kind : Nat
  node : Node
  key : Key
  tok : Tok
  ans : Tok
  late : Bool
  seq : Nat

/-- Writes of one cycle are numbered in ascending die, wafer and cell (R172): no cell behind the node's has sent one in this cycle. -/
def State.mayRank (s : State) (part : Nat) (n : Node) : Bool :=
  decide (Tab.get 0 part s.pod.ranks ≤ cellKey n.ctx.die n.ctx.wafer n.cell + 1)

/-- A step-shared write is numbered and sent toward its buffer (R171, R172), over the binding of the given class when its page
lies on another module. -/
def State.sendRecord (s : State) (part : Nat) (step : BitVec 32) (die : Nat) (cls : Nat) (a : Acc) (data : Beat) (mask : BitVec 48)
    (fmt : BitVec 5) (poi : Bool) (aop : BitVec 4) (w : SendFor) : State :=
  let d := s.domain part
  let oseq := Tab.get 0 step.toNat d.oseq
  let s := s.setDomain part { d with oseq := Tab.put 0 step.toNat (oseq + 1) d.oseq }
  let rank := max (Tab.get 0 part s.pod.ranks) (cellKey w.node.ctx.die w.node.ctx.wafer w.node.cell + 1)
  let s := { s with pod := { s.pod with ranks := Tab.put 0 part rank s.pod.ranks } }
  let pa := a.base + (a.addr - a.base) / 48 * 48
  let pa := if a.hmod = s.module then s.home pa else pa
  let r : GRec := ⟨data, poi, part, mask, aop, fmt, s.module, oseq, step,
    pa, a.hdie.toNat⟩
  if a.hmod = s.module then
    { s with pod := { s.pod with sent := s.pod.sent ++ [⟨r, w.node, w.key, w.kind, w.tok, w.ans, w.late, w.seq⟩] } }
  else
    let rm : Remote := ⟨s.pod.nextRid, w.node, w.key, w.kind, w.tok, w.late, w.seq, a.conf⟩
    let s := s.sendOn cls part die a.hmod a.hdie.toNat (.record s.pod.nextRid r.bits768) a.conf
    { s with pod := { s.pod with remotes := s.pod.remotes ++ [rm], nextRid := s.pod.nextRid + 1 } }

/-- A write of some bytes as the data and mask of its sector's record. -/
def sectorData (a : Acc) (bytes : List Byte) : Beat × BitVec 48 :=
  let o := (a.addr - a.base) % 48
  (BitVec.ofNat 384 (leNat bytes * 256 ^ o), BitVec.ofNat 48 ((2 ^ bytes.length - 1) * 2 ^ o))

/-! Requests to another module (R166, R169, R394). -/

/-- Such a binding has been disabled by R399 or R400 (R394). -/
def State.lostBinding (s : State) (cls part d : Nat) (m : BitVec 8) (e : Nat) : Bool :=
  s.pod.lost.any fun l => joins l.word cls part d m e

/-! Outstanding responses (R155). -/

/-- A result waits for its return: MEMORY_RESPONSE brings it. -/
def State.respond (s : State) (n : Node) (k : Key) (outs : List Out) (late : Bool) : State :=
  { s with mem := { s.mem with resp := s.mem.resp ++ [⟨n, k, outs, late, s.mem.nextSeq⟩], nextSeq := s.mem.nextSeq + 1 } }

/-! Memory order (R33, R157). -/

/-- Wave a precedes wave b (R33). -/
def wavePrecedes (a b : BitVec 16) : Bool := let d := (b - a).toNat; 1 ≤ d && d ≤ 32767

/-- R33: every preceding operation of the block's memory sequence has issued or been cancelled. Instances of the block's
level count; one whose wave is not known yet counts as preceding when it is older. -/
def State.msqReady (s : State) (n : Node) (k : Key) (wave : BitVec 16) (m : Nat) : Bool :=
  match s.strandOf n.ctx, s.block n.ctx with
  | some st, some b =>
    if m = 127 then true else
    let issuedBelow := fun (x : Inst) (top : Nat) => (List.range top).all fun i => x.issued.contains i
    ((st.level b.lvl).tags.filter fun t => !t.dead && !t.gone).all fun t =>
      let j : Key := ⟨BitVec.ofNat 3 b.lvl, t.tag, t.gen⟩
      if j = k then (match st.inst n.ctx k with | some x => issuedBelow x m | none => m = 0)
      else
        let older := st.order j < st.order k
        match st.inst n.ctx j with
        | none => !older
        | some x =>
          match x.wave with
          | none => !older || issuedBelow x b.nmem
          | some w => if wavePrecedes w wave then issuedBelow x b.nmem else if w = wave then issuedBelow x m else true
  | _, _ => true

/-- The bytes of a held or released store of a block's memory sequence that precede (wave, m). -/
def precedes (w : BitVec 16) (i : Nat) (wave : BitVec 16) (m : Nat) : Bool := wavePrecedes w wave || (w = wave && i < m)

/-- The bytes an append writes, by offset in its beat: those of its valid lanes (R25), and at MOFF of a key beat OWNER := s and SEQN := p,
whatever the beat holds (R314, R413). -/
def State.slotBytes (s : State) (op : SeqOp) : List (Nat × Byte) :=
  let moff := bits s.pages.rb 16 10
  (List.range 48).filterMap fun i =>
    let x := 48 * op.beat + i
    if op.beat != bits s.pages.rb 0 4 && moff + 4 ≤ x && x < moff + 8 then some (i, BitVec.ofNat 8 (op.sq / 256 ^ (x - moff - 4)))
    else if op.beat != bits s.pages.rb 0 4 && moff + 12 ≤ x && x < moff + 16 then some (i, BitVec.ofNat 8 (op.pos / 256 ^ (x - moff - 12)))
    else if i < op.valid then some (i, op.data.extractLsb' (8 * i) 8) else none

/-- Where an access lies: in a bank, or in the frame that its page has now (R138). -/
def State.lies (s : State) (a : Acc) : Nat := if a.bank then a.addr else s.home a.addr

/-- A store's bytes as a load may be given them: in a bank or not, of a stored image (space 100) or not, the bytes, whether they are
poisoned; a poisoned datum poisons each sector it touches (R384). -/
def State.stored (s : State) : Eff → List (Bool × Bool × List (Nat × Byte) × Bool)
  | .store a bs poi raw =>
    if a.bank then [(true, raw, bs, poi)] else
    let base := s.home a.base
    let bs := bs.map fun b => (s.home b.1, b.2)
    if !poi then [(false, raw, bs, false)] else
    [(false, raw, ((bs.map fun b => base + (b.1 - base) / 48 * 48).foldl addNew []).flatMap fun x => (List.range 48).map fun i => (x + i, 0), true)]
  | .spap op =>
    match op.frame with
    | some x => [(false, false, if op.poi then (List.range 48).map fun i => (s.home x + i, 0)
        else (s.slotBytes op).map fun b => (s.home x + b.1, b.2), op.poi)]
    | none => []
  | _ => []

/-- Stores of the block that precede a load and have issued but not performed, oldest first (R33). Plain bytes and stored images are two
paths that share nothing (R137). -/
def State.forwarded (s : State) (n : Node) (wave : BitVec 16) (m : Nat) (bank : Bool) (raw : Bool := false) : List (List (Nat × Byte) × Bool) :=
  if m = 127 then [] else
  let keep := fun (e : Eff) => ((s.stored e).filter fun x => x.1 = bank && x.2.1 = raw).map (·.2.2)
  let pend := (s.mem.pend.filter fun p => p.node.ctx = n.ctx && p.msq != 127 && precedes p.wave p.msq wave m).flatMap fun p => keep p.eff
  let port := (s.pages.seqq.filter fun q => q.node.ctx = n.ctx &&
    (let i := bits (s.wordAt q.node) 18 7
     i != 127 && precedes (BitVec.ofNat 16 q.loc.wave) i wave m)).flatMap fun q => keep (.spap q.op)
  match s.strandOf n.ctx with
  | none => port ++ pend
  | some st =>
    let held := (st.insts.filter fun x => x.ctx = n.ctx).flatMap fun x =>
      (x.held.filter fun h => h.msq != 127 && precedes h.wave h.msq wave m).map fun h => (h.wave, h.msq, keep h.eff)
    let ranked := insSort (fun a b => !(precedes b.1 b.2.1 a.1 a.2.1)) held
    port ++ pend ++ ranked.flatMap fun h => h.2.2

/-- Overlay stores (later ones win) on bytes read from `a`; a poisoned store poisons what it overlaps. -/
def overlay (a : Nat) (b : Bytes) : List (List (Nat × Byte) × Bool) → Bytes
  | [] => b
  | (bs, poi) :: t =>
    let mine := bs.filter fun x => a ≤ x.1 && x.1 < a + b.bytes.length
    if mine.isEmpty then overlay a b t
    else if poi then overlay a ⟨zeros b.bytes.length, true⟩ t
    else overlay a ⟨(List.range b.bytes.length).map fun i =>
      (((mine.filter fun x => x.1 = a + i).getLast?).map (·.2)).getD (b.bytes.getD i 0), b.poi⟩ t

/-- Two nodes that issue through the memory port of one cell. -/
def samePort (m n : Node) : Bool := m.ctx.die = n.ctx.die && m.ctx.wafer = n.ctx.wafer && m.cell = n.cell
/-- The bytes that an effect writes, or the queue header it acts on (R157): in a bank or not, and the address. A step-shared write names
the bytes of its mask. -/
def Eff.touches : Eff → List (Bool × Nat)
  | .store a bs _ _ => bs.map fun b => (a.bank, b.1)
  | .enq a _ _ => (List.range 48).map fun i => (a.bank, a.addr + i)
  | .shared a _ m _ _ => masked a m
  | .rst a _ m _ _ _ => masked a m
  | _ => []
where
  masked (a : Acc) (m : BitVec 48) : List (Bool × Nat) :=
    ((List.range 48).filter fun i => bit m i).map fun i => (a.bank, a.base + (a.addr - a.base) / 48 * 48 + i)
/-- The effect acts on one of the bytes of an access. -/
def State.meetsAcc (s : State) (e : Eff) (a : Acc) (len : Nat) : Bool :=
  e.touches.any fun t => t.1 = a.bank &&
    (let x := if t.1 then t.2 else s.home t.2
     decide (s.lies a ≤ x ∧ x < s.lies a + len))
def Eff.isEnq : Eff → Bool
  | .enq .. => true
  | _ => false
/-- R157: an effect of the same cell on one of the bytes was released below a number and has not performed yet; ENQs count as `enqs` says. -/
def State.pendAhead (s : State) (n : Node) (a : Acc) (len : Nat) (top : Nat) (enqs : Bool) : Bool :=
  s.mem.pend.any fun p => samePort p.node n && decide (p.seq < top) && (enqs || !p.eff.isEnq) && s.meetsAcc p.eff a len
/-- A load waits for those that have been released; one of a step-shared page reads what the last glaze left (R163). -/
def State.portBusy (s : State) (n : Node) (a : Acc) (len : Nat) : Bool := !a.ss && s.pendAhead n a len s.mem.nextSeq true

/-! Sector metadata (R131). -/

/-- The 48 data bytes of a sector whose page ends at `top`: zero in the padding behind the end, and where an error has been found. -/
def State.sectorBytes (s : State) (sec top : Nat) : List Byte := (s.physBytes sec sec (min 48 (top - sec)) ++ zeros 48).take 48
/-- STATE of a sector: MIG, ZERO, CV, POI. -/
def State.sectorState (s : State) (sec top : Nat) : BitVec 4 :=
  BitVec.ofNat 4 (pack [(3, 1, b2n (s.mem.migs.any fun m => m.dirty.contains sec)), (2, 1, b2n (s.sectorBytes sec top = zeros 48)),
    (1, 1, b2n (s.mem.cvs.contains sec)), (0, 1, b2n (s.mem.poi.contains sec))])

/-- The 128 bits of metadata stored with a good sector: ECC and MAC are computed at its write, under the key its slot holds. -/
def State.sectorMeta (s : State) (sec top : Nat) : BitVec 128 :=
  let data := s.sectorBytes sec top
  let k := Tab.get 0 sec s.mem.kidx
  let st := s.sectorState sec top
  let mac := Config.mac (Tab.get 0 k.toNat s.host.keys) data sec k st
  let low := BitVec.ofNat 72 (pack [(16, 56, mac.toNat), (8, 8, k.toNat), (0, 4, st.toNat)])
  BitVec.ofNat 128 (pack [(72, 56, (Config.ecc data low).toNat), (0, 72, low.toNat)])

end Sys2Proof.Machine
end

