-- ==== Sys2Proof/Machine/Num.lean ====
section
/-! DEFINITION. Numbers: exact dyadic values, the element formats of R76 to R83, rounding and fitting (R90, R91, R415), and
the correctly rounded functions of R246. -/

namespace Sys2Proof.Machine

/-- Rounding modes (R84, R90). -/
inductive Rnd where
  | rne | rtz | rup | rdn
deriving DecidableEq, Repr

def Rnd.ofCode (c : Nat) : Rnd := if c = 0 then .rne else if c = 1 then .rtz else if c = 2 then .rup else .rdn

/-! Formats (R76, R77). -/

def fmtBits (f : Nat) : Nat :=
  [64, 4, 8, 8, 8, 8, 16, 16, 16, 32, 32, 32, 64, 64, 48, 48, 8, 1].getD f 64
def fmtLanes (f : Nat) : Nat := 384 / fmtBits f
def isFloat (f : Nat) : Bool := f = 4 || f = 5 || f = 7 || f = 8 || f = 11 || f = 14
/-- Integer formats of R235, raw among them. -/
def isInt (f : Nat) : Bool := f = 0 || f = 2 || f = 3 || f = 6 || f = 9 || f = 10 || f = 12 || f = 13 || f = 15
def isSigned (f : Nat) : Bool := f = 2 || f = 6 || f = 9 || f = 12 || f = 15
/-- Formats that a scale applies to (R85). -/
def isScaled (f : Nat) : Bool := 1 ≤ f && f ≤ 8
/-- Exponent width, bias, fraction width of a float format (R78). -/
def floatShape (f : Nat) : Nat × Nat × Nat :=
  if f = 4 then (4, 7, 3) else if f = 5 then (5, 15, 2) else if f = 8 then (5, 15, 10) else if f = 7 then (8, 127, 7)
  else if f = 11 then (8, 127, 23) else (8, 127, 39)
def canonicalNaN (f : Nat) : Nat :=
  if f = 4 then 0x7F else if f = 5 then 0x7E else if f = 8 then 0x7E00 else if f = 7 then 0x7FC0
  else if f = 11 then 0x7FC00000 else 0x7FC000000000

/-- Value of a float code (R78, R80). F48 codes with exponent 255 that are not infinities read as NaN. -/
def floatVal (f c : Nat) : Val :=
  let (eb, bias, fb) := floatShape f
  let neg := c / 2 ^ (eb + fb) % 2 = 1
  let e := c / 2 ^ fb % 2 ^ eb
  let m := c % 2 ^ fb
  if f = 4 && e = 15 && m = 7 then .nan
  else if f != 4 && e = 2 ^ eb - 1 then (if m = 0 then .inf neg else .nan)
  else if e = 0 then .fin neg m (1 - bias - fb)
  else .fin neg (2 ^ fb + m) ((e : Int) - bias - fb)

def intVal (v : Int) : Val := .fin (decide (v < 0)) v.natAbs 0

/-- Integer an integer code stands for (R76). -/
def intOf (f c : Nat) : Int := if isSigned f then signed (fmtBits f) c else (c % 2 ^ fmtBits f : Nat)

/-- Value of an element code other than I4X, before any scale (R76). -/
def elemVal (f c : Nat) : Val :=
  if isFloat f then floatVal f c
  else if f = 16 then (if c = 255 then .nan else .fin false 1 ((c : Int) - 127))
  else intVal (intOf f c)

/-- The code of lane i (R77). -/
def laneCode (f : Nat) (d : Beat) (i : Nat) : Nat := bits d (i * fmtBits f) (fmtBits f)
/-- A beat from lane codes. -/
def packLanes (f : Nat) (l : List Nat) : Beat :=
  BitVec.ofNat 384 ((l.foldr (fun c acc => c % 2 ^ fmtBits f + acc * 2 ^ fmtBits f) 0))

/-- int4() of R79. -/
def int4 (n : Nat) : Int := signed 4 n

/-- An I4X quad (R79): four values, and whether it is well formed. The high byte beside an escape in the low byte is a float, whose nibbles
are no escapes, be it 0x88 (log entry 180). -/
def quadVals (q : Nat) : List Val × Bool :=
  let n := fun i => q / 16 ^ i % 16
  let v := fun i => intVal (int4 (n i))
  let z := Val.fin false 0 0
  let hi := floatVal 4 (q / 256 % 256)
  let lo := floatVal 4 (q % 256)
  if n 0 = 8 || n 1 = 8 then
    (if n 0 = 8 then ([hi, v 1, z, z], !(n 1 = 8)) else ([v 0, hi, z, z], true))
  else if n 2 = 8 || n 3 = 8 then
    (if n 2 = 8 then ([z, z, lo, v 3], !(n 3 = 8)) else ([z, z, v 2, lo], true))
  else ([v 0, v 1, v 2, v 3], true)

def i4xVal (d : Beat) (i : Nat) : Val := (quadVals (bits d (i / 4 * 16) 16)).1.getD (i % 4) .nan

/-- Value of lane i of a beat, before any scale. -/
def laneVal (f : Nat) (d : Beat) (i : Nat) : Val := if f = 1 then i4xVal d i else elemVal f (laneCode f d i)

/-! Exact arithmetic on values (R90). -/

def Val.neg : Val → Val
  | .fin n m e => .fin (!n) m e
  | .inf n => .inf (!n)
  | .nan => .nan
def Val.abs : Val → Val
  | .fin _ m e => .fin false m e
  | .inf _ => .inf false
  | .nan => .nan
def Val.isNaN : Val → Bool
  | .nan => true
  | _ => false
def Val.isZero : Val → Bool
  | .fin _ m _ => m = 0
  | _ => false
def Val.isNeg : Val → Bool
  | .fin n _ _ => n
  | .inf n => n
  | .nan => false
/-- × 2^k. -/
def Val.shift (k : Int) : Val → Val
  | .fin n m e => .fin n m (e + k)
  | v => v
/-- Scale code applied (R85). -/
def Val.scaled (s : Nat) (v : Val) : Val := v.shift ((s : Int) - 127)
def Val.unscaled (s : Nat) (v : Val) : Val := v.shift (127 - (s : Int))

def mulVal : Val → Val → Val
  | .fin a m e, .fin b n f => .fin (a != b) (m * n) (e + f)
  | .inf a, .inf b => .inf (a != b)
  | .inf a, .fin b n _ => if n = 0 then .nan else .inf (a != b)
  | .fin a m _, .inf b => if m = 0 then .nan else .inf (a != b)
  | _, _ => .nan

/-- Signed integer of a finite value at exponent `e` ≤ its own. -/
def atExp (neg : Bool) (m : Nat) (x e : Int) : Int := (if neg then -1 else 1) * ((m * 2 ^ (x - e).toNat : Nat) : Int)

/-- Exact sum; a zero sum of opposite signs is +0, or −0 under RDN (R90). -/
def addVal (r : Rnd) : Val → Val → Val
  | .fin a m e, .fin b n f =>
    if m = 0 && n = 0 then .fin (if a = b then a else decide (r = .rdn)) 0 0
    else if m = 0 then .fin b n f
    else if n = 0 then .fin a m e
    else
      let x := min e f
      let s := atExp a m e x + atExp b n f x
      if s = 0 then .fin (decide (r = .rdn)) 0 0 else .fin (decide (s < 0)) s.natAbs x
  | .inf a, .inf b => if a = b then .inf a else .nan
  | .inf a, .fin _ _ _ => .inf a
  | .fin _ _ _, .inf b => .inf b
  | _, _ => .nan

/-- Exact sum of a list, infinities and NaN joined; a zero final sum takes its sign by R90: −0 if every addend is −0. -/
def sumVals (r : Rnd) (l : List Val) : Val :=
  if l.any (·.isNaN) then .nan
  else if l.any (· = .inf true) && l.any (· = .inf false) then .nan
  else if l.any (· = .inf true) then .inf true
  else if l.any (· = .inf false) then .inf false
  else
    let s := l.foldl (addVal r) (.fin true 0 0)
    match s with
    | .fin _ 0 _ => .fin (if l.all fun v => v.isNeg && v.isZero then true
        else if l.all fun v => !v.isNeg && v.isZero then false else decide (r = .rdn)) 0 0
    | v => v

/-- −1, 0, 1 as a < b, a = b, a > b on non-NaN values; +0 equals −0. -/
def cmpVal : Val → Val → Int
  | .inf a, .inf b => if a = b then 0 else if a then -1 else 1
  | .inf a, _ => if a then -1 else 1
  | _, .inf b => if b then 1 else -1
  | .fin a m e, .fin b n f =>
    let x := min e f
    let d := atExp a m e x - atExp b n f x
    if d < 0 then -1 else if d = 0 then 0 else 1
  | _, _ => 0

/-! Rounding to an integer multiple of 2^q, and fitting (R90, R91). -/

/-- man × 2^exp divided by 2^q, rounded to a natural by the mode for its sign. -/
def roundAt (r : Rnd) (neg : Bool) (m : Nat) (x q : Int) : Nat :=
  if q ≤ x then m * 2 ^ (x - q).toNat else
    let d := 2 ^ (q - x).toNat
    let lo := m / d
    let rem := m % d
    let up := match r with
      | .rne => decide (d < 2 * rem) || (decide (d = 2 * rem) && lo % 2 = 1)
      | .rtz => false
      | .rup => !neg && decide (rem ≠ 0)
      | .rdn => neg && decide (rem ≠ 0)
    if up then lo + 1 else lo

/-- A finite value rounded to an integer. -/
def roundInt (r : Rnd) : Val → Int
  | .fin n m e => (if n then -1 else 1) * ((roundAt r n m e 0 : Nat) : Int)
  | _ => 0

def intMin (f : Nat) : Int := if f = 15 then -(2 ^ 47 - 2) else if isSigned f then -(2 ^ (fmtBits f - 1) : Nat) else 0
def intMax (f : Nat) : Int := if isSigned f then ((2 ^ (fmtBits f - 1) : Nat) : Int) - 1 else ((2 ^ fmtBits f : Nat) : Int) - 1
def clampInt (f : Nat) (v : Int) : Int := if v < intMin f then intMin f else if intMax f < v then intMax f else v

/-- Fit an exact integer into an integer format: wraps, clamps when SAT = 1 or the format is S48 (R81, R91). -/
def fitInt (f : Nat) (sat : Bool) (v : Int) : Nat := wrap (fmtBits f) (if sat || f = 15 then clampInt f v else v)

/-- A value into an integer format (R91). -/
def encodeInt (f : Nat) (r : Rnd) (sat : Bool) : Val → Nat
  | .nan => 0
  | .inf n => if sat || f = 15 then wrap (fmtBits f) (if n then intMin f else intMax f) else 0
  | v => fitInt f sat (roundInt r v)

/-- Largest finite code, sign apart (R78). -/
def maxCode (f : Nat) : Nat := let (eb, _, fb) := floatShape f; if f = 4 then 0x7E else (2 ^ eb - 2) * 2 ^ fb + (2 ^ fb - 1)
def infCode (f : Nat) : Nat := let (eb, _, fb) := floatShape f; (2 ^ eb - 1) * 2 ^ fb

/-- Overflow of a finite result (R91). -/
def overflowCode (f : Nat) (r : Rnd) (sat neg : Bool) : Nat :=
  let toInf := match r with | .rne => true | .rtz => false | .rup => !neg | .rdn => neg
  if sat || !toInf then maxCode f else if f = 4 then canonicalNaN f else infCode f

/-- A value into a float format (R90, R91). -/
def encodeFloat (f : Nat) (r : Rnd) (sat : Bool) (v : Val) : Nat :=
  let (eb, bias, fb) := floatShape f
  let sign := fun (n : Bool) => if n then 2 ^ (eb + fb) else 0
  match v with
  | .nan => canonicalNaN f
  | .inf n =>
    if f = 4 then (if sat then sign n + maxCode f else canonicalNaN f)
    else if f = 5 && sat then sign n + maxCode f else sign n + infCode f
  | .fin n 0 _ => sign n
  | .fin n m x =>
    let e : Int := (Nat.log2 m : Int) + x
    let emin : Int := 1 - bias
    let q := max e emin - fb
    let k := roundAt r n m x q
    -- exponent field of the rounded significand
    let code := if k < 2 ^ fb then k else (q + fb + bias).toNat * 2 ^ fb + (k - 2 ^ fb)
    if maxCode f < code then
      (let c := overflowCode f r sat n; if c = canonicalNaN f && f = 4 then c else sign n + c)
    else sign n + code

/-- A value into the E8M0 array (R415). -/
def encodeE8 (r : Rnd) (sat : Bool) : Val → Nat
  | .nan => 255
  | .inf n => if n then 255 else if sat then 254 else 255
  | .fin n m x =>
    if n || m = 0 then 255 else
    let e : Int := (Nat.log2 m : Int) + x
    let exact := decide (m = 2 ^ Nat.log2 m)
    let c : Int := e + 127
    -- 1.5 × 2^e against m × 2^x: compare 2m with 3 × 2^(log2 m)
    let up := match r with
      | .rne => decide (3 * 2 ^ Nat.log2 m < 2 * m) || (decide (3 * 2 ^ Nat.log2 m = 2 * m) && c % 2 != 0)
      | .rup => !exact
      | _ => false
    let c2 : Int := if up then c + 1 else c
    if decide (e + 127 < 0) then 0
    else if 254 < c2 then (if sat then 254 else 255) else c2.toNat

/-- A value into any format but I4X. -/
def encodeElem (f : Nat) (r : Rnd) (sat : Bool) (v : Val) : Nat :=
  if isFloat f then encodeFloat f r sat v else if f = 16 then encodeE8 r sat v
  else if f = 17 then encodeInt 17 r sat v else encodeInt f r sat v

/-! I4X packing (R257). -/

def magCmp (a b : Val) : Int := cmpVal a.abs b.abs

/-- One quad from four values already divided by the scale. -/
def packQuad (r : Rnd) (x : List Val) : Nat :=
  let y := x.map fun v => match v with
    | .nan => (0 : Int)
    | .inf n => if n then -(2 ^ 64) else 2 ^ 64
    | v => roundInt r v
  let yv := fun m => y.getD m 0
  let xv := fun m => x.getD m .nan
  let nib := fun (v : Int) => wrap 4 v
  if y.all fun v => v.natAbs ≤ 7 then
    nib (yv 0) + 16 * nib (yv 1) + 256 * nib (yv 2) + 4096 * nib (yv 3)
  else
    let big := (List.range 4).filter fun m => 7 < (yv m).natAbs
    let e := big.foldl (fun best m => if magCmp (xv best) (xv m) < 0 then m else best) (big.headD 0)
    let f := encodeFloat 4 r true (xv e)
    let clip := fun (v : Int) => nib (if v < -7 then -7 else if 7 < v then 7 else v)
    if e ≤ 1 then
      let o := 1 - e
      f * 256 + 8 * 16 ^ e + clip (yv o) * 16 ^ o
    else
      let f' := if f % 16 = 8 || f / 16 = 8 then f - 1 else f
      let o := 5 - e
      f' + 8 * 16 ^ e + clip (yv o) * 16 ^ o

/-! Functions (R246): each answers a dyadic that rounds as the exact result does in every format and mode. -/

/-- A positive real between n × 2^x and (n + 1) × 2^x, neither end: n must have many more bits than any format. -/
def inexact (neg : Bool) (n : Nat) (x : Int) : Val := .fin neg (2 * n + 1) (x - 1)

/-- 1 ÷ a. -/
def recip : Val → Val
  | .fin n m e =>
    if m = 0 then .inf n else
    let k := Nat.log2 m + 128
    if 2 ^ k % m = 0 then .fin n (2 ^ k / m) (-e - k) else inexact n (2 ^ k / m) (-e - k)
  | .inf n => .fin n 0 0
  | .nan => .nan

/-- Integer square root, bit by bit from bit `b` down. -/
def isqrt (n : Nat) : Nat → Nat → Nat
  | 0, acc => if (acc + 1) * (acc + 1) ≤ n then acc + 1 else acc
  | b + 1, acc => isqrt n b (if (acc + 2 ^ (b + 1)) * (acc + 2 ^ (b + 1)) ≤ n then acc + 2 ^ (b + 1) else acc)

/-- 1 ÷ √a. -/
def rsqrt : Val → Val
  | .fin n m e =>
    if m = 0 then .inf n else if n then .nan else
    -- a = m × 2^e; make the exponent even, then take the root of 2^(2k) ÷ m
    let (m, e) := if e % 2 = 0 then (m, e) else (2 * m, e - 1)
    let k := Nat.log2 m + 128
    let v := 2 ^ (2 * k) / m
    let root := isqrt v k 0
    if root * root * m = 2 ^ (2 * k) then .fin false root (-k - e / 2) else inexact false root (-k - e / 2)
  | .inf n => if n then .nan else .fin false 0 0
  | .nan => .nan

/-- Working precision of the series below, in bits. -/
def prec : Nat := 768
/-- ln 2 × 2^768, floor. -/
def ln2 : Nat := 1076123538446541333968489415169508432842224177958106255750164252522041785147201710082978113221671954702078954257097489908144997250800824807918110090822149185963696392723534394238453863706452940795345033951805530581513038384565057355

/-- Terms of e^r × 2^768 for 0 ≤ r < 1, from term `n` on: `t` is the present term. -/
def expTerms (r : Nat) : Nat → Nat → Nat → Nat
  | 0, _, _ => 0
  | f + 1, n, t => t + expTerms r f (n + 1) (t * r / 2 ^ prec / n)

/-- ⌊e^r × 2^768⌋ up to the last bits, r × 2^768 given, 0 ≤ r < 1. -/
def expFrac (r : Nat) : Nat := expTerms r 160 1 (2 ^ prec)

/-- ⌊v × 2^768⌋ of a finite value. -/
def fixed : Val → Int
  | .fin n m e =>
    let x : Int := e + prec
    let a : Nat := if 0 ≤ x then m * 2 ^ x.toNat else m / 2 ^ (-x).toNat
    let a : Int := if n then (if 0 ≤ x || m % 2 ^ (-x).toNat = 0 then -(a : Int) else -(a : Int) - 1) else a
    a
  | _ => 0

/-- e^v for a finite nonzero v. -/
def expVal (v : Val) : Val :=
  match v with
  | .fin n m e =>
    if m = 0 then .fin false 1 0
    else if 12 < (Nat.log2 m : Int) + e then (if n then .fin false 1 (-8192) else .fin false 1 8192)
    else
      let x := fixed v
      let k := x / (ln2 : Int)
      let r := (x - k * ln2).toNat
      inexact false (expFrac r) (k - prec)
  | .inf n => if n then .fin false 0 0 else .inf false
  | .nan => .nan

/-- 2^v. -/
def exp2Val (v : Val) : Val :=
  match v with
  | .fin n m e =>
    if m = 0 then .fin false 1 0
    else if 12 < (Nat.log2 m : Int) + e then (if n then .fin false 1 (-8192) else .fin false 1 8192)
    else
      let x := fixed v
      let k := x / ((2 ^ prec : Nat) : Int)
      let fr := (x % ((2 ^ prec : Nat) : Int)).toNat
      if fr = 0 && (decide (0 ≤ e) || m % 2 ^ (-e).toNat = 0) then .fin false 1 k
      else inexact false (expFrac (fr * ln2 / 2 ^ prec)) (k - prec)
  | .inf n => if n then .fin false 0 0 else .inf false
  | .nan => .nan

/-- Terms of atanh z × 2^768: z^(2k+1) ÷ (2k+1). -/
def atanhTerms (z2 : Nat) : Nat → Nat → Nat → Nat
  | 0, _, _ => 0
  | f + 1, n, t => t / n + atanhTerms z2 f (n + 2) (t * z2 / 2 ^ prec)

/-- log2 of a value. -/
def log2Val (v : Val) : Val :=
  match v with
  | .fin n m e =>
    if m = 0 then .inf true else if n then .nan else
    let b := Nat.log2 m
    let k : Int := (b : Int) + e
    if m = 2 ^ b then intVal k else
    -- m ÷ 2^b = 1 + y; z = y ÷ (2 + y)
    let z := (m - 2 ^ b) * 2 ^ prec / (m + 2 ^ b)
    let ln := 2 * atanhTerms (z * z / 2 ^ prec) 260 1 z
    let fr := ln * 2 ^ prec / ln2
    let x : Int := k * ((2 ^ prec : Nat) : Int) + fr
    if 0 ≤ x then inexact false x.toNat (-prec) else inexact true (-x - 1).toNat (-prec)
  | .inf n => if n then .nan else .inf false
  | .nan => .nan

/-- tanh of a value. -/
def tanhVal (v : Val) : Val :=
  match v with
  | .fin n m e =>
    if m = 0 then v
    else if (Nat.log2 m : Int) + e < -100 then .fin n (m * 2 ^ 200 - 1) (e - 200)
    else if 8 < (Nat.log2 m : Int) + e then .fin n (2 ^ 200 - 1) (-200)
    else
      match expVal (.fin false m (e + 1)) with
      | .fin _ p q =>
        -- (p × 2^q − 1) ÷ (p × 2^q + 1)
        let p := if 0 ≤ q then p * 2 ^ q.toNat else p
        let one := if 0 ≤ q then 1 else 2 ^ (-q).toNat
        inexact n ((p - one) * 2 ^ prec / (p + one)) (-prec)
      | _ => .nan
  | .inf n => .fin n 1 0
  | .nan => .nan

/-- max of two values by R247: one NaN gives the other, −0 lies below +0. -/
def maxVal (a b : Val) : Val :=
  if a.isNaN then b else if b.isNaN then a
  else if cmpVal a b < 0 then b else if cmpVal a b = 0 && a.isNeg then b else a
def minVal (a b : Val) : Val :=
  if a.isNaN then b else if b.isNaN then a
  else if cmpVal a b < 0 then a else if cmpVal a b = 0 && a.isNeg then a else if cmpVal a b = 0 then b else b

end Sys2Proof.Machine
end

