-- ==== Sys2Proof/Machine/Operands.lean ====
section
/-! DEFINITION. Operand forms: VC entries (R84), valid lanes (R25), header latches and scales (R85, R88), IMM16 (R86), and
the format checks of a firing (R376, R377, R407). -/

namespace Sys2Proof.Machine

/-! VC entries (R84). -/

def fmtOf (e : BitVec 32) : Nat := bits e 27 5
def scaleOf (e : BitVec 32) : Nat := bits e 19 8
def rndOf (e : BitVec 32) : Rnd := Rnd.ofCode (bits e 17 2)
def satOf (e : BitVec 32) : Bool := bit e 16
def blenOf (e : BitVec 32) : Nat := if bits e 8 8 = 0 then 256 else bits e 8 8
def hdrmOf (e : BitVec 32) : Bool := bit e 7

/-- The entry that the present firing reads for a VC, in its own cell (R86). -/
def State.ent (s : State) (vc : BitVec 5) : BitVec 32 :=
  let n := s.cur.node
  s.vcEntry n.ctx.die n.ctx.wafer n.cell vc

/-! Valid lanes (R25). -/

def validLanes (f : Nat) (t : Tok) : Nat :=
  min (if f = 17 then 4 * (t.nlane.toNat + 1) else t.nlane.toNat + 1) (fmtLanes f)

/-- NLANE for a number of lanes of a format. -/
def nlaneFor (f n : Nat) : BitVec 7 := BitVec.ofNat 7 (if f = 17 then (n + 3) / 4 - 1 else n - 1)
def allLanes (f : Nat) : BitVec 7 := nlaneFor f (fmtLanes f)

/-- Invalid lanes read as zero. -/
def maskLanes (f n : Nat) (d : Beat) : Beat := d &&& BitVec.ofNat 384 (2 ^ (fmtBits f * n) - 1)

/-- The payload of a token with its invalid lanes zero, in the format of an entry: an I4X quad that NLANE cuts keeps only its valid
nibbles (log entry 147). -/
def dataIn (e : BitVec 32) (t : Tok) : Beat := let f := fmtOf e; maskLanes f (validLanes f t) t.data
def State.laneData (s : State) (t : Tok) : Beat := dataIn (s.ent t.vc) t

/-! Header words (R88). -/

def sclOf (w : BitVec 32) : Nat := bits w 24 8
def wordLen (w : BitVec 32) : Nat := if bits w 16 8 = 0 then 256 else bits w 16 8
def maxmOf (w : BitVec 32) : Nat := bits w 0 12
/-- The word a block takes once the latched ones are used up: BLEN and SCALE of the entry, MAXM 0xFFF. -/
def entryWord (e : BitVec 32) : BitVec 32 :=
  BitVec.ofNat 32 (pack [(24, 8, scaleOf e), (16, 8, bits e 8 8), (0, 12, 0xFFF)])

/-- The header word that covers element `j`, counted from the latch (R88). -/
def headerAt (e : BitVec 32) : List (BitVec 32) → Nat → BitVec 32
  | [], _ => entryWord e
  | w :: ws, j => if j < wordLen w then w else headerAt e ws (j - wordLen w)

def State.latchOf (s : State) (n : Node) (p : Nat) (vc : BitVec 5) : Option HLatch :=
  s.fab.hlatch.find? fun x => x.node = n && x.port = p && x.vc = vc

/-- Header words of the lanes of a token at a slot: those of its latch when the entry has HDRM = 1. -/
def State.wordsIn (s : State) (n : Node) (p : Nat) (t : Tok) (lanes : Nat) : List (BitVec 32) :=
  let e := s.ent t.vc
  match hdrmOf e, s.latchOf n p t.vc with
  | true, some x => (List.range lanes).map fun i => headerAt e x.words (x.used + i)
  | _, _ => List.replicate lanes (entryWord e)

/-- Header words of the lanes a result is written with (R85); with HDRM = 0 or nothing latched, the entry's own word. -/
def State.wordsOut (s : State) (n : Node) (vco : BitVec 5) (lanes : Nat) : List (BitVec 32) :=
  let e := s.ent vco
  match hdrmOf e, s.latchOf n 0 vco with
  | true, some x => (List.range lanes).map fun i => headerAt e x.words (x.wrote + i)
  | _, _ => List.replicate lanes (entryWord e)
/-- Their scale codes. -/
def State.scalesOut (s : State) (n : Node) (vco : BitVec 5) (lanes : Nat) : List Nat := (s.wordsOut n vco lanes).map sclOf

/-- Count the elements a result has written under a latched header (R85). -/
def State.wrote (s : State) (n : Node) (vco : BitVec 5) (lanes : Nat) : State :=
  if hdrmOf (s.ent vco) then
    { s with fab := { s.fab with hlatch := s.fab.hlatch.map fun x =>
        if x.node = n && x.port = 0 && x.vc = vco then { x with wrote := x.wrote + lanes } else x } }
  else s

/-- Scaled values of the lanes of a beat that header words cover (R85, R86). -/
def valsOf (f : Nat) (ws : List (BitVec 32)) (d : Beat) : List Val :=
  (List.range ws.length).map fun i =>
    let v := laneVal f d i
    if isScaled f then v.scaled (sclOf (ws.getD i 0)) else v
/-- Scaled values of a token's lanes, by an entry and the header words that cover them. -/
def valsIn (e : BitVec 32) (ws : List (BitVec 32)) (t : Tok) : List Val :=
  valsOf (fmtOf e) (ws.take (validLanes (fmtOf e) t)) (dataIn e t)
/-- Scaled values of the lanes of an operand. -/
def State.vals (s : State) (n : Node) (p : Nat) (t : Tok) : List Val :=
  valsIn (s.ent t.vc) (s.wordsIn n p t (validLanes (fmtOf (s.ent t.vc)) t)) t

/-- Codes of an operand's lanes, by its own format (R235). -/
def codesIn (e : BitVec 32) (t : Tok) : List Nat :=
  let f := fmtOf e
  let d := dataIn e t
  (List.range (fmtLanes f)).map fun i => laneCode f d i
def State.codes (s : State) (t : Tok) : List Nat := codesIn (s.ent t.vc) t

/-! IMM16 (R86). -/

def immInt (f : Nat) (imm : BitVec 16) : Int :=
  if f = 1 || f = 2 then signed 8 imm.toNat
  else if f = 3 then (imm.toNat % 256 : Nat)
  else if f = 6 || f = 9 || f = 12 || f = 15 then signed 16 imm.toNat
  else if f = 17 then (imm.toNat % 2 : Nat)
  else (imm.toNat : Nat)

def immVal (f : Nat) (imm : BitVec 16) : Val :=
  if f = 4 || f = 5 then floatVal f (imm.toNat % 256)
  else if f = 7 || f = 8 then floatVal f imm.toNat
  else if f = 11 || f = 14 then floatVal 7 imm.toNat
  else if f = 16 then elemVal 16 (imm.toNat % 256)
  else intVal (immInt f imm)

/-! Format checks (R374 order: 0x21, 0x22, then 0x17). -/

def fmtExn (code : Nat) (vc : BitVec 5) (e : BitVec 32) : Exn :=
  { cause := 0x21, code := BitVec.ofNat 16 code, detail := BitVec.ofNat 384 (vc.toNat * 2 ^ 32 + e.toNat) }

/-- Largest MAXM code a format allows (R377). -/
def maxmLimit (f : Nat) : Nat :=
  if f = 2 then 128 else if f = 3 then 255 else if f = 1 || f = 4 || f = 5 then 0x7F else if f = 6 then 2048
  else if f = 7 then 0xFEF else if f = 8 then 0xF7F else 0xFFF

/-- An entry whose FMT is reserved (CODE 0x0001). -/
def State.reservedFmt (s : State) (vc : BitVec 5) : Option Exn :=
  let e := s.ent vc
  if 18 ≤ fmtOf e then some (fmtExn 1 vc e) else none

/-- SCALE or a covering header word of 255 (CODE 0x0002, 0x0003) on a slot whose scale is applied. -/
def State.scaleFault (s : State) (n : Node) (p : Nat) (t : Tok) : Option Exn :=
  let e := s.ent t.vc
  let f := fmtOf e
  if !isScaled f then none
  else if !hdrmOf e then (if scaleOf e = 255 then some (fmtExn 2 t.vc e) else none)
  else ((s.wordsIn n p t (validLanes f t)).find? fun w => sclOf w = 255).map fun w => fmtExn 3 t.vc w

/-- The same for VCO (R85), when lanes are written. -/
def State.scaleOutFault (s : State) (n : Node) (vco : BitVec 5) (lanes : Nat) : Option Exn :=
  let e := s.ent vco
  if lanes = 0 || !isScaled (fmtOf e) then none
  else if !hdrmOf e then (if scaleOf e = 255 then some (fmtExn 2 vco e) else none)
  else ((s.wordsOut n vco lanes).find? fun w => sclOf w = 255).map (fmtExn 3 vco)

/-- The lowest malformed quad among `n` lanes of an I4X beat (cause 0x22, CODE 0x01). -/
def badQuad (f n : Nat) (d : Beat) : Option Exn :=
  if f != 1 then none else
    ((List.range 24).find? fun j => j * 4 < n && !(quadVals (bits d (16 * j) 16)).2).map fun j =>
      { cause := 0x22, code := BitVec.ofNat 16 (j * 256 + 1) }
def State.quadFault (s : State) (t : Tok) : Option Exn :=
  let f := fmtOf (s.ent t.vc)
  badQuad f (validLanes f t) t.data

/-- A header word with a MAXM above the format's largest (cause 0x22, CODE 0x02). -/
def badMaxm (f : Nat) (ws : List (BitVec 32)) : Option Exn :=
  if ws.any fun w => maxmOf w != 0xFFF && maxmLimit f < maxmOf w then some { cause := 0x22, code := 2 } else none
def State.maxmFault (s : State) (n : Node) (p : Nat) (t : Tok) : Option Exn :=
  let e := s.ent t.vc
  let f := fmtOf e
  if hdrmOf e then badMaxm f (s.wordsIn n p t (validLanes f t)) else none

/-- Illegal use with the VC and its entry in DETAIL (R407). -/
def State.illegalVc (s : State) (n : Nat) (vc : BitVec 5) : Exn := illegal (opcode s.cur.word) n 0 (s.vcDetail vc)

/-- What the formats of a word's VCI, VCO and operand tokens must be. -/
structure Limits where
  vci : Nat → Bool
  vco : Nat → Nat → Bool
  opnd : Nat → Nat → Bool
  /-- Operands must have VCI's lanes per beat (R86). -/
  lanes : Bool
  /-- Scales apply (R85). -/
  scales : Bool

/-- The checks of a format-A firing on the operand tokens at `ports` (R374, R376, R377, R407), with a word's own of causes 0x21 and 0x22. -/
def State.formatFault (s : State) (a : FmtA) (l : Limits) (ports : List Nat) (ts : List Tok)
    (out : Option Nat := none) (own : List (Option Exn) := []) : Option Exn :=
  let n := s.cur.node
  let fi := fmtOf (s.ent a.vci)
  let fo := fmtOf (s.ent a.vco)
  let ops := ports.zip ts
  let each := fun (g : Nat → Tok → Option Exn) => ops.findSome? fun x => g x.1 x.2
  let lanesOut := out.getD (validLanes fi (ts.headD {}))
  let scaled := if l.scales then
      s.scaleOutFault n a.vco lanesOut :: ops.flatMap fun x => [s.scaleFault n x.1 x.2, s.maxmFault n x.1 x.2] else []
  (firstExn (s.reservedFmt a.vci :: s.reservedFmt a.vco :: (ops.map fun x => s.reservedFmt x.2.vc) ++
    (ops.map fun x => s.quadFault x.2) ++ scaled ++ own)).or <|
  (if l.lanes then each fun _ t => if fmtLanes (fmtOf (s.ent t.vc)) = fmtLanes fi then none else some (s.illegalVc 1 t.vc)
   else none).or <|
  (if !l.vci fi then some (s.illegalVc 2 a.vci) else if !l.vco fi fo then some (s.illegalVc 2 a.vco)
   else each fun _ t => if l.opnd fi (fmtOf (s.ent t.vc)) then none else some (s.illegalVc 2 t.vc))

/-- Lanes per beat of VCI. -/
def State.beatLanes (s : State) (a : FmtA) : Nat := fmtLanes (fmtOf (s.ent a.vci))

/-- IMM16 as an element code of VCI (R86): its low bits where it is a code already, else its value written exactly. -/
def State.immCode (s : State) (a : FmtA) : Nat :=
  let f := fmtOf (s.ent a.vci)
  if f = 1 then a.imm.toNat % 16
  else if fmtBits f ≤ 16 then a.imm.toNat % 2 ^ fmtBits f
  else encodeElem f .rne false (immVal f a.imm)

/-- IMM16 in place of slot 1 (R199): a token of VCI with the element in its first `n` lanes. -/
def State.immTok (s : State) (a : FmtA) (n : Nat) : Tok :=
  let f := fmtOf (s.ent a.vci)
  { vc := a.vci, nlane := nlaneFor f n, data := packLanes f (List.replicate n (s.immCode a)) }

/-- The tokens of a word by slot, IMM16 standing in for slot 1 when IMS = 1 with `n` lanes. -/
def State.withImm (s : State) (a : FmtA) (n : Nat) (ts : List Tok) : List Tok :=
  if a.ims then ts.take 1 ++ s.immTok a n :: ts.drop 1 else ts

/-- Rounding mode of a format-A word (R90). -/
def State.rndOfA (s : State) (a : FmtA) : Rnd :=
  if a.rnd = 0 then rndOf (s.ent a.vco) else Rnd.ofCode (a.rnd.toNat - 1)

/-- Lanes encoded into VCO, each divided by its scale and rounded (R85, R90); I4X by quads (R257). -/
def State.encodeLanes (s : State) (a : FmtA) (vs : List Val) : Beat :=
  let e := s.ent a.vco
  let f := fmtOf e
  let r := s.rndOfA a
  let sc := s.scalesOut s.cur.node a.vco vs.length
  let vs := (List.range vs.length).map fun i =>
    let v := vs.getD i .nan
    if isScaled f then v.unscaled (sc.getD i 127) else v
  if f = 1 then
    let quad := fun j => packQuad r ((List.range 4).map fun m => vs.getD (4 * j + m) (.fin false 0 0))
    BitVec.ofNat 384 (((List.range ((vs.length + 3) / 4)).map fun j => quad j * 65536 ^ j).foldl (· + ·) 0)
  else packLanes f (vs.map fun v => encodeElem f r (satOf e) v)

end Sys2Proof.Machine
end

