-- ==== Sys2Proof/Machine/Flags.lean ====
section
/-! DEFINITION. Flags and predicates of results: crumb flags (R80 to R82), comparison results in PRED and integer formats
(R240, R247), and the condition codes of FN (R201). -/

namespace Sys2Proof.Machine

/-- A crumb code of F48 (R80) or S48 (R81): its side when it is one. -/
def crumbSide (f c : Nat) : Option Bool :=
  if f = 14 then (if c / 2 ^ 37 = 0x3FD then some (c / 2 ^ 36 % 2 = 1) else none)
  else if f = 15 then (if c = 0x800000000000 then some false else if c = 0x800000000001 then some true else none)
  else none

/-- CRB and CSIDE of a token from its valid lanes (R82). -/
def crumbFlags (f : Nat) (t : Tok) : Flags :=
  let sides := (List.range (validLanes f t)).filterMap fun i => crumbSide f (laneCode f t.data i)
  { t.fl with crb := !sides.isEmpty, cside := t.nlane = 0 && sides.head? = some true }

/-- Crumb codes (R80, R81). -/
def crumbCode (f : Nat) (above : Bool) (count : Nat) : Nat :=
  if f = 15 then 0x800000000000 + b2n above
  else (if above then 0x7FB000000000 else 0x7FA000000000) + min count (2 ^ 36 - 1)

/-- FN's condition (R201) from a comparison: −1, 0 or 1. -/
def cond (fn : Nat) (c : Int) : Bool :=
  if fn = 0 then c = 0 else if fn = 1 then c ≠ 0 else if fn = 2 then c < 0 else if fn = 3 then c ≤ 0
  else if fn = 4 then 0 < c else 0 ≤ c

/-- FCMP (R247). -/
def fcond (fn : Nat) (a b : Val) : Bool :=
  if a.isNaN || b.isNaN then fn = 6 || fn = 1 else if fn = 6 then false else cond fn (cmpVal a b)

/-- The payload and NLANE of a comparison's result (R240). -/
def condResult (fo : Nat) (rs : List Bool) (nlane : BitVec 7) : Beat × BitVec 7 :=
  if fo = 17 then (packLanes 17 (rs.map b2n), nlaneFor 17 rs.length)
  else (packLanes fo (rs.map b2n), nlane)

end Sys2Proof.Machine
end

