-- ==== Sys2Proof/Machine/Integer.lean ====
section
/-! DEFINITION. Integer and address words, opcodes 0x20 to 0x3B (R235 to R241), and IDX (R232): one shared firing over lanes,
one definition per word. -/

namespace Sys2Proof.Machine

/-- What a lane operation sees: VCI's and VCO's formats, the element width, the rounding mode and SAT of VCO. -/
structure LaneEnv where
  fi : Nat
  fo : Nat
  w : Nat
  rnd : Rnd
  sat : Bool

def State.laneEnv (s : State) (a : FmtA) : LaneEnv :=
  let fi := fmtOf (s.ent a.vci)
  ⟨fi, fmtOf (s.ent a.vco), fmtBits fi, s.rndOfA a, satOf (s.ent a.vco)⟩

/-- One lane of an operand: its code and its value by its own format. -/
abbrev Lane := Nat × Int

/-- Lanes of the operand tokens at `ports` in slot order, IMM16 standing in for slot 1 (R19, R86). -/
def State.intLanes (s : State) (a : FmtA) (ports : List Nat) (ts : List Tok) (i : Nat) : List Lane :=
  let e := s.laneEnv a
  let lane := fun (t : Tok) => let c := (s.codes t).getD i 0; (c, intOf (fmtOf (s.ent t.vc)) c)
  let imm : Lane := let v := immInt e.fi a.imm; (wrap e.w v, v)
  let ops := (ports.zip ts).map fun x => (x.1, lane x.2)
  if a.ims then
    (ops.filter fun x => x.1 = 0).map (·.2) ++ [imm] ++ (ops.filter fun x => x.1 != 0).map (·.2)
  else ops.map (·.2)

/-- VCO of an integer word: an integer format of VCI's width (R235). -/
def intVco (fi fo : Nat) : Bool := isInt fo && fmtBits fo = fmtBits fi
def arithLimits : Limits := ⟨isInt, intVco, fun _ fo => isInt fo, true, false⟩
/-- CMP may also write PRED. -/
def cmpLimits : Limits := ⟨isInt, fun fi fo => intVco fi fo || fo = 17, fun _ fo => isInt fo, true, false⟩
/-- The bitwise group: VCI not S48; AND, OR, XOR and NOT also take PRED; an operand may carry any format of that
width, which its lanes per beat say. -/
def bitLimits (pred : Bool) : Limits :=
  ⟨fun f => (isInt f && f != 15) || (pred && f = 17), fun fi fo => if fi = 17 then fo = 17 else intVco fi fo,
   fun _ _ => true, true, false⟩
def addrLimits : Limits :=
  ⟨fun f => f = 0 || f = 12 || f = 13, intVco, fun _ f => f = 0 || f = 12 || f = 13, true, false⟩

/-- The slots of a format-A word: slot 1 drops out when IMS = 1. -/
def slotsA (a : FmtA) (base : List Nat) : List Nat := if a.ims then base.filter (· != 1) else base

/-- The result of a lane-wise integer word: lanes of slot 0, codes given by `op`. -/
def State.intResult (s : State) (a : FmtA) (ports : List Nat) (op : LaneEnv → List Lane → Nat) (ts : List Tok) : Tok :=
  let e := s.laneEnv a
  let n := validLanes e.fi (ts.headD {})
  result s.cur.word ts (packLanes e.fo ((List.range n).map fun i => op e (s.intLanes a ports ts i)))

/-- Firing of a lane-wise integer word. -/
def State.intWord (s : State) (h : Hd) (a : FmtA) (base : List Nat) (l : Limits) (op : LaneEnv → List Lane → Nat) :
    Host.Outcome State Fault Refusal :=
  let ports := slotsA a base
  s.fire h (Slots.of ports ports) 127 (fun s ts => s.formatFault a l ports ts)
    (fun s ts => .fires s [outBoth (s.intResult a ports op ts)])

/-- Arithmetic: an exact integer, fitted to VCO (R91). -/
def fitted (f : List Int → Int) (e : LaneEnv) (l : List Lane) : Nat := fitInt e.fo e.sat (f (l.map (·.2)))
/-- Bitwise: w-bit codes to a w-bit code. -/
def coded (f : Nat → List Nat → Nat) (e : LaneEnv) (l : List Lane) : Nat := f e.w (l.map fun x => x.1 % 2 ^ e.w)

def arg (l : List Int) (i : Nat) : Int := l.getD i 0
def argN (l : List Nat) (i : Nat) : Nat := l.getD i 0

def execIadd (h : Hd) (a : FmtA) (s : State) := s.intWord h a [0, 1] arithLimits (fitted fun l => arg l 0 + arg l 1)
def execIsub (h : Hd) (a : FmtA) (s : State) := s.intWord h a [0, 1] arithLimits (fitted fun l => arg l 0 - arg l 1)
def execImul (h : Hd) (a : FmtA) (s : State) := s.intWord h a [0, 1] arithLimits (fitted fun l => arg l 0 * arg l 1)
/-- MULH: ⌊a × b ÷ 2^w⌋. -/
def mulHigh (e : LaneEnv) (l : List Lane) : Nat := fitted (fun l => (arg l 0 * arg l 1).fdiv ((2 ^ e.w : Nat) : Int)) e l
def execImulh (h : Hd) (a : FmtA) (s : State) := s.intWord h a [0, 1] arithLimits mulHigh
def execImad (h : Hd) (a : FmtA) (s : State) := s.intWord h a [0, 1, 2] arithLimits (fitted fun l => arg l 0 * arg l 1 + arg l 2)

/-- The quotient a ÷ b rounded to an integer (R237). -/
def roundQuot (r : Rnd) (a b : Int) : Int :=
  let neg := decide (a * b < 0)
  let m := a.natAbs
  let d := b.natAbs
  let lo := m / d
  let rem := m % d
  let up := match r with
    | .rne => decide (d < 2 * rem) || (decide (d = 2 * rem) && lo % 2 = 1)
    | .rtz => false
    | .rup => !neg && decide (rem ≠ 0)
    | .rdn => neg && decide (rem ≠ 0)
  (if neg then -1 else 1) * (((if up then lo + 1 else lo) : Nat) : Int)

/-- DIV (R237): a zero divisor gives VCO's bound of the dividend's sign. -/
def divLane (e : LaneEnv) (l : List Lane) : Nat :=
  let a := arg (l.map (·.2)) 0
  let b := arg (l.map (·.2)) 1
  fitInt e.fo e.sat (if b = 0 then (if 0 ≤ a then intMax e.fo else intMin e.fo) else roundQuot e.rnd a b)
def remLane (e : LaneEnv) (l : List Lane) : Nat :=
  let a := arg (l.map (·.2)) 0
  let b := arg (l.map (·.2)) 1
  fitInt e.fo e.sat (if b = 0 then a else a - b * roundQuot e.rnd a b)
def execIdiv (h : Hd) (a : FmtA) (s : State) := s.intWord h a [0, 1] arithLimits divLane
def execIrem (h : Hd) (a : FmtA) (s : State) := s.intWord h a [0, 1] arithLimits remLane
def execIneg (h : Hd) (a : FmtA) (s : State) := s.intWord h a [0] arithLimits (fitted fun l => -arg l 0)
def execIabs (h : Hd) (a : FmtA) (s : State) := s.intWord h a [0] arithLimits (fitted fun l => (arg l 0).natAbs)
def execImin (h : Hd) (a : FmtA) (s : State) := s.intWord h a [0, 1] arithLimits (fitted fun l => min (arg l 0) (arg l 1))
def execImax (h : Hd) (a : FmtA) (s : State) := s.intWord h a [0, 1] arithLimits (fitted fun l => max (arg l 0) (arg l 1))

/-- The lanes a bitwise word of PRED acts on are all 384 bits under NLANE (R238). -/
def execIand (h : Hd) (a : FmtA) (s : State) := s.intWord h a [0, 1] (bitLimits true) (coded fun _ l => argN l 0 &&& argN l 1)
def execIor (h : Hd) (a : FmtA) (s : State) := s.intWord h a [0, 1] (bitLimits true) (coded fun _ l => argN l 0 ||| argN l 1)
def execIxor (h : Hd) (a : FmtA) (s : State) := s.intWord h a [0, 1] (bitLimits true) (coded fun _ l => argN l 0 ^^^ argN l 1)
def execInot (h : Hd) (a : FmtA) (s : State) := s.intWord h a [0] (bitLimits true) (coded fun w l => 2 ^ w - 1 - argN l 0)

/-- Shifts and rotation of a w-bit code (R238). -/
def shlCode (w : Nat) (l : List Nat) : Nat := if w ≤ argN l 1 then 0 else argN l 0 * 2 ^ argN l 1 % 2 ^ w
def shrCode (w : Nat) (l : List Nat) : Nat := if w ≤ argN l 1 then 0 else argN l 0 / 2 ^ argN l 1
def sarCode (w : Nat) (l : List Nat) : Nat :=
  let neg := 2 ^ (w - 1) ≤ argN l 0
  if w ≤ argN l 1 then (if neg then 2 ^ w - 1 else 0)
  else wrap w (signed w (argN l 0) / ((2 ^ argN l 1 : Nat) : Int))
def rotCode (w : Nat) (l : List Nat) : Nat :=
  let m := argN l 1 % w
  (argN l 0 * 2 ^ m % 2 ^ w) ||| (argN l 0 / 2 ^ (w - m))
def execIshl (h : Hd) (a : FmtA) (s : State) := s.intWord h a [0, 1] (bitLimits false) (coded shlCode)
def execIshr (h : Hd) (a : FmtA) (s : State) := s.intWord h a [0, 1] (bitLimits false) (coded shrCode)
def execIsar (h : Hd) (a : FmtA) (s : State) := s.intWord h a [0, 1] (bitLimits false) (coded sarCode)
def execIrot (h : Hd) (a : FmtA) (s : State) := s.intWord h a [0, 1] (bitLimits false) (coded rotCode)

def clzCode (w : Nat) (l : List Nat) : Nat := if argN l 0 = 0 then w else w - 1 - Nat.log2 (argN l 0)
def popCount : Nat → Nat → Nat
  | 0, _ => 0
  | n + 1, v => v % 2 + popCount n (v / 2)
def execIclz (h : Hd) (a : FmtA) (s : State) := s.intWord h a [0] (bitLimits false) (coded clzCode)
def execIpopc (h : Hd) (a : FmtA) (s : State) := s.intWord h a [0] (bitLimits false) (coded fun w l => popCount w (argN l 0))

/-- Position and effective length of a bit-field control lane (R239). -/
def fieldOf (w c : Nat) : Nat × Nat :=
  let p := Nat.log2 w
  let pos := c % 2 ^ p
  (pos, min (c / 2 ^ p % 2 ^ (p + 1)) (w - pos))
/-- BFX: the field, sign-extended when VCO is signed (R239). -/
def bfxLane (e : LaneEnv) (l : List Lane) : Nat :=
  let (pos, len) := fieldOf e.w ((l.getD 1 (0, 0)).1 % 2 ^ e.w)
  let f := (l.getD 0 (0, 0)).1 % 2 ^ e.w / 2 ^ pos % 2 ^ len
  if len = 0 then 0 else if isSigned e.fo then wrap e.w (signed len f) else f
/-- BFI: the field of a replaced by the low bits of c (R239). -/
def bfiLane (e : LaneEnv) (l : List Lane) : Nat :=
  let (pos, len) := fieldOf e.w ((l.getD 1 (0, 0)).1 % 2 ^ e.w)
  let a := (l.getD 0 (0, 0)).1 % 2 ^ e.w
  let c := (l.getD 2 (0, 0)).1
  a - a / 2 ^ pos % 2 ^ len * 2 ^ pos + c % 2 ^ len * 2 ^ pos
def execIbfx (h : Hd) (a : FmtA) (s : State) := s.intWord h a [0, 1] (bitLimits false) bfxLane
def execIbfi (h : Hd) (a : FmtA) (s : State) := s.intWord h a [0, 1, 2] (bitLimits false) bfiLane

/-- CMP (R240): exact values, each with its own signedness; NLANE of a PRED result counts groups of four. -/
def State.cmpResult (s : State) (h : Hd) (a : FmtA) (ports : List Nat) (ts : List Tok) : Tok :=
  let e := s.laneEnv a
  let t := ts.headD {}
  let n := validLanes e.fi t
  let rs := (List.range n).map fun i =>
    let l := (s.intLanes a ports ts i).map (·.2)
    cond h.fn.toNat (if arg l 0 < arg l 1 then -1 else if arg l 0 = arg l 1 then 0 else 1)
  let (d, nl) := condResult e.fo rs t.nlane
  { result s.cur.word ts d with nlane := nl }
def execIcmp (h : Hd) (a : FmtA) (s : State) : Host.Outcome State Fault Refusal :=
  let ports := slotsA a [0, 1]
  s.fire h (Slots.of ports ports) 127 (fun s ts => s.formatFault a cmpLimits ports ts)
    (fun s ts => .fires s [outBoth (s.cmpResult h a ports ts)])

/-- ADDI: IMM16 read as S16 whatever VCI is (R236). -/
def execAddi (h : Hd) (a : FmtA) (s : State) : Host.Outcome State Fault Refusal :=
  s.intWord h a [0, 1] arithLimits (fitted fun l => arg l 0 + signed 16 a.imm.toNat)

/-- LEA: (a + b × c) mod 2^64, SAT without effect (R236). -/
def execLea (h : Hd) (a : FmtA) (s : State) := s.intWord h a [0, 1, 2] addrLimits
  (coded fun w l => (argN l 0 + argN l 1 * argN l 2) % 2 ^ w)

/-- AFF (R241). -/
def affCode (w : Nat) (l : List Nat) : Nat :=
  let i := argN l 0
  let n := argN l 1
  let rs := signed 32 (argN l 2 / 2 ^ 32)
  let cs := signed 32 (argN l 2)
  wrap w (if n = 0 then (i : Int) * cs else ((i / n : Nat) : Int) * rs + ((i % n : Nat) : Int) * cs)
def execAff (h : Hd) (a : FmtA) (s : State) := s.intWord h a [0, 1, 2] addrLimits (coded affCode)

def execClamp (h : Hd) (a : FmtA) (s : State) := s.intWord h a [0, 1, 2] arithLimits
  (fitted fun l => min (max (arg l 0) (arg l 1)) (arg l 2))

/-- WAVE of the first iteration of the firing's level on its current entry; 0 at level 0 (R232, R43). -/
def State.wave0 (s : State) (k : Key) : BitVec 16 :=
  match s.here with
  | none => 0
  | some st => if k.lvl = 0 then 0 else (st.level k.lvl.toNat).w0.getD 0

/-- IDX (R232): a + w × c, w counted from the level's first wave. -/
def execIdx (h : Hd) (a : FmtA) (s : State) : Host.Outcome State Fault Refusal :=
  let ports := slotsA a [0, 1]
  s.fire h (Slots.of ports ports) 127 (fun s ts => s.formatFault a arithLimits ports ts)
    (fun s ts =>
      if !s.waveKnown s.cur.node.ctx s.cur.key.lvl then .waits else
      let w := ((ts.headD {}).wave - s.wave0 s.cur.key).toNat
      .fires s [outBoth (s.intResult a ports (fitted fun l => arg l 0 + (w : Int) * arg l 1) ts)])

end Sys2Proof.Machine
end

