-- ==== Sys2Proof/Machine/Dataflow.lean ====
section
/-! DEFINITION. Movement, steering, tags, waves, exits, carry registers, constants and stream controls: opcodes 0x01 to 0x19
but IDX (R212 to R234). -/

namespace Sys2Proof.Machine

/-- Slots that only carry (R210). -/
def Slots.carry (rd : List Nat) : Slots := ⟨rd, rd, [], []⟩

/-- MOV with IMS = 0: payload and flags copied, VC := VCO (R213). -/
def execMovCopy (h : Hd) (a : FmtA) (s : State) : Host.Outcome State Fault Refusal :=
  s.fire h (Slots.carry [0]) 127 noPre (fun s ts => .fires s [outBoth { ts.headD {} with vc := a.vco }])

/-- MOV with IMS = 1: IMM16 in every lane of VCO (R213); a reserved format is illegal use, condition 2 (R408). -/
def movImmFault (a : FmtA) (s : State) (ts : List Tok) : Option Exn :=
  if 18 ≤ fmtOf (s.ent a.vci) then some (s.illegalVc 2 a.vci)
  else if 18 ≤ fmtOf (s.ent a.vco) then some (s.illegalVc 2 a.vco)
  else s.scaleOutFault s.cur.node a.vco (validLanes (fmtOf (s.ent a.vco)) (ts.headD {}))

def State.movImmResult (s : State) (a : FmtA) (ts : List Tok) : Tok :=
  result s.cur.word ts (s.encodeLanes a (List.replicate (fmtLanes (fmtOf (s.ent a.vco))) (immVal (fmtOf (s.ent a.vci)) a.imm)))

def execMovImmediate (h : Hd) (a : FmtA) (s : State) : Host.Outcome State Fault Refusal :=
  s.fire h Slots.trigger 127 (movImmFault a)
    (fun s ts => .fires (s.wrote s.cur.node a.vco (validLanes (fmtOf (s.ent a.vco)) (ts.headD {})))
      [outBoth (s.movImmResult a ts)])

def word64 (v : Nat) : Beat := BitVec.ofNat 384 (v % 2 ^ 64)
def lane0 (t : Tok) : Nat := bits t.data 0 64
def lane64 (t : Tok) (i : Nat) : Nat := bits t.data (64 * i) 64

def execMovi (h : Hd) (p : BitVec 30) (s : State) : Host.Outcome State Fault Refusal :=
  s.fire h Slots.trigger 127 noPre
    (fun s ts => .fires s [outBoth (result s.cur.word ts (word64 (wrap 64 (signed 30 p.toNat))))])

def movhiValue (a : Nat) (p : BitVec 30) : Nat := wrap 64 ((a % 2 ^ 30 : Nat) + signed 30 p.toNat * 2 ^ 30)
def execMovhi (h : Hd) (p : BitVec 30) (s : State) : Host.Outcome State Fault Refusal :=
  s.fire h (Slots.of [0] [0]) 127 noPre
    (fun s ts => .fires s [outBoth (result s.cur.word ts (word64 (movhiValue (lane0 (ts.headD {})) p)))])

def execFan (h : Hd) (_p : BitVec 30) (s : State) : Host.Outcome State Fault Refusal :=
  s.fire h (Slots.carry [0]) 127 noPre (fun s ts => .fires s [outBoth (ts.headD {})])

def execDrop (h : Hd) (_p : BitVec 30) (s : State) : Host.Outcome State Fault Refusal :=
  s.fire h (Slots.carry [0]) 127 noPre (fun s _ => .fires s [])

def tk (ts : List Tok) (i : Nat) : Tok := ts.getD i {}

/-- STEER (R216). -/
def execSteer (h : Hd) (_p : BitVec 30) (s : State) : Host.Outcome State Fault Refusal :=
  s.fire h ⟨[0, 1], [0, 1], [1], []⟩ 127 noPre
    (fun s ts => .fires s [if pred (tk ts 1) then outA (tk ts 0) else outB (tk ts 0)])

/-- SEL (R217). -/
def execSel (h : Hd) (_p : BitVec 30) (s : State) : Host.Outcome State Fault Refusal :=
  s.fire h ⟨[0, 1, 2], [0, 1, 2], [0], []⟩ 127 noPre
    (fun s ts => .fires s [outBoth (if pred (tk ts 0) then tk ts 1 else tk ts 2)])

/-- MERGE (R218). -/
def execMerge (h : Hd) (_p : BitVec 30) (s : State) : Host.Outcome State Fault Refusal :=
  s.fire h ⟨[s.earlier s.cur.node s.cur.key], [0, 1], [], []⟩ 127 noPre (fun s ts => .fires s [outBoth (ts.headD {})])

/-! MRGO (R43, R219). -/

/-- The window of a node for a level: its next-expected wave starts at that of the level's first iteration (R43). -/
def State.window (s : State) (n : Node) (l : BitVec 3) (w : BitVec 16) : Mrgo :=
  (s.fab.mrgo.find? fun m => m.node = n && m.lvl = l).getD
    ⟨n, l, (match s.strandOf n.ctx with | some st => if l = 0 then 0 else ((st.level l.toNat).w0.getD w) | none => w), []⟩
def State.setWindow (s : State) (m : Mrgo) : State :=
  { s with fab := { s.fab with mrgo := m :: s.fab.mrgo.filter fun x => !(x.node = m.node && x.lvl = m.lvl) } }

/-- Release the token of the next-expected wave when the window holds it and the latch is empty. -/
def State.release (s : State) (h : Hd) (m : Mrgo) : State :=
  match m.win.find? fun t => t.tok.wave = m.next with
  | some t =>
    if s.latchEmpty m.node then
      (s.setWindow { m with next := m.next + 1, win := m.win.filter fun x => x.tok.wave != m.next }).emit m.node t.key h
        [outBoth t.tok]
    else s.setWindow m
  | none => s.setWindow m

/-- A token of the instance waits at slot 0 or 1; in a FIFO cell, it is the head. -/
def State.mrgoHas (s : State) (n : Node) (k : Key) : Bool :=
  if s.fifo n then s.headKey n == some k else s.fab.ostore.any fun t => t.node = n && t.key = k && t.port ≤ 1

def execMrgo (h : Hd) (_p : BitVec 30) (s : State) : Host.Outcome State Fault Refusal :=
  let n := s.cur.node
  let k := s.cur.key
  if !s.mrgoHas n k then
    (if s.mayFire n k then .next (s.release h (s.window n k.lvl 0)) else .next s)
  else
    s.fire h ⟨[s.earlier n k], [0, 1], [], []⟩ 127 noPre (fun s ts =>
      let t := ts.headD {}
      if !s.waveKnown n.ctx k.lvl then .waits else
      let m := s.window n k.lvl t.wave
      let d := (t.wave - m.next).toNat
      if 32768 ≤ d || m.win.any fun x => x.tok.wave = t.wave then .faults (illegal 0x08 8)
      else if 16 ≤ d || 16 ≤ m.win.length then .waits
      else .fires (s.release h { m with win := m.win ++ [⟨n, s.earlier n k, k, t⟩] }) [])

/-- PLOG (R220): NIL reads as false and the result never carries it. -/
def execPlog (h : Hd) (_p : BitVec 30) (s : State) : Host.Outcome State Fault Refusal :=
  s.fire h ⟨[0, 1], [0, 1], [0, 1], []⟩ 127 noPre (fun s ts =>
    let r := h.fn.getLsbD (2 * b2n (pred (tk ts 0)) + b2n (pred (tk ts 1)))
    let t := tk ts 0
    .fires s [outBoth { t with fl := { joinFlags ts with nil := false }, data := BitVec.ofNat 384 (b2n r) }])

/-! Tags (R221 to R227). -/

/-- The tag token's payload (R221). -/
def tagToken (frm : Bool) (l : Nat) (gen : BitVec 2) (tag : BitVec 8) : Beat :=
  BitVec.ofNat 384 (pack [(13, 1, b2n frm), (10, 3, l), (8, 2, gen.toNat), (0, 8, tag.toNat)])
def tagOf (t : Tok) : Key := ⟨t.data.extractLsb' 10 3, t.data.extractLsb' 0 8, t.data.extractLsb' 8 2⟩

/-- TAGA (R222): the request joins its level's; TAG_GRANT grants it. With l the firing level and SPEC = 0 it waits for its
instance's continue predicate, and is cancelled when that is false. -/
def execTaga (h : Hd) (p : BitVec 30) (s : State) : Host.Outcome State Fault Refusal :=
  let l := bits p 0 3
  s.fire h Slots.trigger 127 noPre (fun s ts =>
    let n := s.cur.node
    let k := s.cur.key
    match s.here, s.block n.ctx with
    | some st, some b =>
      let i := k.lvl.toNat
      if !(l = i || l = i + 1) then .faults (illegal 0x0B 8)
      else
        let cont := (st.tagRec k).bind (·.cont)
        if l = i && !b.spec && cont = none then .waits
        else if l = i && !b.spec && cont = some false then .fires s []
        else
          let parent := if l = i + 1 then some k else (st.tagRec k).bind (·.parent)
          .fires (s.setStrand { st with reqs := st.reqs ++ [⟨n, k, ts.headD {}, BitVec.ofNat 3 l, parent, 0, false⟩] }) []
    | _, _ => .waits)

/-- TAGF (R226): a free request in the commit buffer; l is the firing level. -/
def execTagf (h : Hd) (p : BitVec 30) (s : State) : Host.Outcome State Fault Refusal :=
  s.fire h Slots.trigger 127 noPre (fun s ts =>
    if bits p 0 3 != s.cur.key.lvl.toNat then .faults (illegal 0x0C 9)
    else .fires (s.hold 127 (ts.headD {}).wave (.tagf (bits p 0 3))) [])

/-- A tag that a TAGA of the instance itself was granted (R223). -/
def Strand.grantedTo (st : Strand) (c : Ctx) (k j : Key) : Bool := (st.inst c k).any fun x => x.granted.contains j

/-- A token emitted into another instance enters it (R227, R28). -/
def State.emitInto (s : State) (n : Node) (k : Key) (h : Hd) (o : Out) : State :=
  let s := (targetsOf h o).foldl (fun s d => s.enter ⟨⟨n.ctx, d.1⟩, d.2, k, o.tok⟩) s
  s.emit n k h [o]

/-- TAGX down (R223): slot 0's token under the tag that slot 1 names. -/
def execTagxDown (h : Hd) (_p : BitVec 30) (s : State) : Host.Outcome State Fault Refusal :=
  s.fire h ⟨[0, 1], [0, 1], [1], [1]⟩ 127 noPre (fun s ts =>
    let k := s.cur.key
    let j := tagOf (tk ts 1)
    match s.here with
    | none => .waits
    | some st =>
      if j.lvl.toNat != k.lvl.toNat + 1 || !st.grantedTo s.cur.node.ctx k j then .faults (illegal 0x0D 8)
      else .fires (s.emitInto s.cur.node j h (outBoth (tk ts 0))) [])

/-- TAGX up (R223): leaving, held until the instance commits (R30). -/
def execTagxUp (h : Hd) (_p : BitVec 30) (s : State) : Host.Outcome State Fault Refusal :=
  s.fire h (Slots.carry [0]) 127 noPre (fun s ts =>
    let k := s.cur.key
    match s.here with
    | none => .waits
    | some st =>
      match (if k.lvl = 0 then none else (st.tagRec k).bind (·.parent)) with
      | some p =>
        let o := outBoth (tk ts 0)
        .fires (s.hold 127 (tk ts 0).wave (.leave ((targetsOf h o).map fun d => ⟨⟨s.cur.node.ctx, d.1⟩, d.2, p, { o.tok with age := 0 }⟩))) []
      | none => .faults (illegal 0x0D 9))

/-- The continue predicate of an instance becomes known (R34, R224): the first one fixes it. -/
def State.setCont (s : State) (c : Ctx) (k : Key) (v : Bool) : State :=
  match s.strandOf c with
  | none => s
  | some st => s.setStrand (st.onTag k fun t => { t with cont := t.cont.or (some v) })

/-- WADV (R224). -/
def execWadv (h : Hd) (_p : BitVec 30) (s : State) : Host.Outcome State Fault Refusal :=
  let n := s.cur.node
  let k := s.cur.key
  match s.slotTok n k 2 with
  | none => .next s
  | some c =>
    let v := pred c
    let known := ((s.strandOf n.ctx).bind (·.tagRec k)).bind (·.cont)
    let differs := known = some (!v)
    if v then
      s.fire h ⟨[0, 1, 2], [0, 1, 2], [2], [1]⟩ 127 noPre (fun s ts =>
        let j := tagOf (tk ts 1)
        if differs then .faults (illegal 0x0E 9)
        else if j.lvl != k.lvl then .faults (illegal 0x0E 8)
        else
          .fires ((s.setCont n.ctx k true).emitInto n j h (outBoth { tk ts 0 with wave := (tk ts 0).wave + 1 })) [])
    else
      s.fire h ⟨[0, 2], [0, 1, 2], [2], []⟩ 127 noPre (fun s _ =>
        if differs then .faults (illegal 0x0E 9)
        else
          let s := s.setCont n.ctx k false
          .fires { s with fab := { s.fab with ostore := s.fab.ostore.filter fun t => !(t.node = n && t.key = k && t.port = 1) } } [])

def State.setKept (s : State) (x : Kept) : State :=
  { s with fab := { s.fab with kept := x :: s.fab.kept.filter fun y => !(y.node = x.node && y.key = x.key) } }
def State.unkeep (s : State) (n : Node) (k : Key) : State :=
  { s with fab := { s.fab with kept := s.fab.kept.filter fun y => !(y.node = n && y.key = k) } }

/-- GATE (R225): the first token of an instance passes, a second is illegal use. -/
def execGate (h : Hd) (_p : BitVec 30) (s : State) : Host.Outcome State Fault Refusal :=
  let n := s.cur.node
  let k := s.cur.key
  s.fire h ⟨[s.earlier n k], [0, 1], [], []⟩ 127 noPre (fun s ts =>
    if (s.keptOf n k).isSome then .faults (illegal 0x0F 8)
    else .fires (s.setKept ⟨n, k, [], [], []⟩) [outBoth (ts.headD {})])

/-! Exits, carry registers, constants (R228 to R231). -/

def execExit (h : Hd) (c : FmtC) (s : State) : Host.Outcome State Fault Refusal :=
  s.fire h (Slots.carry [0]) 127 noPre (fun s ts => .fires (s.hold 127 (ts.headD {}).wave (.exit c.exn none)) [])

/-- BRB (R228): the pointer is the address of its block's header plus BOFF × 16. -/
def brbPointer (own : Word) (boff : BitVec 27) : Word := own + (boff.signExtend 64 <<< 4)
def execBrb (h : Hd) (c : FmtC) (s : State) : Host.Outcome State Fault Refusal :=
  s.fire h (Slots.carry [0]) 127 noPre (fun s ts =>
    match s.block s.cur.node.ctx with
    | none => .waits
    | some b => .fires (s.hold 127 (ts.headD {}).wave (.exit c.exn (some (brbPointer b.own c.boff)))) [])

/-- RDK (R229): the latest committed value; when the block also writes the register, only for the oldest instance (R30). -/
def execRdk (h : Hd) (p : BitVec 30) (s : State) : Host.Outcome State Fault Refusal :=
  let r := bits p 0 5
  s.fire h Slots.trigger 127 noPre (fun s ts =>
    match s.here, s.block s.cur.node.ctx with
    | some st, some b =>
      if b.krd r && b.kwr r && !(st.oldest s.cur.key) then .waits
      else .fires s [outBoth (result s.cur.word ts (word64 (Tab.get 0 r st.k).toNat))]
    | _, _ => .waits)

/-- WRK (R229): held until commit; a NIL operand cancels the write. -/
def execWrk (h : Hd) (p : BitVec 30) (s : State) : Host.Outcome State Fault Refusal :=
  s.fire h ⟨[0], [0], [], [0]⟩ 127 noPre (fun s ts =>
    .fires (s.hold 127 (tk ts 0).wave (.carry (bits p 0 5) (BitVec.ofNat 64 (lane0 (tk ts 0))))) [])

/-- CNST (R230). -/
def State.const (s : State) (die wafer i : Nat) : Word := Tab.get 0 (waferKey die wafer * 64 + i) s.pl.consts
def execCnst (h : Hd) (p : BitVec 30) (s : State) : Host.Outcome State Fault Refusal :=
  s.fire h Slots.trigger 127 noPre (fun s ts =>
    let c := s.cur.node.ctx
    .fires s [outBoth (result s.cur.word ts (word64 (s.const c.die c.wafer (bits p 0 6)).toNat))])

/-- ORD (R231). -/
def execOrd (h : Hd) (p : BitVec 30) (s : State) : Host.Outcome State Fault Refusal :=
  s.fire h (Slots.carry (if bit p 0 then [0, 1, 2] else [0, 1])) 127 noPre
    (fun s ts => .fires s [outBoth { tk ts 0 with fl := {}, data := 0 }])

/-! Stream controls (R233, R234). -/

def streamKey (die wafer e : Nat) : Nat := waferKey die wafer * 16 + e
def State.stream (s : State) (die wafer e : Nat) : Stream := Tab.get {} (streamKey die wafer e) s.eng.streams
def State.setStream (s : State) (die wafer e : Nat) (x : Stream) : State :=
  { s with eng := { s.eng with streams := Tab.put {} (streamKey die wafer e) x s.eng.streams } }
/-- Beat counts of a descriptor, and the coordinates of the i-th beat of a walk (R149). -/
def descN (d : BitVec 256) (j : Nat) : Nat := bits d (160 + 16 * j) 16 + 1
def descBeats (d : BitVec 256) : Nat := descN d 0 * descN d 1 * descN d 2
def coords (d : BitVec 256) (i : Nat) : Nat × Nat × Nat :=
  (i % descN d 0, i / descN d 0 % descN d 1, i / (descN d 0 * descN d 1) % descN d 2)
/-- The stream state payload (R233): the coordinates of the next beat; once the final beat has left there is none, and they are 0. SENT
shows the low 32 bits of the count (log entry 176). -/
def strmPayload (x : Stream) : Beat :=
  let c := coords x.desc x.sent
  BitVec.ofNat 384 (pack [(96, 1, b2n x.fin), (64, 32, x.sent), (32, 16, c.2.2), (16, 16, c.2.1), (0, 16, c.1)])
def execStrm (h : Hd) (x : FmtX) (s : State) : Host.Outcome State Fault Refusal :=
  s.fire h Slots.trigger 127 noPre (fun s ts =>
    let c := s.cur.node.ctx
    .fires s [outBoth (result s.cur.word ts (strmPayload (s.stream c.die c.wafer (bits x.id 0 4))))])

def Stream.writes (x : Stream) : Bool := bit x.desc 236
/-- No beat is requested any more; the walk is over once the last one requested has left (R149, R234), and DONE shows it, though the
descriptor's final beat never leaves (log entry 173). -/
def endWalk (x : Stream) : Stream :=
  if !x.armed || x.fin then x else if x.returns.isEmpty then { x with stop := true, fin := true, armed := false } else { x with stop := true }

def execEosd (h : Hd) (x : FmtX) (s : State) : Host.Outcome State Fault Refusal :=
  s.fire h Slots.trigger 127 noPre (fun s ts => .fires (s.hold 127 (ts.headD {}).wave (.eosd (bits x.id 0 4))) [])

end Sys2Proof.Machine
end

