-- ==== Sys2Proof/Machine/FloatOps.lean ====
section
/-! DEFINITION. Float words, opcodes 0x40 to 0x53 (R245 to R250): one shared firing over exact lane values, one definition
per word. -/

namespace Sys2Proof.Machine

/-- VCI a float format, VCO a float format of VCI's lanes per beat; operands have VCI's lanes per beat (R245, R86). -/
def floatLimits : Limits :=
  ⟨isFloat, fun fi fo => isFloat fo && fmtLanes fo = fmtLanes fi, fun _ f => f ≤ 17, true, true⟩
/-- FCMP: VCI any arithmetic format; VCO an integer format of VCI's width or PRED (R240, R245). -/
def fcmpLimits : Limits := ⟨fun f => isFloat f || isInt f, fun fi fo => intVco fi fo || fo = 17, fun _ f => f ≤ 17, true, true⟩
/-- FCVT, ITOF, FTOI (R249). -/
def cvtLimits (ci co : Nat → Bool) : Limits := ⟨ci, fun _ fo => co fo, fun _ f => f ≤ 17, true, true⟩

/-- Lane values of the operands in slot order, IMM16 standing in for slot 1; an invalid lane reads as zero (R25). -/
def State.floatLanes (s : State) (a : FmtA) (ports : List Nat) (ts : List Tok) (lanes : Nat) : List (List Val) :=
  let n := s.cur.node
  let ops := (ports.zip ts).map fun x => (x.1, s.vals n x.1 x.2)
  let imm := List.replicate lanes (immVal (fmtOf (s.ent a.vci)) a.imm)
  let cols := if a.ims then (ops.filter fun x => x.1 = 0).map (·.2) ++ [imm] ++ (ops.filter fun x => x.1 != 0).map (·.2)
    else ops.map (·.2)
  (List.range lanes).map fun i => cols.map fun c => c.getD i (.fin false 0 0)

def v0 (l : List Val) : Val := l.getD 0 .nan
def v1 (l : List Val) : Val := l.getD 1 .nan
def v2 (l : List Val) : Val := l.getD 2 .nan

/-- The result of a lane-wise float word: exact lane results rounded once into VCO (R245). -/
def State.floatResult (s : State) (a : FmtA) (ports : List Nat) (op : Rnd → List Val → Val) (ts : List Tok) : Tok :=
  let n := validLanes (fmtOf (s.ent a.vci)) (ts.headD {})
  let vs := (s.floatLanes a ports ts n).map (op (s.rndOfA a))
  result s.cur.word ts (s.encodeLanes a vs)

def State.floatWord (s : State) (h : Hd) (a : FmtA) (base : List Nat) (op : Rnd → List Val → Val) :
    Host.Outcome State Fault Refusal :=
  let ports := slotsA a base
  s.fire h (Slots.of ports ports) 127 (fun s ts => s.formatFault a floatLimits ports ts)
    (fun s ts => .fires (s.wrote s.cur.node a.vco (validLanes (fmtOf (s.ent a.vci)) (ts.headD {})))
      [outBoth (s.floatResult a ports op ts)])

def execFadd (h : Hd) (a : FmtA) (s : State) := s.floatWord h a [0, 1] fun r l => sumVals r [v0 l, v1 l]
def execFsub (h : Hd) (a : FmtA) (s : State) := s.floatWord h a [0, 1] fun r l => sumVals r [v0 l, (v1 l).neg]
def execFmul (h : Hd) (a : FmtA) (s : State) := s.floatWord h a [0, 1] fun _ l => mulVal (v0 l) (v1 l)
/-- FMA: fused, rounded once. -/
def execFma (h : Hd) (a : FmtA) (s : State) := s.floatWord h a [0, 1, 2] fun r l => sumVals r [mulVal (v0 l) (v1 l), v2 l]
def execFmin (h : Hd) (a : FmtA) (s : State) := s.floatWord h a [0, 1] fun _ l => minVal (v0 l) (v1 l)
def execFmax (h : Hd) (a : FmtA) (s : State) := s.floatWord h a [0, 1] fun _ l => maxVal (v0 l) (v1 l)
def execFabs (h : Hd) (a : FmtA) (s : State) := s.floatWord h a [0] fun _ l => (v0 l).abs
def execFneg (h : Hd) (a : FmtA) (s : State) := s.floatWord h a [0] fun _ l => (v0 l).neg
def execFrcp (h : Hd) (a : FmtA) (s : State) := s.floatWord h a [0] fun _ l => recip (v0 l)
def execFrsq (h : Hd) (a : FmtA) (s : State) := s.floatWord h a [0] fun _ l => rsqrt (v0 l)
def execFex2 (h : Hd) (a : FmtA) (s : State) := s.floatWord h a [0] fun _ l => exp2Val (v0 l)
def execFlg2 (h : Hd) (a : FmtA) (s : State) := s.floatWord h a [0] fun _ l => log2Val (v0 l)
def execFtnh (h : Hd) (a : FmtA) (s : State) := s.floatWord h a [0] fun _ l => tanhVal (v0 l)
/-- FEXS: e^(a − b), the difference exact. -/
def execFexs (h : Hd) (a : FmtA) (s : State) := s.floatWord h a [0, 1] fun r l => expVal (sumVals r [v0 l, (v1 l).neg])
/-- FRND: an integral value of its own sign (R246). -/
def integral (r : Rnd) : Val → Val
  | .fin n m e => .fin n (roundAt r n m e 0) 0
  | v => v
def execFrnd (h : Hd) (a : FmtA) (s : State) := s.floatWord h a [0] fun r l => integral r (v0 l)

/-- FSCL's exponent from lane i of slot 1: truncated, clamped to ±512, a NaN giving 0 (R250). -/
def sclExp : Val → Int
  | .nan => 0
  | .inf n => if n then -512 else 512
  | v => let x := roundInt .rtz v; if x < -512 then -512 else if 512 < x then 512 else x
def execFscl (h : Hd) (a : FmtA) (s : State) :=
  s.floatWord h a [0, 1] fun _ l => (v0 l).shift (if a.ims then signed 16 a.imm.toNat else sclExp (v1 l))

/-- FCMP (R247). -/
def State.fcmpResult (s : State) (h : Hd) (a : FmtA) (ports : List Nat) (ts : List Tok) : Tok :=
  let t := ts.headD {}
  let n := validLanes (fmtOf (s.ent a.vci)) t
  let rs := (s.floatLanes a ports ts n).map fun l => fcond h.fn.toNat (v0 l) (v1 l)
  let (d, nl) := condResult (fmtOf (s.ent a.vco)) rs t.nlane
  { result s.cur.word ts d with nlane := nl }
def execFcmp (h : Hd) (a : FmtA) (s : State) : Host.Outcome State Fault Refusal :=
  let ports := slotsA a [0, 1]
  s.fire h (Slots.of ports ports) 127 (fun s ts => s.formatFault a fcmpLimits ports ts)
    (fun s ts => .fires s [outBoth (s.fcmpResult h a ports ts)])

/-- FCVT, ITOF, FTOI (R249): more valid lanes than VCO holds are illegal use, condition 8. -/
def State.cvtResult (s : State) (a : FmtA) (ts : List Tok) : Tok :=
  let n := validLanes (fmtOf (s.ent a.vci)) (ts.headD {})
  let vs := (s.floatLanes a [0] ts n).map v0
  { result s.cur.word ts (s.encodeLanes a vs) with nlane := nlaneFor (fmtOf (s.ent a.vco)) n }
def State.cvtWord (s : State) (h : Hd) (a : FmtA) (l : Limits) : Host.Outcome State Fault Refusal :=
  s.fire h (Slots.of [0] [0]) 127
    (fun s ts => (s.formatFault a l [0] ts).or
      (if fmtLanes (fmtOf (s.ent a.vco)) < validLanes (fmtOf (s.ent a.vci)) (ts.headD {}) then some (s.illegalVc 8 a.vco) else none))
    (fun s ts => .fires (s.wrote s.cur.node a.vco (validLanes (fmtOf (s.ent a.vci)) (ts.headD {}))) [outBoth (s.cvtResult a ts)])
def execFcvt (h : Hd) (a : FmtA) (s : State) := s.cvtWord h a (cvtLimits isFloat isFloat)
def execItof (h : Hd) (a : FmtA) (s : State) := s.cvtWord h a (cvtLimits isInt isFloat)
def execFtoi (h : Hd) (a : FmtA) (s : State) := s.cvtWord h a (cvtLimits isFloat isInt)

end Sys2Proof.Machine
end

