-- ==== Sys2Proof/Machine/Vector.lean ====
section
/-! DEFINITION. Lane movers and reductions, opcodes 0x60 to 0x6B (R251 to R253). -/

namespace Sys2Proof.Machine

/-! Lane movers (R251): element codes move, nothing is computed. -/

/-- Operand checks of a lane mover on its data slots: formats (condition 2), lanes per beat (condition 1). -/
def State.moverFault (s : State) (a : FmtA) (noI4x : Bool) (data : List Tok) : Option Exn :=
  let fi := fmtOf (s.ent a.vci)
  let fo := fmtOf (s.ent a.vco)
  if 18 ≤ fi || (noI4x && fi = 1) then some (s.illegalVc 2 a.vci)
  else if 18 ≤ fo || fmtBits fo != fmtBits fi then some (s.illegalVc 2 a.vco)
  else data.findSome? fun t =>
    let f := fmtOf (s.ent t.vc)
    if 18 ≤ f then some (s.illegalVc 2 t.vc) else if fmtLanes f != fmtLanes fi then some (s.illegalVc 1 t.vc) else none

/-- Codes of a data operand's valid lanes. -/
def State.moved (s : State) (t : Tok) : List Nat := (s.codes t).take (validLanes (fmtOf (s.ent t.vc)) t)

/-- A mover's result: codes in VCO, poison of the carrying slots kept (R384), crumb flags by R82. -/
def State.moverResult (s : State) (a : FmtA) (ts data : List Tok) (codes : List Nat) (nl : BitVec 7) : Tok :=
  let fo := fmtOf (s.ent a.vco)
  let t := result s.cur.word ts (packLanes fo codes)
  let t := { t with nlane := nl, fl := { t.fl with poi := data.any (·.fl.poi), retry := data.any (·.fl.retry) } }
  { t with fl := crumbFlags fo t }

/-- The lane number of VBCST and VLANE (R251). -/
def State.laneNumber (s : State) (a : FmtA) (ts : List Tok) : Nat :=
  if a.ims then bits a.imm 0 7 else (s.codes (tk ts 1)).getD 0 0

/-- VBCST and VLANE: slot 1 is a control operand, outside the lane rule of R86; its format must be one. -/
def State.laneFault (s : State) (a : FmtA) (ts : List Tok) : Option Exn :=
  (s.moverFault a false (ts.take 1)).or
    ((ts.drop 1).findSome? fun t => if 18 ≤ fmtOf (s.ent t.vc) then some (s.illegalVc 2 t.vc) else none)

def vbcstCodes (s : State) (a : FmtA) (ts : List Tok) : List Nat :=
  List.replicate (s.beatLanes a) ((s.moved (tk ts 0)).getD (s.laneNumber a ts) 0)
def execVbcst (h : Hd) (a : FmtA) (s : State) : Host.Outcome State Fault Refusal :=
  let ports := slotsA a [0, 1]
  s.fire h ⟨ports, ports, ports.filter (· != 0), ports⟩ 127 (fun s ts => s.laneFault a ts)
    (fun s ts => .fires s [outBoth (s.moverResult a ts [tk ts 0] (vbcstCodes s a ts) (nlaneFor (fmtOf (s.ent a.vco)) (s.beatLanes a)))])

/-- The bits of slot 1 as a control operand, IMM16 in every lane when IMS = 1 (R251, R199). -/
def State.control (s : State) (a : FmtA) (ts : List Tok) : Beat := (tk (s.withImm a (s.beatLanes a) ts) 1).data

/-- The slots of a mover whose slot 1 is a control operand. -/
def controlSlots (a : FmtA) : Slots := ⟨slotsA a [0, 1], slotsA a [0, 1], slotsA a [1], slotsA a [0, 1]⟩

def vshufCodes (s : State) (a : FmtA) (ts : List Tok) : List Nat :=
  (List.range (s.beatLanes a)).map fun i => (s.moved (tk ts 0)).getD (bits (s.control a ts) (8 * i) 8) 0
def execVshuf (h : Hd) (a : FmtA) (s : State) : Host.Outcome State Fault Refusal :=
  s.fire h (controlSlots a) 127 (fun s ts => s.moverFault a true (ts.take 1))
    (fun s ts => .fires s [outBoth (s.moverResult a ts [tk ts 0] (vshufCodes s a ts) (nlaneFor (fmtOf (s.ent a.vco)) (s.beatLanes a)))])

/-- Valid lanes whose mask bit is 1. -/
def vcmprCodes (s : State) (a : FmtA) (ts : List Tok) : List Nat :=
  let l := s.moved (tk ts 0)
  (List.range l.length).filterMap fun i => if bit (s.control a ts) i then some (l.getD i 0) else none
def execVcmpr (h : Hd) (a : FmtA) (s : State) : Host.Outcome State Fault Refusal :=
  s.fire h (controlSlots a) 127 (fun s ts => s.moverFault a true (ts.take 1))
    (fun s ts =>
      let l := vcmprCodes s a ts
      .fires s [outBoth (if l.isEmpty then nilResult s.cur.word ts
        else s.moverResult a ts [tk ts 0] l (nlaneFor (fmtOf (s.ent a.vco)) l.length))])

/-- Lane i of the expansion: a[j] where mask bit i is the j-th 1 bit. -/
def vexpdCodes (s : State) (a : FmtA) (ts : List Tok) : List Nat :=
  let l := s.moved (tk ts 0)
  let m := s.control a ts
  (List.range (s.beatLanes a)).map fun i =>
    if bit m i then l.getD ((List.range i).countP fun j => bit m j) 0 else 0
def execVexpd (h : Hd) (a : FmtA) (s : State) : Host.Outcome State Fault Refusal :=
  s.fire h (controlSlots a) 127 (fun s ts => s.moverFault a true (ts.take 1))
    (fun s ts => .fires s [outBoth (s.moverResult a ts [tk ts 0] (vexpdCodes s a ts) (nlaneFor (fmtOf (s.ent a.vco)) (s.beatLanes a)))])

/-- VSELM: b where the mask bit is 1, else c, over the lanes of slot 1. An immediate b stands in every lane; how many are valid is
then free, since slot 1 has no NLANE (log entry 21). -/
def vselmCodes (s : State) (a : FmtA) (ts : List Tok) (n : Nat) : List Nat :=
  let b := if a.ims then List.replicate n (s.immCode a) else s.moved (tk ts 1)
  let c := s.moved (tk ts (if a.ims then 1 else 2))
  (List.range n).map fun i => if bit (tk ts 0).data i then b.getD i 0 else c.getD i 0
def vselmLanes (s : State) (a : FmtA) (ts : List Tok) : BitVec 7 :=
  if a.ims then BitVec.ofNat 7 (s.pick ((allLanes (fmtOf (s.ent a.vci))).toNat + 1)) else (tk ts 1).nlane
def execVselm (h : Hd) (a : FmtA) (s : State) : Host.Outcome State Fault Refusal :=
  let ports := slotsA a [0, 1, 2]
  s.fire h ⟨ports, ports, [0], ports⟩ 127 (fun s ts => s.moverFault a false (ts.drop 1))
    (fun s ts =>
      let nl := vselmLanes s a ts
      let n := validLanes (fmtOf (s.ent a.vci)) { nlane := nl }
      .fires (if a.ims then s.spent else s) [outBoth (s.moverResult a ts (ts.drop 1) (vselmCodes s a ts n) nl)])

def execVlane (h : Hd) (a : FmtA) (s : State) : Host.Outcome State Fault Refusal :=
  let ports := slotsA a [0, 1]
  s.fire h ⟨ports, ports, ports.filter (· != 0), ports⟩ 127 (fun s ts => s.laneFault a ts)
    (fun s ts => .fires s [outBoth (match (s.moved (tk ts 0))[s.laneNumber a ts]? with
      | some c => s.moverResult a ts [tk ts 0] [c] 0
      | none => nilResult s.cur.word ts)])

/-- VIOTA: lane i := i + start, rounded and fitted into VCO (R90, R91), its scale applied (R85); VCI plays no part. -/
def viotaVals (s : State) (a : FmtA) : List Val :=
  (List.range (fmtLanes (fmtOf (s.ent a.vco)))).map fun (i : Nat) => intVal ((i : Int) + (if a.ims then signed 16 a.imm.toNat else 0))
def viotaFault (a : FmtA) (s : State) : Option Exn :=
  let fo := fmtOf (s.ent a.vco)
  if !(isInt fo || isFloat fo) then some (s.illegalVc 2 a.vco)
  else s.scaleOutFault s.cur.node a.vco (fmtLanes fo)
def execViota (h : Hd) (a : FmtA) (s : State) : Host.Outcome State Fault Refusal :=
  s.fire h Slots.trigger 127 (fun s _ => viotaFault a s)
    (fun s ts =>
      let l := viotaVals s a
      .fires (s.wrote s.cur.node a.vco l.length)
        [outBoth { result s.cur.word ts (s.encodeLanes a l) with nlane := allLanes (fmtOf (s.ent a.vco)) }])

/-- VPACK (R252). How many lanes of an immediate are joined is free, among those that there is room for (log entry 21). -/
def State.packed (s : State) (a : FmtA) (ts : List Tok) : List Tok :=
  let room := s.beatLanes a - (s.moved (tk ts 0)).length
  s.withImm a (if room = 0 then 1 else s.pick room + 1) ts
def vpackFault (a : FmtA) (s : State) (ts : List Tok) : Option Exn :=
  let n0 := (s.moved (tk ts 0)).length
  let n1 := (s.moved (tk (s.packed a ts) 1)).length
  (s.moverFault a false ts).or
    (if s.beatLanes a < n0 + n1 || (fmtOf (s.ent a.vci) = 1 && n0 % 4 != 0) then some (s.illegalVc 8 a.vci) else none)
def execVpack (h : Hd) (a : FmtA) (s : State) : Host.Outcome State Fault Refusal :=
  let ports := slotsA a [0, 1]
  s.fire h ⟨ports, ports, [], ports⟩ 127 (fun s ts => if ts.any (·.fl.nil) then s.moverFault a false ts else vpackFault a s ts)
    (fun s ts =>
      let l := s.moved (tk ts 0) ++ s.moved (tk (s.packed a ts) 1)
      .fires (if a.ims then s.spent else s) [outBoth (s.moverResult a ts ts l (nlaneFor (fmtOf (s.ent a.vco)) l.length))])

/-- VUNPK (R252): the low half to TA, the rest, or NIL, to TB. -/
def execVunpk (h : Hd) (a : FmtA) (s : State) : Host.Outcome State Fault Refusal :=
  s.fire h ⟨[0], [0], [], [0]⟩ 127 (fun s ts => s.moverFault a false ts)
    (fun s ts =>
      let fo := fmtOf (s.ent a.vco)
      let l := s.moved (tk ts 0)
      let lo := l.take (s.beatLanes a / 2)
      let hi := l.drop (s.beatLanes a / 2)
      .fires s [outA (s.moverResult a ts ts lo (nlaneFor fo lo.length)),
        outB (if hi.isEmpty then nilResult s.cur.word ts else s.moverResult a ts ts hi (nlaneFor fo hi.length))])

/-! Reductions (R253, R95). -/

def redLimits : Limits :=
  ⟨fun f => (isInt f && f != 0) || isFloat f, fun fi fo => if isFloat fi then isFloat fo else isInt fo, fun _ f => f ≤ 17, true, true⟩

/-- A value rounded and fitted to VCO under the scale of result lane `i`, read back (R90, R91). -/
def State.roundOut (s : State) (a : FmtA) (sc : List Nat) (i : Nat) (v : Val) : Val :=
  let e := s.ent a.vco
  let f := fmtOf e
  let k := sc.getD i 127
  let v := if isScaled f then v.unscaled k else v
  let r := elemVal f (encodeElem f (s.rndOfA a) (satOf e) v)
  if isScaled f then r.scaled k else r

/-- One level of the tree of R95. -/
def pairUp (add : Val → Val → Val) : List Val → List Val
  | a :: b :: t => add a b :: pairUp add t
  | l => l

/-- The balanced tree; `fuel` levels. -/
def tree (add : Val → Val → Val) : Nat → List Val → Val
  | 0, l => l.headD .nan
  | f + 1, l => match l with | [v] => v | l => tree add f (pairUp add l)

/-- FN's operation: sum, min, max (R201). -/
def redOp (fn : Nat) (r : Rnd) (a b : Val) : Val :=
  if fn = 1 then minVal a b else if fn = 2 then maxVal a b else sumVals r [a, b]

/-- VRED (R253). -/
def State.vred (s : State) (h : Hd) (a : FmtA) (ts : List Tok) : Val :=
  let sc := s.scalesOut s.cur.node a.vco 1
  let l := s.vals s.cur.node 0 (tk ts 0)
  let op := redOp h.fn.toNat (s.rndOfA a)
  if h.fn = 0 then s.roundOut a sc 0 (tree (fun x y => s.roundOut a sc 0 (op x y)) 10 l)
  else match l with | v :: t => t.foldl op v | [] => .nan

def lane1 (s : State) (a : FmtA) (ts : List Tok) (v : Val) : Tok :=
  { result s.cur.word ts (s.encodeLanes a [v]) with nlane := 0 }

def execVred (h : Hd) (a : FmtA) (s : State) : Host.Outcome State Fault Refusal :=
  s.fire h (Slots.of [0] [0]) 127 (fun s ts => s.formatFault a redLimits [0] ts (some 1))
    (fun s ts => .fires (s.wrote s.cur.node a.vco 1) [outBoth (lane1 s a ts (s.vred h a ts))])

/-- VDOT (R253): products rounded, then the tree; a lane counts when valid in both. -/
def State.vdot (s : State) (a : FmtA) (ts : List Tok) : Val :=
  let sc := s.scalesOut s.cur.node a.vco 1
  let r := s.rndOfA a
  let x := s.vals s.cur.node 0 (tk ts 0)
  let l := x.zip (if a.ims then x.map fun _ => immVal (fmtOf (s.ent a.vci)) a.imm else s.vals s.cur.node 1 (tk ts 1))
  tree (fun x y => s.roundOut a sc 0 (sumVals r [x, y])) 10 (l.map fun p => s.roundOut a sc 0 (mulVal p.1 p.2))
def execVdot (h : Hd) (a : FmtA) (s : State) : Host.Outcome State Fault Refusal :=
  let ports := slotsA a [0, 1]
  s.fire h (Slots.of ports ports) 127 (fun s ts => s.formatFault a redLimits ports ts (some 1))
    (fun s ts => .fires (s.wrote s.cur.node a.vco 1) [outBoth (lane1 s a ts (s.vdot a ts))])

/-- VSCAN (R253): lane i := op(lane i − 1, a[i]), each step rounded. -/
def scanFrom (step : Nat → Val → Val → Val) (acc : Val) : Nat → List Val → List Val
  | _, [] => []
  | i, v :: t => let x := step i acc v; x :: scanFrom step x (i + 1) t
def State.vscan (s : State) (h : Hd) (a : FmtA) (ts : List Tok) : List Val :=
  let l := s.vals s.cur.node 0 (tk ts 0)
  let sc := s.scalesOut s.cur.node a.vco l.length
  match l with
  | [] => []
  | v :: t =>
    let x := s.roundOut a sc 0 v
    x :: scanFrom (fun i p q => s.roundOut a sc i (redOp h.fn.toNat (s.rndOfA a) p q)) x 1 t
def execVscan (h : Hd) (a : FmtA) (s : State) : Host.Outcome State Fault Refusal :=
  s.fire h (Slots.of [0] [0]) 127 (fun s ts => s.formatFault a redLimits [0] ts)
    (fun s ts =>
      let l := s.vscan h a ts
      .fires (s.wrote s.cur.node a.vco l.length) [outBoth (result s.cur.word ts (s.encodeLanes a l))])

end Sys2Proof.Machine
end

