-- ==== Sys2Proof/Machine/Chan.lean ====
section
/-! DEFINITION. Channels, header beats and quantisation, opcodes 0x70 to 0x77 (R254 to R257). -/

namespace Sys2Proof.Machine

/-- An entry whose reserved bits [6:0] are not zero (R376, CODE 0x0004). -/
def vcsetFault (p : BitVec 30) (ts : List Tok) : Option Exn :=
  let t := ts.headD {}
  let e := t.data.extractLsb' 0 32
  if t.fl.nil || bits e 0 7 = 0 then none else some (fmtExn 4 (p.extractLsb' 0 5) e)

/-- VCSET (R254): held until commit; NIL cancels the write. -/
def execVcset (h : Hd) (p : BitVec 30) (s : State) : Host.Outcome State Fault Refusal :=
  s.fire h ⟨[0], [0], [0], []⟩ 127 (fun _ ts => vcsetFault p ts) (fun s ts =>
    let t := ts.headD {}
    if t.fl.nil then .fires s []
    else .fires (s.hold 127 t.wave (.vcset (p.extractLsb' 0 6) (t.data.extractLsb' 0 32))) [])

/-- VCGET (R254): the entry as it stands. -/
def execVcget (h : Hd) (p : BitVec 30) (s : State) : Host.Outcome State Fault Refusal :=
  s.fire h Slots.trigger 127 noPre
    (fun s ts => .fires s [outBoth (result s.cur.word ts (word64 (s.ent (p.extractLsb' 0 5)).toNat))])

/-- HDR (R255): slot 0 as a header beat on VCO; more than twelve words are illegal use, condition 8. -/
def execHdr (h : Hd) (a : FmtA) (s : State) : Host.Outcome State Fault Refusal :=
  s.fire h ⟨[0], [0], [], [0]⟩ 127
    (fun s ts => let t := ts.headD {}; if !t.fl.nil && 11 < t.nlane.toNat then some (s.illegalVc 8 a.vco) else none)
    (fun s ts =>
      let t := ts.headD {}
      .fires s [outBoth { t with vc := a.vco, fl := { t.fl with hdr := true, last := false, endf := false } }])

/-! QNT (R256). -/

def qntLimits : Limits :=
  ⟨fun f => f = 7 || f = 8 || f = 11 || f = 14, fun _ f => f = 2 || f = 3 || f = 4 || f = 5 || f = 6, fun _ f => f ≤ 17, true, true⟩

/-- The largest finite value L' of VCO. -/
def qntMax (f : Nat) : Nat := if f = 2 then 127 else if f = 3 then 255 else if f = 4 then 448 else if f = 5 then 57344 else 32767

def isFinite : Val → Bool
  | .fin _ _ _ => true
  | _ => false

/-- The largest magnitude of the finite lanes, and whether there is one other than zero. -/
def maxAbs (l : List Val) : Val := (l.filter isFinite).foldl (fun m v => if cmpVal m v.abs < 0 then v.abs else m) (.fin false 0 0)

/-- The smallest scale code in 0 to 254 under which M fits; 127 for M = 0, 254 when none does. -/
def qntScale (f : Nat) (m : Val) : Nat :=
  if m.isZero then 127
  else ((List.range 255).find? fun s => cmpVal m ((intVal (qntMax f)).scaled s) ≤ 0).getD 254

/-- The MAXM code of a block from its element codes (R89); a NaN code bounds nothing. -/
def maxmCode (f : Nat) (codes : List Nat) : Nat :=
  let mags := codes.map fun c =>
    if f = 4 then (if c % 128 = 0x7F then 0 else c % 128)
    else if f = 5 then (if 0x7C < c % 128 then 0 else c % 128)
    else if f = 6 then ((intOf f c).natAbs + 15) / 16
    else (intOf f c).natAbs
  mags.foldl max 0

def State.qnt (s : State) (a : FmtA) (ts : List Tok) : List Out :=
  let fo := fmtOf (s.ent a.vco)
  let l := s.vals s.cur.node 0 (ts.headD {})
  let sc := qntScale fo (maxAbs l)
  let codes := l.map fun v => encodeElem fo (s.rndOfA a) true (v.unscaled sc)
  let head := pack [(24, 8, sc), (16, 8, l.length), (0, 12, maxmCode fo codes)]
  [outA { result s.cur.word ts (packLanes fo codes) with nlane := nlaneFor fo l.length },
   outB { result s.cur.word ts (BitVec.ofNat 384 head) with nlane := 0 }]

def execQnt (h : Hd) (a : FmtA) (s : State) : Host.Outcome State Fault Refusal :=
  s.fire h (Slots.of [0] [0]) 127 (fun s ts => s.formatFault a qntLimits [0] ts (some 0)) (fun s ts => .fires s (s.qnt a ts))

/-! DQNT, SCLX, I4XP, I4XU (R257). -/

def dqntLimits : Limits :=
  ⟨fun f => f = 2 || f = 3 || f = 4 || f = 5 || f = 6, fun _ f => isFloat f, fun _ f => f ≤ 17, true, false⟩

/-- The header word of DQNT's slot 1, and its checks (R376 CODE 0x0003, R377 CODE 0x02); lanes beyond VCO's are outside the limits (condition 2). -/
def dqntFault (a : FmtA) (s : State) (ts : List Tok) : Option Exn :=
  let t := tk (s.withImm a (s.beatLanes a) ts) 1
  let n := validLanes (fmtOf (s.ent a.vci)) (tk ts 0)
  let form := s.formatFault a dqntLimits [0] (ts.take 1)
  let w := t.data.extractLsb' 0 32
  (firstExn [form, s.scaleOutFault s.cur.node a.vco n,
    if !t.fl.nil && sclOf w = 255 then some (fmtExn 3 t.vc w) else none,
    if t.fl.nil then none else badMaxm (fmtOf (s.ent (tk ts 0).vc)) [w]]).or
    (if !t.fl.nil && fmtLanes (fmtOf (s.ent a.vco)) < n then some (s.illegalVc 2 a.vco) else none)
def State.dqnt (s : State) (a : FmtA) (ts : List Tok) : List Val :=
  let t := tk ts 0
  let f := fmtOf (s.ent t.vc)
  (List.range (validLanes f t)).map fun i =>
    (laneVal f (s.laneData t) i).scaled (bits (tk (s.withImm a (s.beatLanes a) ts) 1).data 24 8)
def execDqnt (h : Hd) (a : FmtA) (s : State) : Host.Outcome State Fault Refusal :=
  s.fire h (Slots.of (slotsA a [0, 1]) (slotsA a [0, 1])) 127 (dqntFault a) (fun s ts =>
    let l := s.dqnt a ts
    .fires (s.wrote s.cur.node a.vco l.length)
      [outBoth { result s.cur.word ts (s.encodeLanes a l) with nlane := nlaneFor (fmtOf (s.ent a.vco)) l.length }])

def sclxLimits : Limits := ⟨fun f => f = 16, fun _ f => f = 16, fun _ f => f ≤ 17, true, false⟩
/-- The code of a product of two scales. -/
def sclxCode (x y : Nat) : Nat :=
  if x = 255 || y = 255 then 255 else (min 254 (max 0 ((x : Int) + y - 127))).toNat
def execSclx (h : Hd) (a : FmtA) (s : State) : Host.Outcome State Fault Refusal :=
  let ports := slotsA a [0, 1]
  s.fire h (Slots.of ports ports) 127 (fun s ts => s.formatFault a sclxLimits ports ts) (fun s ts =>
    let n := validLanes 16 (tk ts 0)
    let b := if a.ims then List.replicate n (a.imm.toNat % 256) else s.codes (tk ts 1)
    let l := (List.range n).map fun i => sclxCode ((s.codes (tk ts 0)).getD i 0) (b.getD i 0)
    .fires s [outBoth (result s.cur.word ts (packLanes 16 l))])

def i4xpLimits : Limits :=
  ⟨fun f => f = 2 || f = 6 || f = 7 || f = 8 || f = 11 || f = 14, fun _ f => f = 1, fun _ f => f ≤ 17, true, true⟩
/-- Elements of the quads, missing ones zero. -/
def State.i4xp (s : State) (ts : List Tok) : List Val :=
  let l := s.vals s.cur.node 0 (ts.headD {})
  l ++ List.replicate ((4 - l.length % 4) % 4) (.fin false 0 0)
def execI4xp (h : Hd) (a : FmtA) (s : State) : Host.Outcome State Fault Refusal :=
  s.fire h (Slots.of [0] [0]) 127
    (fun s ts => s.formatFault a i4xpLimits [0] ts (some ((validLanes (fmtOf (s.ent a.vci)) (ts.headD {}) + 3) / 4 * 4)))
    (fun s ts =>
      let l := s.i4xp ts
      .fires (s.wrote s.cur.node a.vco l.length)
        [outBoth { result s.cur.word ts (s.encodeLanes a l) with nlane := nlaneFor 1 l.length }])

def i4xuLimits : Limits := ⟨fun f => f = 1, fun _ f => f = 2 || f = 6 || isFloat f, fun _ f => f ≤ 17, false, true⟩
/-- The first element, and the values from it on that fit VCO. -/
def i4xuFirst (a : FmtA) : Nat := if a.ims then a.imm.toNat else 0
def State.i4xu (s : State) (a : FmtA) (ts : List Tok) : List Val :=
  ((s.vals s.cur.node 0 (ts.headD {})).drop (i4xuFirst a)).take (fmtLanes (fmtOf (s.ent a.vco)))
def execI4xu (h : Hd) (a : FmtA) (s : State) : Host.Outcome State Fault Refusal :=
  s.fire h (Slots.of [0] [0]) 127
    (fun s ts => (s.formatFault a i4xuLimits [0] ts (some (s.i4xu a ts).length)).or
      (if i4xuFirst a % fmtLanes (fmtOf (s.ent a.vco)) != 0 then some (s.illegalVc 8 a.vco) else none))
    (fun s ts =>
      let l := s.i4xu a ts
      .fires (s.wrote s.cur.node a.vco l.length)
        [outBoth (if l.isEmpty then nilResult s.cur.word ts
          else { result s.cur.word ts (s.encodeLanes a l) with nlane := nlaneFor (fmtOf (s.ent a.vco)) l.length })])

end Sys2Proof.Machine
end

