-- ==== Sys2Proof/Machine/PageOps.lean ====
section
/-! DEFINITION. The sequence port: the sequence table, overlays, page descriptors and slots (R139 to R146, R413), lookups,
appends, forks, releases and drops. Every address of the port is translated in PPART. -/

namespace Sys2Proof.Machine

/-- What an access that may have to wait answers. -/
inductive Got (α : Type) where
  | ok (v : α) (s : State)
  | fails (x : Exn) (s : State)
  | waits
deriving DecidableEq

/-- An operation of the port for a strand in some step: an answer or a failure, and the state after. -/
abbrev Port (α : Type) := ReaderT (BitVec 32) (ExceptT Exn (StateM State)) α

def State.portPart (s : State) : Nat := bits s.pages.ppart 0 6
/-- The step that an operation of the port counts in: that of a node's strand, or the module's. -/
def State.stepAt (s : State) (n : Node) : BitVec 32 :=
  match s.strandOf n.ctx with
  | some st => st.step
  | none => (s.domain s.portPart).step
def Port.run' {α : Type} (p : Port α) (s : State) (step : BitVec 32 := s.stepAt s.cur.node) : Except Exn α × State := p step s
def failPort {α : Type} (x : Exn) : Port α := fun _ s => (.error x, s)
def getState : Port State := fun _ s => (.ok s, s)
def putState (s : State) : Port Unit := fun _ _ => (.ok (), s)
def getStep : Port (BitVec 32) := fun step s => (.ok step, s)

/-- The mark of an operation that has to wait: its strand runs ahead of its module, and it reads a step-shared page (R164). -/
def aheadMark : Exn := { cause := 0, code := 1 }
/-- An operation of the port that fails does not perform (R391); the errors it found stay found (R383). -/
def State.foundIn (s t : State) : State :=
  { s with mem := { s.mem with bad := t.mem.bad, poi := t.mem.poi, migs := t.mem.migs } }
def Port.got {α : Type} (p : Port α) (s : State) (step : BitVec 32 := s.stepAt s.cur.node) : Got α :=
  match p.run' s step with
  | (.ok v, t) => .ok v t
  | (.error x, t) => if x = aheadMark then .waits else .fails x (s.foundIn t)

/-- The access of the port at a virtual address; it walks the tables each time. -/
def portAcc (va : Nat) (write : Bool) : Port Acc := fun _ s =>
  let v := BitVec.ofNat 64 va
  let part := s.portPart
  if bits v 57 7 != (if bit v 56 then 127 else 0) then (.error (memExn 0x30 0 v 0), s) else
  match s.walkFrom v (bits (s.partEntry part) 352 64) walkLevels with
  | .fails c code sec => (.error (memExn c code v 0), s.findErrors [sec])
  | .leaf e lvl _ =>
    let a := { accOf v e lvl with part := part }
    if write && !bit e 4 then (.error (memExn 0x31 1 v a.addr), s)
    else if !s.keyOk part a.kidx then (.error (memExn 0x31 3 v a.addr), s)
    else (.ok a, s)

/-- Read `n` bytes as a little-endian number; an error or poison fails (R382, R416). -/
def portRead (va n : Nat) : Port Nat := do
  let a ← portAcc va false
  let s ← getState
  let step ← getStep
  if a.ss && step != (s.domain a.part).step then failPort aheadMark else
  match s.accFault a n with
  | some c => putState (s.findErrors (s.secsOf a n)); failPort (memExn c 0 (BitVec.ofNat 64 va) a.addr)
  | none =>
    match s.readHome a n with
    | (some b, s) => putState s; pure (leNat b.bytes)
    | (none, _) => failPort (memExn 0x36 2 (BitVec.ofNat 64 va) a.addr)

/-- The port writes bytes of an access, by offset: at the home slice, or toward the glaze buffer of a step-shared page (R163). -/
def portPut (a : Acc) (bytes : List (Nat × Byte)) (poi : Bool) : Port Unit := fun step s =>
  let bytes := bytes.map fun b => (a.addr + b.1, b.2)
  if !a.ss then
    if s.undecodable a bytes then (.error (memExn 0x36 2 a.va a.addr), s)
    else (.ok (), s.writeHome a.hdie.toNat 0 a bytes poi)
  else
    let secs := (bytes.map fun b => a.base + (b.1 - a.base) / 48 * 48).foldl addNew []
    (.ok (), secs.foldl (fun s sec =>
      let at_ := fun (i : Nat) => (bytes.find? fun b => b.1 = sec + i).map (·.2)
      let mask := BitVec.ofNat 48 (pack ((List.range 48).map fun i => (i, 1, b2n (at_ i).isSome)))
      let data := beatOf ((List.range 48).map fun i => (at_ i).getD 0)
      let s := s.sendRecord a.part step a.hdie.toNat 0 { a with addr := sec } data mask 0 poi 0
        ⟨0, s.cur.node, s.cur.key, {}, {}, false, s.mem.nextSeq⟩
      { s with mem := { s.mem with nextSeq := s.mem.nextSeq + 1 } }) s)

def portWrite (va n v : Nat) : Port Unit := do
  let a ← portAcc va true
  let s ← getState
  match (if a.ss then none else s.accFault a n) with
  | some c => putState (s.findErrors (s.secsOf a n)); failPort (memExn c 0 (BitVec.ofNat 64 va) a.addr)
  | none => portPut a ((List.range n).map fun i => (i, (leBytes n v).getD i 0)) false

/-- Cause 0x39 (R391). -/
def seqExn (code : Nat) : Exn := { cause := 0x39, code := BitVec.ofNat 16 code }

/-! The sequence table (R139). -/

structure Ste where
  v : Bool
  psz : Nat
  depth : Nat
  parent : Nat
  ovl : Nat
  len : Nat
  forkp : Nat
deriving DecidableEq, Repr

def Ste.ofNat (n : Nat) : Ste :=
  let e := BitVec.ofNat 256 n
  ⟨bit e 153, bits e 151 2, bits e 148 3, bits e 128 20, bits e 64 64, bits e 32 32, bits e 0 32⟩
def Ste.toNat (e : Ste) : Nat :=
  pack [(153, 1, b2n e.v), (151, 2, e.psz), (148, 3, e.depth), (128, 20, e.parent), (64, 64, e.ovl), (32, 32, e.len), (0, 32, e.forkp)]
def Ste.npos (e : Ste) : Nat := 16 * 2 ^ e.psz
/-- Page indices below LEN. -/
def Ste.pages (e : Ste) : Nat := (e.len + e.npos - 1) / e.npos

def steVa (s : State) (n : Nat) : Nat := (s.pages.stbase.toNat + 32 * n) % 2 ^ 64
def readSte (n : Nat) : Port Ste := do
  let s ← getState
  pure (Ste.ofNat (← portRead (steVa s n) 32))
def writeSte (n : Nat) (e : Ste) : Port Unit := do
  let s ← getState
  portWrite (steVa s n) 32 e.toNat

/-- An entry whose PSZ names no page size does not resolve (CODE 0x0006). -/
def goodSte (n : Nat) : Port Ste := do
  let e ← readSte n
  if e.psz = 3 then failPort (seqExn 6) else pure e

/-! Overlays and lookup (R140). -/

/-- The overlay array of a head group; 0 when the directory or its pointer is 0. -/
def overlayArray (e : Ste) (hg : Nat) : Port Nat :=
  if e.ovl = 0 then pure 0 else portRead ((e.ovl + 8 * hg) % 2 ^ 64) 8

def overlayEntry (e : Ste) (hg j : Nat) : Port (BitVec 64) := do
  let p ← overlayArray e hg
  if p = 0 then pure 0 else pure (BitVec.ofNat 64 (← portRead ((p + 8 * j) % 2 ^ 64) 8))

/-- The page, and the sequence whose table named it. -/
def lookupFrom (hg j : Nat) : Nat → Nat → Ste → Port (Option (Nat × Nat))
  | 0, _, _ => pure none
  | f + 1, s, e => do
    let o ← overlayEntry e hg j
    if bit o 63 then pure (some (bits o 0 32, s))
    else if bit o 62 || e.depth = 0 || e.forkp ≤ j * e.npos then pure none
    else do
      let p ← goodSte e.parent
      lookupFrom hg j f e.parent p

def lookupPage (s hg j : Nat) (e : Ste) : Port (Option (Nat × Nat)) := lookupFrom hg j 5 s e

/-! The pool (R142, R413). -/

def rbOf (s : State) : Nat := bits s.pages.rb 0 4
def pageVa (s : State) (page : Nat) : Nat := (s.pages.poolbase.toNat + page * s.pages.pstride.toNat) % 2 ^ 64
def slotVa (s : State) (page i : Nat) : Nat := (pageVa s page + i * (rbOf s + 1) * 48) % 2 ^ 64
def descVa (s : State) (page : Nat) : Nat := (s.pages.pdbase.toNat + 4 * page) % 2 ^ 64
def readDesc (page : Nat) : Port (BitVec 32) := do
  let s ← getState
  pure (BitVec.ofNat 32 (← portRead (descVa s page) 4))
def writeDesc (page : Nat) (d : BitVec 32) : Port Unit := do
  let s ← getState
  portWrite (descVa s page) 4 d.toNat
def refcOf (d : BitVec 32) : Nat := bits d 0 16

def freePage (page : Nat) : Port Unit := fun _ s =>
  (.ok (), { s with pages := { s.pages with free := s.pages.free ++ [page] } })

/-- One reference fewer: 0 stays 0; a page that reaches 0 joins the free list (R142). Answers the pages freed. -/
def decRef (page : Nat) : Port Nat := do
  let d ← readDesc page
  if refcOf d = 0 then pure 0
  else do
    writeDesc page (setBits d 0 16 (refcOf d - 1))
    if refcOf d = 1 then do freePage page; pure 1 else pure 0

/-- Head-group entry (R141): streaming, S, W. -/
def headGroup (s : State) (hg : Nat) : Bool × Nat × Nat :=
  let e := Tab.get 0 hg s.pages.heads
  (bit e 63, bits e 32 16, bits e 0 32)

/-- Run over a list. -/
def eachPort {α : Type} (f : α → Port Unit) : List α → Port Unit
  | [] => pure ()
  | x :: t => do f x; eachPort f t

def sumPort {α : Type} (f : α → Port Nat) : List α → Port Nat
  | [] => pure 0
  | x :: t => do let a ← f x; let b ← sumPort f t; pure (a + b)

/-- Every page that lookup resolves for a sequence at the places given, with its head group and index (R145, R146). -/
def resolved (s : Nat) (e : Ste) : List (Nat × Nat) → Port (List (Nat × Nat × Nat))
  | [] => pure []
  | (hg, j) :: t => do
    let p ← lookupPage s hg j e
    let r ← resolved s e t
    pure (match p with | some (g, _) => (g, hg, j) :: r | none => r)

def placesTo (e : Ste) (top : Nat) : List (Nat × Nat) :=
  (List.range 256).flatMap fun hg => if e.ovl = 0 && e.depth = 0 then [] else (List.range top).map fun j => (hg, j)
def places (e : Ste) : List (Nat × Nat) := placesTo e e.pages
/-- The same and the page of the position LEN, which an append that has not come to its LAST beat may have entered (R143). -/
def allPlaces (e : Ste) : List (Nat × Nat) := placesTo e (e.len / e.npos + 1)

/-! Appends (R143, R144, R314, R390). -/

/-- The address fields of space 101 (R133). -/
def seqAddr (a : Nat) : Nat × Nat × Nat × Nat := (a / 2 ^ 44 % 2 ^ 20, a / 2 ^ 36 % 256, a / 16 % 2 ^ 32, a % 16)

def isTaken (s : State) (sq hg j : Nat) : Option Nat :=
  (s.pages.taken.find? fun t => t.2.2.2.1 = sq && t.2.2.2.2.1 = hg && t.2.2.2.2.2 = j).map (·.1)

/-- Cause 0x38 (R390). -/
def cowExn (sq hg p page refc b : Nat) : Exn :=
  { cause := 0x38, code := 0,
    detail := BitVec.ofNat 384 (pack [(112, 16, b), (96, 16, refc), (64, 32, page), (32, 32, p), (20, 8, hg), (0, 20, sq)]) }

/-- An issued append pins the page it will write (R390). -/
def pinPage (n : Node) (k : Key) (page : Nat) : Port Unit := do
  let s ← getState
  putState { s with pages := { s.pages with pinned := s.pages.pinned ++ [(page, n, k)] } }

/-- What an SPAP checks and reserves when it issues: the page it will write, and where. -/
def appendCheck (n : Node) (k : Key) (sq hg p b : Nat) : Port (Nat × Acc) := do
  let e ← readSte sq
  let arr ← overlayArray e hg
  if arr = 0 then failPort (seqExn 4)
  else do
    let s ← getState
    if p != e.len || rbOf s < b then failPort (seqExn 5)
    else if e.psz = 3 then failPort (seqExn 6)
    else do
      let j := p / e.npos
      match ← lookupPage sq hg j e with
      | some (page, _) => do
        let d ← readDesc page
        if 1 < refcOf d then failPort (cowExn sq hg p page (refcOf d) b)
        else do
          let a ← portAcc (slotVa s page (p % e.npos) + 48 * b) true
          pinPage n k page
          pure (page, a)
      | none =>
        match isTaken s sq hg j, s.pages.free with
        | some page, _ => do
          let a ← portAcc (slotVa s page (p % e.npos) + 48 * b) true
          pinPage n k page
          pure (page, a)
        | none, [] => failPort (seqExn 2)
        | none, f :: fs => do
          -- the list's order is private to the device: the page taken is a free choice
          let i := s.pick (f :: fs).length
          let page := (f :: fs).getD i f
          let a ← portAcc (slotVa s page (p % e.npos) + 48 * b) true
          let s ← getState
          putState { s.spent with pages := { s.pages with free := drop1 i (f :: fs), taken := s.pages.taken ++ [(page, n, k, sq, hg, j)] } }
          pinPage n k page
          pure (page, a)

/-- An append gives up its pin; a page that was taken for it, and that no other append pins, is free again. -/
def State.unpin (s : State) (n : Node) (k : Key) (page : Nat) : State :=
  let pinned := dropFirst (fun x => x = (page, n, k)) s.pages.pinned
  let gone := s.pages.taken.any (fun t => t.1 = page) && !(pinned.any fun x => x.1 = page)
  { s with pages := { s.pages with
      pinned := pinned
      taken := if gone then s.pages.taken.filter fun t => t.1 != page else s.pages.taken
      free := if gone then s.pages.free ++ [page] else s.pages.free } }

/-- Drop of page index j of head group hg from s (R144). -/
def dropPage (sq : Nat) (e : Ste) (hg j : Nat) : Port Unit := do
  match ← lookupPage sq hg j e with
  | none => pure ()
  | some (page, _) => do
    let arr ← overlayArray e hg
    if arr = 0 then pure ()
    else do
      portWrite ((arr + 8 * j) % 2 ^ 64) 8 (2 ^ 62)
      let _ ← decRef page

/-- Page indices of a streaming head group that lie wholly outside the window after an append at p (R144). -/
def outside (npos p : Nat) (h : Bool × Nat × Nat) : List Nat :=
  if !h.1 then [] else
    (List.range (p / npos + 1)).filter fun j => j * npos + npos - 1 + h.2.2 ≤ p && h.2.1 ≤ j * npos

/-- An append performs (R143): the page new to s is entered, the beat is written; LAST completes the position. -/
def appendPerform (n : Node) (k : Key) (op : SeqOp) : Port Unit := do
  let sq := op.sq
  let hg := op.hg
  let p := op.pos
  let e ← readSte sq
  let j := p / e.npos
  let s ← getState
  let page ← (match isTaken s sq hg j with
    | some page => do
      let arr ← overlayArray e hg
      let d ← readDesc page
      writeDesc page (setBits d 0 16 1)
      portWrite ((arr + 8 * j) % 2 ^ 64) 8 (2 ^ 63 + page)
      let s ← getState
      putState { s with pages := { s.pages with taken := s.pages.taken.filter fun t => !(t.1 = page) } }
      pure page
    | none => do
      match ← lookupPage sq hg j e with
      | some (page, _) => pure page
      | none => failPort (seqExn 2) : Port Nat)
  let s ← getState
  let a ← portAcc (slotVa s page (p % e.npos) + 48 * op.beat) true
  portPut a (s.slotBytes op) op.poi
  let s ← getState
  putState (s.unpin n k page)
  if op.last then do
    writeSte sq { e with len := p + 1 }
    let s ← getState
    eachPort (fun hg => eachPort (dropPage sq { e with len := p + 1 } hg) (outside e.npos p (headGroup s hg))) (List.range 256)
  else pure ()

/-! Forks and releases (R145, R146). -/

/-- Does an issued append pin a page that a fork of a would share (R390)? -/
def forkPinned (a : Nat) : Port Bool := do
  let e ← readSte a
  if e.psz = 3 then pure false
  else do
    let r ← resolved a e (allPlaces e)
    let s ← getState
    pure (r.any fun x => s.pages.pinned.any fun q => q.1 = x.1)

/-- References counted once per page and head group. -/
def bumpRefs : List (Nat × Nat × Nat) → Port Unit
  | [] => pure ()
  | (page, _, _) :: t => do
    let d ← readDesc page
    writeDesc page (setBits d 0 16 (refcOf d + 1))
    bumpRefs t

def checkRefs (all : List (Nat × Nat × Nat)) : List (Nat × Nat × Nat) → Port Unit
  | [] => pure ()
  | (page, _, _) :: t => do
    let d ← readDesc page
    if 65535 < refcOf d + all.countP (fun x => x.1 = page) then failPort (seqExn 1) else checkRefs all t

/-- Write every resolved page into the child's own arrays (flattening). -/
def flatten (child : Ste) : List (Nat × Nat × Nat) → Port Unit
  | [] => pure ()
  | (page, hg, j) :: t => do
    let arr ← overlayArray child hg
    portWrite ((arr + 8 * j) % 2 ^ 64) 8 (2 ^ 63 + page)
    flatten child t

/-- Pointers of the child that a flattening fork needs (R391 CODE 0x0004). -/
def flatPointers (child : Ste) : List (Nat × Nat × Nat) → Port Unit
  | [] => pure ()
  | (_, hg, _) :: t => do
    let arr ← overlayArray child hg
    if arr = 0 then failPort (seqExn 4) else flatPointers child t

/-- SPFK: the child's new depth, and whether it was flattened. -/
def forkSeq (a b : Nat) : Port (Nat × Bool) := do
  let pa ← readSte a
  let ch ← readSte b
  if pa.psz != 3 && pa.v && !ch.v then do
    let r ← resolved a pa (allPlaces pa)
    checkRefs r r
  if ch.v || !pa.v then failPort (seqExn 3)
  else if ch.ovl = 0 then failPort (seqExn 4)
  else if pa.psz = 3 then failPort (seqExn 6)
  else do
    let r ← resolved a pa (allPlaces pa)
    if pa.depth < 4 then do
      bumpRefs r
      writeSte b { ch with v := true, psz := pa.psz, depth := pa.depth + 1, parent := a, len := pa.len, forkp := pa.len }
      pure (pa.depth + 1, false)
    else do
      let below := r.filter fun x => decide (x.2.2 < pa.pages)
      flatPointers ch below
      flatten ch below
      bumpRefs r
      writeSte b { ch with v := true, psz := pa.psz, depth := 0, parent := 0, len := pa.len, forkp := pa.len }
      pure (0, true)

/-- SPRL: the pages freed; none, and nothing changes, when the sequence has V = 0 (R410). -/
def releaseSeq (n : Nat) : Port Nat := do
  let e ← readSte n
  if !e.v then pure 0
  else if e.psz = 3 then failPort (seqExn 6)
  else do
    let r ← resolved n e (allPlaces e)
    let freed ← sumPort (fun x => decRef x.1) r
    writeSte n { e with v := false }
    pure freed

/-! Regeneration (R392, R393, R318). -/

def setRgn (page : Nat) (v : Bool) : Port Unit := do
  let d ← readDesc page
  writeDesc page (setBits d 16 1 (b2n v))

/-- Task number of the effects that the port itself releases. -/
def portTask : Nat := 4096

/-- A beat of a pool page is poisoned; one that cannot be reached is not. -/
def beatPoisoned (va : Nat) : Port Bool := fun step s =>
  match (portAcc va false).run' s step with
  | (.ok a, s) => (.ok (s.accFault a 48 = some 0x34), s)
  | (.error _, s) => (.ok false, s)
/-- The mask of a page's slots with a poisoned sector. -/
def poisonedSlots (page npos : Nat) : Port Nat := do
  let s ← getState
  sumPort (fun i => do
    let n ← sumPort (fun b => do let x ← beatPoisoned (slotVa s page i + 48 * b); pure (b2n x)) (List.range (rbOf s + 1))
    pure (if n = 0 then 0 else 2 ^ i)) (List.range npos)

/-- A reader met poison in a pool page: RGN := 1. True: the reader is answered with RETRY; false: it raises cause 0x34. With V = 1 the
first reader's beat goes to the queue at QBASE. -/
def regenerate (page owner hg j npos : Nat) : Port Bool := do
  let d ← readDesc page
  let s ← getState
  let r := s.pages.regen
  if bit d 16 then pure (bit r 63)
  else do
  setRgn page true
  if !bit r 63 then pure false
  else do
    let m ← poisonedSlots page npos
    let q ← portAcc (bits r 64 64) true
    let s ← getState
    let beat := BitVec.ofNat 384 (pack [(0, 32, page), (32, 32, owner), (64, 32, hg), (96, 32, j * npos), (128, 64, m)])
    let e : Pend := ⟨bits r 12 3, portTask, Node.zero, Key.zero, 127, 0, s.mem.nextSeq, false, bits s.pages.ppart 0 6, [], none, .none, .enq q beat false⟩
    putState { s with mem := { s.mem with pend := s.mem.pend ++ [e], nextSeq := s.mem.nextSeq + 1 } }
    pure true

/-- Appends that reached the port before an operation are applied before it (R312); the port waits for its memories (R350). -/
def State.seqBusy (s : State) : Bool := !s.allReady || s.pages.seqq.any fun q => !q.stuck
/-- An append that an open record holds keeps later accesses to its sequence waiting (R416). -/
def State.seqStuck (s : State) (sq : Nat) : Bool := s.pages.seqq.any fun q => q.stuck && q.op.sq = sq

/-- LDB in space 101 and SPLK: the page and slot of a position, or none. -/
def resolvePos (sq hg pos : Nat) : Port (Option (Nat × Nat × Ste × Nat)) := do
  let e ← goodSte sq
  match ← lookupPage sq hg (pos / e.npos) e with
  | none => pure none
  | some (page, owner) => do
    let s ← getState
    pure (some (page, slotVa s page (pos % e.npos), e, owner))

end Sys2Proof.Machine
end

