-- ==== Sys2Proof/Machine/MemWords.lean ====
section
/-! DEFINITION. Memory words, fences, cache control and counters, opcodes 0x80 to 0x93 (R273 to R291), and what the
read-modify-write words among them do when they perform. -/

namespace Sys2Proof.Machine

/-- EA := (A + OFF13 × s) mod 2^64 (R274). -/
def offsetFrom (m : FmtM) (size a : Nat) : Word := BitVec.ofInt 64 (a + signed 13 m.off.toNat * size)
def effAddr (m : FmtM) (size : Nat) (t : Tok) : Word := offsetFrom m size (lane0 t)

/-- The payload format of a memory word. -/
def fmtM (w : BitVec 64) : FmtM :=
  ⟨w.extractLsb' 25 5, w.extractLsb' 18 7, w.extractLsb' 16 2, w.extractLsb' 13 3, w.extractLsb' 0 13⟩

/-- A condition of R407 with an address and the word's VC entry. -/
def State.illegalAt (s : State) (n : Nat) (vc : BitVec 5) (ea : Word) : Exn := { s.illegalVc n vc with addr := ea }

/-- Checks skipped when an address or data token is NIL (R275). -/
def ifData (f : State → List Tok → Option Exn) : State → List Tok → Option Exn := fun s ts => if ts.any (·.fl.nil) then none else f s ts

/-- The word's VC must name a format (condition 2). -/
def State.vcFault (s : State) (m : FmtM) : Option Exn := if 18 ≤ fmtOf (s.ent m.vc) then some (s.illegalVc 2 m.vc) else none

/-- R276: the VC's element width is the access's, or the VC is raw (condition 6). -/
def widthFault (m : FmtM) (size : Nat) (s : State) (ts : List Tok) : Option Exn :=
  let f := fmtOf (s.ent m.vc)
  (s.vcFault m).or (if f != 0 && fmtBits f != 8 * size then some (s.illegalAt 6 m.vc (effAddr m size (tk ts 0))) else none)

/-- R278: space 100 takes a raw VC (condition 2). -/
def rawFault (m : FmtM) (s : State) (_ : List Tok) : Option Exn :=
  (s.vcFault m).or (if m.space = 4 && fmtOf (s.ent m.vc) != 0 then some (s.illegalVc 2 m.vc) else none)

/-- Does the read-modify-write act on one of the bytes of an access in `space` at `ea`? -/
def Rmw.touches (r : Rmw) (space : BitVec 3) (ea : Word) (len : Nat) : Bool :=
  let own := fun (x : Nat) => x = 1 || x = 2
  ((0x87 ≤ opcode r.word && opcode r.word ≤ 0x8B) || opcode r.word = 0xD9 || opcode r.word = 0xDA) &&
    (let sp := bits r.word 13 3
     let size := if opcode r.word ≤ 0x88 then (if bit r.word 54 then 8 else 4) else 48
     let ra := (offsetFrom (fmtM r.word) size (match r.ops.head? with | some t => lane0 t.2 | none => 0)).toNat
     own sp = own space.toNat && ra < ea.toNat + len && ea.toNat < ra + size)

/-- Its place in the order of its port: the release number that stood next when it issued there, none yet when its instance has not been
seen settled. -/
def Rmw.issued (r : Rmw) : Option Nat := if r.since = 0 then none else some (r.since - 1)
/-- The highest release number below which an effect has issued before the read-modify-write (R157). -/
def State.rmwTop (s : State) (r : Rmw) : Nat := r.issued.getD s.mem.nextSeq

/-- The order in which settled words act: as they were first seen settled, then as they were queued (R157, R260, R262; log entry 148). -/
def Rmw.before (x r : Rmw) : Bool :=
  if x.since = r.since then x.seq < r.seq else r.since = 0 || (x.since != 0 && x.since < r.since)

/-- R157: a read-modify-write of the same cell to the same bytes has issued before and not performed. One issues at its port when its
instance is settled, or for a later access of its own instance when it fires (log entry 148). `seq` is the access's own number. -/
def State.rmwBusy (s : State) (n : Node) (space : BitVec 3) (ea : Word) (len : Nat) (seq : Nat := s.mem.nextSeq) : Bool :=
  s.mem.rmwq.any fun r => samePort r.node n && decide (r.seq < seq) && r.touches space ea len &&
    (r.node.ctx = n.ctx && r.key = s.cur.key || (match s.strandOf r.node.ctx with | some st => s.settled st r.key | none => false))

/-- Does a sequenced word have to wait for its turn (R33)? -/
def State.notTurn (s : State) (m : FmtM) (ts : List Tok) : Bool :=
  !(s.msqReady s.cur.node s.cur.key (tk ts 0).wave m.msq.toNat)

/-- Mark the present firing's place in its memory sequence. -/
def State.issue (s : State) (m : FmtM) (ts : List Tok) : State := s.markMsq s.cur.node s.cur.key (tk ts 0).wave m.msq.toNat

/-! Loads (R276 to R278). -/

/-- A loaded beat: LAST and END joined, poison, crumb flags by R82. -/
def loadedIn (w : BitVec 64) (f : Nat) (ts : List Tok) (b : Bytes) (nl : BitVec 7) : Tok :=
  let t := { result w ts (beatOf b.bytes) with nlane := nl }
  let t := { t with fl := { t.fl with poi := b.poi } }
  { t with fl := crumbFlags f t }
def State.loaded (s : State) (m : FmtM) (ts : List Tok) (b : Bytes) (nl : BitVec 7) : Tok :=
  loadedIn s.cur.word (fmtOf (s.ent m.vc)) ts b nl

/-- What was read from an access, with the bytes of preceding stores of the block over it (R33). -/
def State.underStores (s : State) (m : FmtM) (ts : List Tok) (a : Acc) (raw : Bool) (b : Bytes) : Bytes :=
  if a.ss then b else overlay (s.lies a) b (s.forwarded s.cur.node (tk ts 0).wave m.msq.toNat a.bank raw)
def State.loadBytes (s : State) (st : Strand) (m : FmtM) (ts : List Tok) (a : Acc) (len : Nat) : Option Bytes × State :=
  match s.readScoped st s.cur.node a len m.scope.toNat with
  | (some b, s) => (some (s.underStores m ts a false b), s)
  | r => r

/-- R388 CODE 0x0002. -/
def imageExn (ea : Word) (a : Acc) : Exn := memExn 0x36 2 ea a.addr

/-- One access of a load, then `out` on what it read. -/
def State.loadBody (s : State) (m : FmtM) (size : Nat) (ts : List Tok) (out : State → Acc → Bytes → List Out) : Res :=
  let n := s.cur.node
  let ea := effAddr m size (tk ts 0)
  match s.here with
  | none => .waits
  | some st =>
    if s.notTurn m ts || s.rmwBusy n m.space ea size || s.nodeWaits st n m.space ea then .waits else
    match s.access st n m.space.toNat ea size false (opcode s.cur.word) with
    | (.error x, s) => .stops s x
    | (.ok a, s) =>
      if s.ahead st a || s.portBusy n a size then .waits
      else if m.space = 4 then
        let line := a.base + (a.addr - a.base) / 192 * 192
        let s := s.mayEvict (s.home line) a.kidx
        match s.readHome { a with cv := false } size with
        | (some b, s) =>
          let b := s.underStores m ts a true b
          .fires ((s.issue m ts).respond n s.cur.key (out s a b) false) []
        | (none, _) => .waits
      else
        match s.loadBytes st m ts a size with
        | (some b, s) => .fires ((s.issue m ts).respond n s.cur.key (out s a b) false) []
        | (none, s) => .stops s (imageExn ea a)

/-- Width in bytes of LD, ST, STNT, LDS, STS (R201). -/
def widthOf (h : Hd) : Nat := 2 ^ bits h.fn 0 2

def execLd (h : Hd) (m : FmtM) (s : State) : Host.Outcome State Fault Refusal :=
  s.fire h (Slots.of [0] [0]) m.msq.toNat (ifData (widthFault m (widthOf h)))
    (fun s ts => s.loadBody m (widthOf h) ts fun s _ b => [outBoth (s.loaded m ts b 0)])

/-- The page that a preceding append of the block has taken for a position and not entered yet (R33, R416). -/
def State.takenPage (s : State) (m : FmtM) (ts : List Tok) (sq hg pos : Nat) : Port (Option (Nat × Nat × Ste × Nat)) := do
  let e ← goodSte sq
  let j := pos / e.npos
  match isTaken s sq hg j with
  | none => pure none
  | some page =>
    let va := slotVa s page (pos % e.npos)
    let a ← portAcc va false
    let x := s.home a.addr
    let size := 48 * (rbOf s + 1)
    pure (if (s.forwarded s.cur.node (tk ts 0).wave m.msq.toNat false).any fun w => w.1.any fun b => x ≤ b.1 && b.1 < x + size then
      some (page, va, e, sq) else none)

/-- The page of a position as a load finds it: the one that lookup resolves, else one that a preceding append has taken. -/
def State.poolPlace (s : State) (m : FmtM) (ts : List Tok) (sq hg pos : Nat) : Port (Option (Nat × Nat × Ste × Nat)) := do
  match ← resolvePos sq hg pos with
  | some r => pure (some r)
  | none => s.takenPage m ts sq hg pos

/-- LDB in space 101 (R278, R392, R393). -/
def State.ldbPage (s : State) (m : FmtM) (ts : List Tok) : Res :=
  let n := s.cur.node
  let ea : Word := BitVec.ofNat 64 (lane0 (tk ts 0))
  let at_ := fun (x : Exn) => { x with addr := ea }
  if s.notTurn m ts || s.seqBusy || s.seqStuck (seqAddr ea.toNat).1 then .waits
  else if m.off != 0 then .faults (s.illegalAt 5 m.vc ea)
  else
    let (sq, hg, pos, b) := seqAddr ea.toNat
    if rbOf s < b then .faults (s.illegalAt 8 m.vc 0)
    else
      match (s.poolPlace m ts sq hg pos).got s with
      | .waits => .waits
      | .fails x s => .stops s (at_ x)
      | .ok none s => .fires ((s.issue m ts).respond n s.cur.key [outBoth (nilResult s.cur.word ts)] false) []
      | .ok (some (page, va, e, owner)) s =>
        let retry := { result s.cur.word ts 0 with fl := { joinFlags ts with retry := true } }
        match (readDesc page).got s with
        | .waits => .waits
        | .fails x s => .stops s (at_ x)
        | .ok d s =>
          if bit d 16 then .fires ((s.issue m ts).respond n s.cur.key [outBoth retry] false) []
          else
            match (portAcc (va + 48 * b) false).got s with
            | .waits => .waits
            | .fails x s => .stops s (at_ x)
            | .ok a s =>
              match s.here with
              | none => .waits
              | some st =>
                if s.ahead st a then .waits else
                match s.readHome a 48 with
                | (none, s) => .stops s (imageExn ea a)
                | (some r, s) =>
                  if !r.poi then
                    .fires ((s.issue m ts).respond n s.cur.key
                      [outBoth (s.loaded m ts (s.underStores m ts a false r) (allLanes (fmtOf (s.ent m.vc))))] false) []
                  else
                    match (regenerate page owner hg (pos / e.npos) e.npos).got s with
                    | .waits => .waits
                    | .fails x s => .stops s (at_ x)
                    | .ok false s => .stops s (memExn 0x34 0 ea a.addr)
                    | .ok true s => .fires ((s.issue m ts).respond n s.cur.key [outBoth retry] false) []

def execLdb (h : Hd) (m : FmtM) (s : State) : Host.Outcome State Fault Refusal :=
  s.fire h (Slots.of [0] [0]) m.msq.toNat (ifData (rawFault m))
    (fun s ts => if m.space = 5 then s.ldbPage m ts
      else s.loadBody m 48 ts fun s _ b => [outBoth (s.loaded m ts b (allLanes (fmtOf (s.ent m.vc))))])

/-- LDL (R277): up to four beats, cut at the page end. -/
def State.lineOuts (s : State) (m : FmtM) (ts : List Tok) (bs : List Bytes) : List Out :=
  (List.range bs.length).map fun i =>
    let b := bs.getD i ⟨[], false⟩
    let t := s.loaded m ts b (allLanes (fmtOf (s.ent m.vc)))
    outBoth { t with seq := BitVec.ofNat 16 i, fl := { t.fl with last := decide (i + 1 = bs.length) } }

/-- Read the beats of a line one by one. -/
def State.readBeats (s : State) (st : Strand) (m : FmtM) (ts : List Tok) (a : Acc) : Nat → Nat → Option (List Bytes) × State
  | 0, _ => (some [], s)
  | f + 1, i =>
    let left := a.base + a.size - (a.addr + 48 * i)
    if a.base + a.size ≤ a.addr + 48 * i then (some [], s) else
    match s.loadBytes st m ts { a with addr := a.addr + 48 * i, va := a.va + BitVec.ofNat 64 (48 * i) } (min 48 left) with
    | (none, s) => (none, s)
    | (some b, s) =>
      match s.readBeats st m ts a f (i + 1) with
      | (some bs, s) => (some (b :: bs), s)
      | r => r

def execLdl (h : Hd) (m : FmtM) (s : State) : Host.Outcome State Fault Refusal :=
  s.fire h (Slots.of [0] [0]) m.msq.toNat (ifData fun s _ => s.vcFault m) (fun s ts =>
    let n := s.cur.node
    let ea := effAddr m 192 (tk ts 0)
    match s.here with
    | none => .waits
    | some st =>
      if s.notTurn m ts || s.rmwBusy n m.space ea 192 || s.nodeWaits st n m.space ea then .waits else
      match s.access st n m.space.toNat ea 192 false 0x84 with
      | (.error x, s) => .stops s x
      | (.ok a, s) =>
        if s.ahead st a || s.portBusy n a 192 then .waits else
        match s.readBeats st m ts a 4 0 with
        | (none, s) => .stops s (imageExn ea a)
        | (some bs, s) => .fires ((s.issue m ts).respond n s.cur.key (s.lineOuts m ts bs) false) [])

/-- PREF (R279): changes no value; its translation may enter the TLBs. A NIL address translates nothing (R275). -/
def execPref (h : Hd) (m : FmtM) (s : State) : Host.Outcome State Fault Refusal :=
  s.fire h ⟨[0], [0, 1, 2], [], [0]⟩ m.msq.toNat noPre (fun s ts =>
    match s.here with
    | none => .waits
    | some st =>
      if s.notTurn m ts || s.nodeWaits st s.cur.node m.space (effAddr m 48 (tk ts 0)) then .waits
      else if m.space = 5 then .fires (s.issue m ts) []
      else
        match s.translate s.cur.node.ctx.die s.cur.node.ctx.wafer st.part st.stamp (effAddr m 48 (tk ts 0)) false with
        | (.ok _, s') => .fires (s'.issue m ts) []
        | (.error _, _) => .fires (s.issue m ts) [])

/-! Stores (R276 to R278). -/

/-- The token a store emits when it issues (R155). -/
def State.zeroTok (s : State) (ts : List Tok) : Tok := result s.cur.word ts 0

/-- A bank holds no poison mark (R384). -/
def bankPoison (ea : Word) : Exn := { cause := 0x34, code := 1, addr := ea }

/-- The held effect of a store of `bytes` at an access. -/
def State.storeEff (s : State) (m : FmtM) (a : Acc) (bytes : List Byte) (poi : Bool) : Eff :=
  if a.ss then
    let (d, k) := sectorData a bytes
    .shared a d k (BitVec.ofNat 5 (fmtOf (s.ent m.vc))) poi
  else .store a (at_ a bytes) poi (m.space = 4)

def State.storeBody (s : State) (m : FmtM) (size : Nat) (ts : List Tok) (bytes : State → List Byte) : Res :=
  let n := s.cur.node
  let ea := effAddr m size (tk ts 0)
  match s.here with
  | none => .waits
  | some st =>
    if s.notTurn m ts || s.nodeWaits st n m.space ea then .waits else
    match s.access st n m.space.toNat ea size true (opcode s.cur.word) with
    | (.error x, s) => .stops s x
    | (.ok a, s) =>
      if a.bank && (tk ts 1).fl.poi then .faults (bankPoison ea)
      else if m.space != 4 && s.undecodable a (at_ a (bytes s)) then .faults (imageExn ea a)
      else
        let s := s.hold m.msq.toNat (tk ts 0).wave (s.storeEff m a (bytes s) (tk ts 1).fl.poi)
        .fires (s.issue m ts) [outBoth (s.zeroTok ts)]

def lowBytes (size : Nat) (t : Tok) : List Byte := leBytes size (t.data.toNat)

def Slots.store : Slots := ⟨[0, 1], [0, 1], [0], [0, 1]⟩

def execSt (h : Hd) (m : FmtM) (s : State) : Host.Outcome State Fault Refusal :=
  s.fire h Slots.store m.msq.toNat (ifData (widthFault m (widthOf h)))
    (fun s ts => s.storeBody m (widthOf h) ts fun _ => lowBytes (widthOf h) (tk ts 1))
/-- STNT (R276): the effect of ST. -/
def execStnt (h : Hd) (m : FmtM) (s : State) : Host.Outcome State Fault Refusal :=
  s.fire h Slots.store m.msq.toNat (ifData (widthFault m (widthOf h)))
    (fun s ts => s.storeBody m (widthOf h) ts fun _ => lowBytes (widthOf h) (tk ts 1))

/-- The bytes that hold valid lanes, a half-valid I4X byte whole (R277). -/
def State.validBytes (s : State) (t : Tok) : List Byte :=
  let f := fmtOf (s.ent t.vc)
  (bytesOf (s.laneData t)).take ((validLanes f t * fmtBits f + 7) / 8)

def execStb (h : Hd) (m : FmtM) (s : State) : Host.Outcome State Fault Refusal :=
  s.fire h Slots.store m.msq.toNat (ifData (rawFault m))
    (fun s ts => s.storeBody m 48 ts fun s => if m.space = 4 then bytesOf (s.laneData (tk ts 1)) else s.validBytes (tk ts 1))

/-! LDS and STS (R280). -/

/-- Address lanes must be U32 or U64 (condition 2); the VC's width is the access's and at most 48 ÷ s lanes (condition 6). -/
def laneFault (m : FmtM) (size : Nat) (s : State) (ts : List Tok) : Option Exn :=
  let t := tk ts 0
  let fa := fmtOf (s.ent t.vc)
  let ea : Word := offsetFrom m size ((s.codes t).getD 0 0)
  if fa != 10 && fa != 13 then some (s.illegalVc 2 t.vc)
  else (s.vcFault m).or
    (if fmtBits (fmtOf (s.ent m.vc)) != 8 * size || 48 / size < validLanes fa t then some (s.illegalAt 6 m.vc ea) else none)

/-- The accesses of the lanes, or the first failure. -/
def State.laneAccs (s : State) (st : Strand) (m : FmtM) (size : Nat) : List Nat → Except Exn (List Acc)
  | [] => .ok []
  | c :: t =>
    match s.bankAccess st s.cur.node m.space.toNat (offsetFrom m size c) size size (opcode s.cur.word) with
    | .error x => .error x
    | .ok a => match s.laneAccs st m size t with | .error x => .error x | .ok l => .ok (a :: l)

def State.laneAddrs (s : State) (t : Tok) : List Nat := (s.codes t).take (validLanes (fmtOf (s.ent t.vc)) t)

def execLds (h : Hd) (m : FmtM) (s : State) : Host.Outcome State Fault Refusal :=
  let size := widthOf h
  s.fire h (Slots.of [0] [0]) m.msq.toNat (ifData (laneFault m size)) (fun s ts =>
    let n := s.cur.node
    match s.here with
    | none => .waits
    | some st =>
      if s.notTurn m ts then .waits else
      match s.laneAccs st m size (s.laneAddrs (tk ts 0)) with
      | .error x => .faults x
      | .ok as =>
        if as.any fun a => s.portBusy n a size || s.rmwBusy n m.space a.va size then .waits else
        let f := s.forwarded n (tk ts 0).wave m.msq.toNat true
        let bytes := as.flatMap fun a => (overlay a.addr ⟨memRead s.mem.bank a.addr size, false⟩ f).bytes
        .fires ((s.issue m ts).respond n s.cur.key
          [outBoth (s.loaded m ts ⟨bytes, false⟩ (BitVec.ofNat 7 (as.length - 1)))] false) [])

def execSts (h : Hd) (m : FmtM) (s : State) : Host.Outcome State Fault Refusal :=
  let size := widthOf h
  s.fire h Slots.store m.msq.toNat (ifData (laneFault m size)) (fun s ts =>
    match s.here with
    | none => .waits
    | some st =>
      if s.notTurn m ts then .waits else
      match s.laneAccs st m size (s.laneAddrs (tk ts 0)) with
      | .error x => .faults x
      | .ok as =>
        if (tk ts 1).fl.poi then .faults (bankPoison (offsetFrom m size ((s.codes (tk ts 0)).getD 0 0)))
        else
          -- a lane that slot 1 does not hold is written nowhere (R25)
          let d := s.validBytes (tk ts 1)
          let bytes := (List.range as.length).flatMap fun i =>
            at_ (as.getD i {}) ((d.drop (size * i)).take size)
          let s := s.hold m.msq.toNat (tk ts 0).wave (.store (as.headD {}) bytes false false)
          .fires (s.issue m ts) [outBoth (s.zeroTok ts)])

/-! Read-modify-write words (R30, R281 to R285): they fire, and perform once their instance is settled. -/

/-- Queue a read-modify-write with the tokens it took. -/
def State.queueRmw (s : State) (msq : Nat) (rd : List Nat) (ts : List Tok) (nums : List Nat := []) : State :=
  let n := s.cur.node
  let k := s.cur.key
  let ops := rd.zip ts ++ (match s.slotTok n k 3 with | some t => if bits s.cur.word 48 2 = 0 then [] else [(3, t)] | none => [])
  { s with mem := { s.mem with
      rmwq := s.mem.rmwq ++ [⟨n, k, ops, msq, s.cur.word, s.mem.nextSeq, nums, 0⟩], nextSeq := s.mem.nextSeq + 1 } }

/-- CAS, ENQ and DEQ do not act on a step-shared page (condition 8, R408). -/
def State.sharedFault (s : State) (m : FmtM) (a : Acc) : Option Exn := if a.ss then some (s.illegalVc 8 m.vc) else none

/-- What an atomic keeps of its firing (R87): the entries of its VC and of slots 1 and 2, and the header words over slot 1's lanes (R88). -/
def State.atomNums (s : State) (m : FmtM) (ts : List Tok) : List Nat :=
  let t := tk ts 1
  [(s.ent m.vc).toNat, (s.ent t.vc).toNat, (s.ent (tk ts 2).vc).toNat] ++
    (s.wordsIn s.cur.node 1 t (validLanes (fmtOf (s.ent t.vc)) t)).map (·.toNat)
/-- The entries and words kept. -/
def Rmw.entry (r : Rmw) (i : Nat) : BitVec 32 := BitVec.ofNat 32 (r.nums.getD i 0)
def Rmw.fmt (r : Rmw) : Nat := fmtOf (r.entry 0)
def Rmw.words (r : Rmw) : List (BitVec 32) := (r.nums.drop 3).map (BitVec.ofNat 32)

def State.rmwBody (s : State) (m : FmtM) (size : Nat) (rd : List Nat) (ts : List Tok)
    (check : State → Acc → Option Exn) : Res :=
  match s.here with
  | none => .waits
  | some st =>
    if s.notTurn m ts || s.nodeWaits st s.cur.node m.space (effAddr m size (tk ts 0)) then .waits else
    match s.access st s.cur.node m.space.toNat (effAddr m size (tk ts 0)) size true (opcode s.cur.word) with
    | (.error x, s) => .stops s x
    | (.ok a, s) =>
      match check s a with
      | some x => .faults x
      | none => .fires ((s.queueRmw m.msq.toNat rd ts (s.atomNums m ts)).issue m ts) []

/-- Width of ATOM and CAS (R201). -/
def atomSize (h : Hd) : Nat := if bit h.fn 4 then 8 else 4

/-- R281: S32 or U32, or S64, U64 or raw (condition 2). -/
def atomVc (m : FmtM) (size : Nat) (s : State) (_ : List Tok) : Option Exn :=
  let f := fmtOf (s.ent m.vc)
  if (if size = 4 then f = 9 || f = 10 else f = 12 || f = 13 || f = 0) then none else some (s.illegalVc 2 m.vc)

def execAtom (h : Hd) (m : FmtM) (s : State) : Host.Outcome State Fault Refusal :=
  s.fire h (Slots.of [0, 1] [0, 1]) m.msq.toNat (ifData (atomVc m (atomSize h)))
    (fun s ts => s.rmwBody m (atomSize h) [0, 1] ts fun _ _ => none)
def execCas (h : Hd) (m : FmtM) (s : State) : Host.Outcome State Fault Refusal :=
  s.fire h (Slots.of [0, 1, 2] [0, 1, 2]) m.msq.toNat (ifData (atomVc m (atomSize h)))
    (fun s ts => s.rmwBody m (atomSize h) [0, 1, 2] ts fun s a => s.sharedFault m a)
/-- R283: FP32, BF16, FP16 or F48 (condition 2). -/
def fatomVc (m : FmtM) (s : State) (_ : List Tok) : Option Exn :=
  let f := fmtOf (s.ent m.vc)
  if f = 7 || f = 8 || f = 11 || f = 14 then none else some (s.illegalVc 2 m.vc)
def execFatom (h : Hd) (m : FmtM) (s : State) : Host.Outcome State Fault Refusal :=
  s.fire h (Slots.of [0, 1] [0, 1]) m.msq.toNat (ifData (fatomVc m)) (fun s ts => s.rmwBody m 48 [0, 1] ts fun _ _ => none)
def execDeq (h : Hd) (m : FmtM) (s : State) : Host.Outcome State Fault Refusal :=
  s.fire h (Slots.of [0] [0]) m.msq.toNat noPre (fun s ts => s.rmwBody m 48 [0] ts fun s a => s.sharedFault m a)

/-- ENQ (R285): a store; its entry is written when it performs. -/
def execEnq (h : Hd) (m : FmtM) (s : State) : Host.Outcome State Fault Refusal :=
  s.fire h Slots.store m.msq.toNat noPre (fun s ts =>
    let ea := effAddr m 48 (tk ts 0)
    match s.here with
    | none => .waits
    | some st =>
      if s.notTurn m ts || s.nodeWaits st s.cur.node m.space ea then .waits else
      match s.access st s.cur.node m.space.toNat ea 48 true 0x8A with
      | (.error x, s) => .stops s x
      | (.ok a, s) =>
        if a.ss then .faults (s.illegalVc 8 m.vc)
        else if a.bank && (tk ts 1).fl.poi then .faults (bankPoison ea)
        else
          let s := s.hold m.msq.toNat (tk ts 0).wave (.enq a (s.laneData (tk ts 1)) (tk ts 1).fl.poi)
          .fires (s.issue m ts) [outBoth (s.zeroTok ts)])

/-! Performing (R160, R281 to R285, R383). -/

/-- The memory fault an atomic meets at its home, and the state with the errors it found. -/
def State.atomicFault (s : State) (a : Acc) (len : Nat) : Option Exn × State :=
  if a.bank || a.hmod != s.module then (none, s) else
  match s.accFault a len with
  | some c => (some (memExn c 0 a.va a.addr), s.findErrors (s.secsOf a len))
  | none => (none, s)

/-- ATOM's new value (R281). -/
def atomNew (op w : Nat) (sg : Bool) (old b : Nat) : Nat :=
  let v := fun (x : Nat) => if sg then signed w x else (x : Int)
  if op = 0 then (old + b) % 2 ^ w else if op = 1 then old &&& b else if op = 2 then old ||| b else if op = 3 then old ^^^ b
  else if op = 4 then (if v b < v old then b else old) else if op = 5 then (if v old < v b then b else old) else b

/-- FATOM's new beat (R283): crumbs and reserved codes of memory read as NaN. `e` is its VC's entry, `l` the operand's values.
Memory has no header words, so the old lanes and the result take the entry's SCALE, with HDRM = 1 too (log entry 182). -/
def fatomNew (e : BitVec 32) (op : Nat) (old : Beat) (l : List Val) : Beat :=
  let f := fmtOf e
  let sc := scaleOf e
  packLanes f <| (List.range (fmtLanes f)).map fun i =>
    match l[i]? with
    | none => laneCode f old i
    | some v =>
      let x := floatVal f (laneCode f old i)
      let x := if isScaled f then x.scaled sc else x
      let r := if op = 0 then sumVals (rndOf e) [x, v] else if op = 1 then minVal x v else maxVal x v
      encodeElem f (rndOf e) (satOf e) (if isScaled f then r.unscaled sc else r)

/-- AOP of a buffered atomic (R284). -/
def aopOf (w : BitVec 64) : BitVec 4 :=
  let op := bits w 50 4
  if opcode w = 0x87 then (if op = 6 then 0 else BitVec.ofNat 4 (op + 1)) else (if op = 0 then 1 else if op = 1 then 5 else 6)

/-- Operand lane of an atomic as it fired: code 0 of slot `i`, `bits` wide. -/
def Rmw.lane (r : Rmw) (ts : List Tok) (i w : Nat) : Nat := (codesIn (r.entry i) (tk ts i)).getD 0 0 % 2 ^ w

/-- The new bytes of ATOM, CAS and FATOM from the old bytes. -/
def Rmw.newBytes (r : Rmw) (ts : List Tok) (old : List Byte) : List Byte :=
  let w := r.word
  let size := old.length
  if opcode w = 0x87 then leBytes size (atomNew (bits w 50 4) (8 * size) (isSigned r.fmt) (leNat old) (r.lane ts 1 (8 * size)))
  else if opcode w = 0x88 then (if leNat old = r.lane ts 1 (8 * size) then leBytes size (r.lane ts 2 (8 * size)) else old)
  else bytesOf (fatomNew (r.entry 0) (bits w 50 2) (beatOf old) (valsIn (r.entry 1) r.words (tk ts 1)))

/-- The bytes of an operand that a glaze record carries (R169, R284): a beat's valid lanes, or one lane of an ATOM. -/
def Rmw.operandBytes (r : Rmw) (ts : List Tok) (size : Nat) : List Byte :=
  if opcode r.word != 0x87 then
    let f := fmtOf (r.entry 1)
    (bytesOf (dataIn (r.entry 1) (tk ts 1))).take ((validLanes f (tk ts 1) * fmtBits f + 7) / 8)
  else leBytes size ((codesIn (r.entry 1) (tk ts 1)).getD 0 0)

/-- A CAS of a page whose comparison fails writes nothing (R282). -/
def Rmw.casMisses (r : Rmw) (ts : List Tok) (a : Acc) (old : List Byte) : Bool :=
  !a.bank && opcode r.word = 0x88 && leNat old != r.lane ts 1 (8 * old.length)

/-- A read-modify-write that issued before this one at its port and acts on one of its bytes has not performed (R157). -/
def State.rmwAhead (s : State) (r : Rmw) (ea : Word) (len : Nat) : Bool :=
  s.mem.rmwq.any fun x => samePort x.node r.node && x.seq != r.seq && x.before r && x.touches (fmtM r.word).space ea len &&
    (x.node.ctx = r.node.ctx && x.key = r.key || (match s.strandOf x.node.ctx with | some st => s.settled st x.key | none => false))

/-- The bytes that a read-modify-write of memory acts on, when its access is sound. -/
def State.rmwTarget (s : State) (r : Rmw) : Option (Acc × Nat) :=
  let op := opcode r.word
  let m := fmtM r.word
  let size := if op ≤ 0x88 then (if bit r.word 54 then 8 else 4) else 48
  if !(0x87 ≤ op && op ≤ 0x8B) then none else
  match s.strandOf r.node.ctx with
  | none => none
  | some st =>
    match (s.access st r.node m.space.toNat (effAddr m size ((r.ops.head?.map (·.2)).getD {})) size true op).1 with
    | .ok a => some (a, size)
    | .error _ => none

/-- ATOM, CAS and FATOM perform. On a page of another module that is not step-shared the old value is a free value and nothing is written
(log entry 20). -/
def State.performAtomic (s : State) (r : Rmw) : Res :=
  let w := r.word
  let m := fmtM w
  let ts := (r.ops.filter fun x => x.1 != 3).map (·.2)
  let size := if opcode w = 0x89 then 48 else if bit w 54 then 8 else 4
  match s.here with
  | none => .waits
  | some st =>
    match s.access st r.node m.space.toNat (effAddr m size (tk ts 0)) size true (opcode w) with
    | (.error x, s) => .stops s x
    | (.ok a, s) =>
      if s.pendAhead r.node a size (s.rmwTop r) true || s.rmwAhead r a.va size || s.ahead st a then .waits
      else
        let nl := if opcode w = 0x89 then allLanes r.fmt else 0
        if a.ss then
          if !s.mayRank st.part r.node then .waits else
          match s.atomicFault a size with
          | (some x, s) => .stops s x
          | (none, s) =>
          match s.readHome a size with
          | (none, s) => .stops s (imageExn a.va a)
          | (some b, s) =>
            let (d, k) := sectorData a (r.operandBytes ts size)
            let t := loadedIn w r.fmt (ts.take 1) b nl
            let t := { t with fl := { t.fl with last := (joinFlags ts).last, endf := (joinFlags ts).endf } }
            .fires (s.sendRecord st.part st.step r.node.ctx.die 0 a d k (BitVec.ofNat 5 r.fmt) false (aopOf w)
              ⟨3, r.node, r.key, result w ts 0, t, false, r.seq⟩) []
        else
          match s.atomicFault a size with
          | (some x, s) => .stops s x
          | (none, s) =>
            match s.readHome a size with
            | (none, s) => .stops s (imageExn a.va a)
            | (some b, s) =>
              let new := r.newBytes ts b.bytes
              let s := if r.casMisses ts a b.bytes then s else s.writeHome r.node.ctx.die r.node.ctx.wafer a (at_ a new) false
              .fires s [outBoth (loadedIn w r.fmt ts ⟨b.bytes, b.poi⟩ nl)]

/-- A queue's header (R285): HEAD, TAIL, CAP. -/
def queueHeader (b : List Byte) : Nat × Nat × Nat := (leNat (b.take 8), leNat ((b.drop 8).take 8), leNat ((b.drop 16).take 4))
def entryAcc (a : Acc) (i cap : Nat) : Acc := { a with addr := a.addr + 48 + i % cap * 48, va := a.va + BitVec.ofNat 64 (48 + i % cap * 48) }

/-- An ENQ of the same cell to the queue was released before it and has not performed (R157). -/
def State.enqAhead (s : State) (r : Rmw) (a : Acc) : Bool :=
  s.mem.pend.any fun p => samePort p.node r.node && decide (p.seq < s.rmwTop r) &&
    (match p.eff with | .enq b _ _ => b.bank = a.bank && s.lies b = s.lies a | _ => false)

/-- DEQ performs (R285, R407 condition 9). It waits for an ENQ of its cell that finds room, and for no waiting ENQ. -/
def State.performDeq (s : State) (r : Rmw) : Res :=
  let m := fmtM r.word
  let ts := (r.ops.filter fun x => x.1 != 3).map (·.2)
  match s.here with
  | none => .waits
  | some st =>
    match s.access st r.node m.space.toNat (effAddr m 48 (tk ts 0)) 48 true 0x8B with
    | (.error x, s) => .stops s x
    | (.ok a, s) =>
      if s.pendAhead r.node a 48 (s.rmwTop r) false || s.rmwAhead r a.va 48 || !s.memReady a then .waits
      -- an ENQ that an open record holds keeps every later access to its queue waiting (R416)
      else if s.mem.pend.any fun p => p.stuck && (match p.eff with | .enq b _ _ => b.bank = a.bank && b.addr = a.addr | _ => false) then .waits
      else
        match s.atomicFault a 48 with
        | (some x, s) => .stops s x
        | (none, s) =>
          match s.readHome a 48 with
          | (none, s) => .stops s (imageExn a.va a)
          | (some b, s) =>
            let (head, tail, cap) := queueHeader b.bytes
            if cap = 0 then .faults (s.illegalVc 9 m.vc)
            else if s.enqAhead r a && (tail + 2 ^ 64 - head) % 2 ^ 64 < cap then .waits
            else if tail = head then .fires s [outBoth (nilResult r.word ts)]
            else
              match s.atomicFault (entryAcc a head cap) 48 with
              | (some x, s) => .stops s x
              | (none, s) =>
              match s.readHome (entryAcc a head cap) 48 with
              | (none, s) => .stops s (imageExn a.va (entryAcc a head cap))
              | (some x, s) =>
                let s := s.writeHome r.node.ctx.die r.node.ctx.wafer a (at_ a (leBytes 8 (head + 1))) false
                .fires s [outBoth (loadedIn r.word r.fmt ts x (allLanes r.fmt))]

/-! Fences, cache control, streams, counters (R286 to R291). -/

/-- FNC (R286, R159). -/
def execFnc (h : Hd) (m : FmtM) (s : State) : Host.Outcome State Fault Refusal :=
  s.fire h Slots.trigger m.msq.toNat noPre (fun s ts =>
    if s.notTurn m ts then .waits
    else .fires ((s.hold m.msq.toNat (tk ts 0).wave (.fnc m.scope { s.zeroTok ts with fl := {} } [])).issue m ts) [])

/-- The pages of a range translate (R408: causes 0x30 and 0x31). -/
def State.rangeFault (s : State) (st : Strand) (va : Word) : Nat → Nat → Option Exn × State
  | 0, _ => (none, s)
  | f + 1, left =>
    if left = 0 then (none, s) else
    match s.translate s.cur.node.ctx.die s.cur.node.ctx.wafer st.part st.stamp va false with
    | (.error x, s) => (some x, s)
    | (.ok a, s) =>
      let step := a.base + a.size - a.addr
      s.rangeFault st (va + BitVec.ofNat 64 step) f (left - step)

/-- DFNC (R287). -/
def execDfnc (h : Hd) (m : FmtM) (s : State) : Host.Outcome State Fault Refusal :=
  s.fire h (Slots.of [0, 1] [0, 1]) m.msq.toNat noPre (fun s ts =>
    let ea := effAddr m 192 (tk ts 0)
    let len := lane0 (tk ts 1)
    match s.here with
    | none => .waits
    | some st =>
      if s.notTurn m ts || s.nodeWaits st s.cur.node 0 ea then .waits else
      match s.rangeFault st ea (len / 65536 + 2) len with
      | (some x, s) => .stops s x
      | (none, s) =>
        .fires ((s.hold m.msq.toNat (tk ts 0).wave (.dfnc ea (BitVec.ofNat 64 len) (s.zeroTok ts))).issue m ts) [])

/-- RDCI (R288): acts once settled. Every line that the strand's reads could hit counts as filled before its boundary. -/
def execRdci (h : Hd) (_p : BitVec 30) (s : State) : Host.Outcome State Fault Refusal :=
  s.fire h Slots.trigger 127 noPre (fun s ts => .fires (s.queueRmw 127 [0] ts) [])
def State.performRdci (s : State) (r : Rmw) : Res :=
  let ts := (r.ops.filter fun x => x.1 != 3).map (·.2)
  match s.here with
  | none => .waits
  | some st =>
    let now := s.mem.clock + 1
    .fires { (s.setStrand { st with fills := now }) with mem := { s.mem with clock := now } } [outBoth (result r.word ts 0)]

/-- SARM's descriptor (R149, R408): SPC 000, 001 or 100, reserved bits zero. -/
def goodDesc (d : BitVec 256) : Bool :=
  let spc := bits d 233 3
  (spc = 0 || spc = 1 || spc = 4) && bits d 237 19 = 0 && bits d 208 3 = 0
def execSarm (h : Hd) (x : FmtX) (s : State) : Host.Outcome State Fault Refusal :=
  s.fire h (Slots.of [0] [0]) 127
    (ifData fun _ ts => if goodDesc ((tk ts 0).data.extractLsb' 0 256) then none else some (illegal 0x8C 8))
    (fun s ts => .fires (s.hold 127 (tk ts 0).wave (.sarm (bits x.id 0 4) ((tk ts 0).data.extractLsb' 0 256))) [])

/-- QFNC (R290). -/
def execQfnc (h : Hd) (x : FmtX) (s : State) : Host.Outcome State Fault Refusal :=
  s.fire h Slots.trigger 127 noPre
    (fun s ts => .fires (s.hold 127 (tk ts 0).wave (.qfnc (x.aux.extractLsb' 0 18))) [])

/-! Counters (R291, R22, R152). -/

def routingKey (die i : Nat) : Nat := die * 256 + i
def State.routing (s : State) (die c n : Nat) : Beat :=
  BitVec.ofNat 384 (pack ((List.range n).map fun i => (32 * i, 32, (Tab.get 0 (routingKey die (c + i)) s.eng.routing).toNat)))
def State.stallKey (s : State) (x : FmtX) : Nat :=
  let c := s.cur.node.ctx
  Node.num ⟨⟨c.die, c.wafer, bits x.aux 0 2⟩, bits x.id 0 6 * 2 + bits x.aux 2 1⟩
def counterTok (s : State) (ts : List Tok) (d : Beat) (nl : Nat) : Tok :=
  let t := result s.cur.word ts d
  { t with nlane := if t.fl.nil then t.nlane else BitVec.ofNat 7 nl }

def execCntrRead (h : Hd) (x : FmtX) (s : State) : Host.Outcome State Fault Refusal :=
  s.fire h Slots.trigger 127 noPre (fun s ts =>
    let n := bits x.aux 0 4 + 1
    .fires s [outBoth (counterTok s ts (s.routing s.cur.node.ctx.die x.id.toNat n) (n - 1))])
def execCntrStall (h : Hd) (x : FmtX) (s : State) : Host.Outcome State Fault Refusal :=
  s.fire h Slots.trigger 127 noPre (fun s ts =>
    .fires s [outBoth (counterTok s ts (word64 (Tab.get 0 (s.stallKey x) s.fab.stall).toNat) 0)])
def linkKey (lg i : Nat) : Nat := lg * 8 + i
def execCntrLink (h : Hd) (x : FmtX) (s : State) : Host.Outcome State Fault Refusal :=
  s.fire h Slots.trigger 127 noPre (fun s ts =>
    let lane := fun (i : Nat) => if x.id.toNat < 72 then Tab.get 0 (linkKey x.id.toNat i) s.eng.links else { s with ctr := s.ctr + i }.freeBits 64
    let d := BitVec.ofNat 384 (pack ((List.range 5).map fun i => (64 * i, 64, (lane i).toNat)))
    .fires (if x.id.toNat < 72 then s else { s with ctr := s.ctr + 5 }) [outBoth (counterTok s ts d 5)])

/-- CNTR .snap is a read-modify-write (R30). -/
def execCntrSnap (h : Hd) (_x : FmtX) (s : State) : Host.Outcome State Fault Refusal :=
  s.fire h Slots.trigger 127 noPre (fun s ts => .fires (s.queueRmw 127 [0] ts) [])
def State.performSnap (s : State) (r : Rmw) : Res :=
  let ts := (r.ops.filter fun x => x.1 != 3).map (·.2)
  let x : FmtX := ⟨r.word.extractLsb' 22 8, r.word.extractLsb' 0 22⟩
  let die := r.node.ctx.die
  if bit x.aux 21 then
    let w := Tab.get 0 (s.stallKey x) s.fab.stall
    let s := { s with fab := { s.fab with stall := Tab.put 0 (s.stallKey x) (setBits w 0 42 0) s.fab.stall } }
    .fires s [outBoth (counterTok s ts (word64 w.toNat) 0)]
  else
    let n := bits x.aux 0 4 + 1
    let d := s.routing die x.id.toNat n
    let s := { s with eng := { s.eng with
      routing := (List.range n).foldl (fun t i => Tab.del (routingKey die (x.id.toNat + i)) t) s.eng.routing } }
    .fires s [outBoth (counterTok s ts d (n - 1))]

end Sys2Proof.Machine
end

