-- ==== Sys2Proof/Machine/Access.lean ====
section
/-! DEFINITION. Accesses of engines (R133, R137, R163, R164, R383, R388, R389): a stream engine's, a transfer unit's, the gather network's. -/

namespace Sys2Proof.Machine

/-! Accesses of engines. -/

/-- For whom an engine makes an access. -/
structure Asker where
  die : Nat
  wafer : Nat
  part : Nat
  wafers : List Nat
  stamp : Nat

def Strand.asker (st : Strand) (w : Nat) : Asker := ⟨st.die, w, st.part, st.wafers, st.stamp⟩

/-- An access cut where a page or a bank can end: 64 KiB, or 256 bytes of the scratchpad (R127). -/
def cutAt (g : Nat) (ea : Word) (n : Nat) : List (Word × Nat) :=
  let room := g - ea.toNat % g
  if n ≤ room then [(ea, n)] else [(ea, room), (ea + BitVec.ofNat 64 room, n - room)]

/-- One piece of an access in space 000, 001 or 100. -/
def State.enginePiece (s : State) (u : Asker) (space : Nat) (ea : Word) (n : Nat) (write : Bool) : Except Exn Acc × State :=
  if space = 1 then
    if bits ea 28 36 != 0 || u.wafers.length ≤ bits ea 22 6 then (.error (memExn 0x31 5 ea 0), s) else
    let w := u.wafers.getD (bits ea 22 6) 0
    match s.scratchAcc u.die w (bits ea 0 22) n with
    | none => (.error (memExn 0x31 5 ea 0), s)
    | some (cell, off) =>
      if s.role u.die w cell != 0 then (.error (memExn 0x31 4 ea 0), s)
      else (.ok { bank := true, addr := bankKey u.die w cell off, va := ea, hdie := BitVec.ofNat 3 u.die, hmod := s.module }, s)
  else
    match s.translate u.die u.wafer u.part u.stamp ea write with
    | (.error x, s) => (.error x, s)
    | (.ok a, s) => if space = 4 && !a.cv then (.error (memExn 0x36 1 ea a.addr), s) else (.ok a, s)

def State.enginePieces (s : State) (u : Asker) (space : Nat) (write : Bool) : List (Word × Nat) → Except Exn (List (Acc × Nat)) × State
  | [] => (.ok [], s)
  | (ea, n) :: t =>
    match s.enginePiece u space ea n write with
    | (.error x, s) => (.error x, s)
    | (.ok a, s) =>
      match s.enginePieces u space write t with
      | (.error x, s) => (.error x, s)
      | (.ok l, s) => (.ok ((a, n) :: l), s)

/-- Tables that the translation of a page has to read lie in memory that is not usable yet (R350). -/
def State.askerWaits (s : State) (u : Asker) (va : Word) : Bool :=
  !s.allReady && (s.tlbHit u.die u.wafer u.part u.stamp va).isNone && s.partWalkWaits u.part va

def State.engineAccs (s : State) (u : Asker) (space : Nat) (ea : Word) (n : Nat) (write : Bool) : Got (List (Acc × Nat)) :=
  let l := cutAt (if space = 1 then 256 else 65536) ea n
  if space != 1 && l.any fun p => s.askerWaits u p.1 then .waits else
  match s.enginePieces u space write l with
  | (.error x, s) => .fails x s
  | (.ok l, s) => if l.any fun p => !s.memReady p.1 then .waits else .ok l s

/-- Read pieces: space 100 reads the stored image (R137, R278), the others plain bytes. -/
def State.readPieces (s : State) (space : Nat) : List (Acc × Nat) → Option Bytes × State
  | [] => (some ⟨[], false⟩, s)
  | (a, n) :: t =>
    let s := if space = 4 then s.mayEvict (s.home (a.base + (a.addr - a.base) / 192 * 192)) a.kidx else s
    match s.readHome (if space = 4 then { a with cv := false } else a) n with
    | (none, s) => (none, s)
    | (some b, s) =>
      match s.readPieces space t with
      | (none, s) => (none, s)
      | (some c, s) => (some ⟨b.bytes ++ c.bytes, b.poi || c.poi⟩, s)

/-- An engine's read of `n` bytes; `ahead` says that the requester runs ahead of its module's step (R164). -/
def State.engineRead (s : State) (u : Asker) (ahead : Bool) (space : Nat) (ea : Word) (n : Nat) : Got (Bytes × Acc) :=
  match s.engineAccs u space ea n false with
  | .waits => .waits
  | .fails x s => .fails x s
  | .ok l s =>
    if ahead && l.any fun p => p.1.ss then .waits else
    match s.readPieces space l with
    | (none, s) => .fails (memExn 0x36 2 ea 0) s
    | (some b, s) => .ok (b, (l.map (·.1)).headD {}) s

/-! Writes of engines. -/

/-- One sector of a write to a compressed image (R137, R278): it carries CV = 1, and the L2's plain lines are not touched. -/
def State.writeImage (s : State) (a : Acc) (bytes : List Byte) (poi : Bool) : State :=
  if a.hmod != s.module then s else
  let base := s.home a.base
  let addr := s.home a.addr
  let sec := base + (addr - base) / 48 * 48
  let s := s.mayEvict (base + (addr - base) / 192 * 192) a.kidx
  let s := s.writeSector { a with base := base, addr := addr, cv := false } (base + a.size) sec ((List.range bytes.length).map fun i => (addr + i, bytes.getD i 0)) poi
  if s.mem.poi.contains sec && !poi then s else { s with mem := { s.mem with cvs := addNew s.mem.cvs sec } }

/-- Who performs an engine's operation, and in which step (R170). -/
structure Mover where
  asker : Asker
  task : Nat
  step : BitVec 32
  loc : Loc

/-- One piece: into a bank, a glaze buffer (log entry 56), a compressed image or the home slice. A piece on a page of another module that is
not step-shared is dropped (log entry 20). -/
def State.movePiece (s : State) (m : Mover) (space : Nat) (poi : Bool) (fmt : BitVec 5) (cls : Nat) (p : Acc × List Byte) : State :=
  if p.1.ss && !p.1.bank then
    (bySector p.1 p.2).foldl (fun (s : State) x =>
      let (d, k) := sectorData x.1 x.2
      let s := s.sendRecord m.asker.part m.step m.asker.die cls x.1 d k fmt poi 0 ⟨0, m.loc.node, m.loc.key, {}, {}, false, s.mem.nextSeq⟩
      { s with mem := { s.mem with nextSeq := s.mem.nextSeq + 1 } }) s
  else if space = 4 then (bySector p.1 p.2).foldl (fun (s : State) x => s.writeImage x.1 x.2 poi) s
  else s.writeHome m.asker.die m.asker.wafer p.1 (at_ p.1 p.2) poi

/-- Bytes dealt out to the pieces of an access. -/
def dealOut : List (Acc × Nat) → List Byte → List (Acc × List Byte)
  | [], _ => []
  | (a, n) :: t, bs => (a, bs.take n) :: dealOut t (bs.drop n)

/-- An engine's write; a bank holds no poison mark (R384). -/
def State.engineWrite (s : State) (m : Mover) (space : Nat) (ea : Word) (bytes : List Byte) (poi : Bool) (fmt : BitVec 5) (cls : Nat) : Got Unit :=
  match s.engineAccs m.asker space ea bytes.length true with
  | .waits => .waits
  | .fails x s => .fails x s
  | .ok l s =>
    if l.any fun p => p.1.ss && !p.1.bank && !s.mayRank m.asker.part m.loc.node then .waits
    else if poi && l.any fun p => p.1.bank then .fails { cause := 0x34, code := 0, addr := ea } s
    else if space != 4 && (dealOut l bytes).any fun p => !p.1.ss && s.undecodable p.1 (at_ p.1 p.2) then .fails (memExn 0x36 2 ea 0) s
    else .ok () ((dealOut l bytes).foldl (fun s p => s.movePiece m space poi fmt cls p) s)

/-- For whom the operation works: the strand while it lives, and what the request recorded; its step, or the one it ended in. -/
def State.mover (s : State) (die task part : Nat) (wafers : List Nat) (loc : Loc) (ended : Option (BitVec 32)) : Mover :=
  match ended, s.strand die task with
  | none, some st => ⟨⟨die, loc.node.ctx.wafer, part, wafers, st.stamp⟩, task, st.step, loc⟩
  | e, _ => ⟨⟨die, loc.node.ctx.wafer, part, wafers, s.mem.clock⟩, task, e.getD (s.domain part).step, loc⟩
/-- The mover's strand runs ahead of its module (R164). -/
def State.moverAhead (s : State) (m : Mover) : Bool := m.step != (s.domain m.asker.part).step

/-- Bytes of a row beat's valid lanes (R25), in the VC table of the node's cell. -/
def State.rowBytes (s : State) (n : Node) (t : Tok) : List Byte := ({ s with cur := { s.cur with node := n } } : State).validBytes t
def State.rowFmt (s : State) (n : Node) (t : Tok) : BitVec 5 := BitVec.ofNat 5 (s.fmtAt n t.vc)

end Sys2Proof.Machine
end

