-- ==== Sys2Proof/Machine/Bound.lean ====
section
/-! DEFINITION. The bound monitor (R116 to R119), threshold registers (R117, R118), MAXM bounds (R89) and the accumulation step
of the MAC block (R92). -/

namespace Sys2Proof.Machine

/-- FP32 rounded up and down. -/
def rup (v : Val) : Val := floatVal 11 (encodeFloat 11 .rup false v)
def rdn (v : Val) : Val := floatVal 11 (encodeFloat 11 .rdn false v)
def usable (v : Val) : Bool := match v with | .fin _ _ _ => true | _ => false

/-- The bound a MAXM code gives an element (R89, R119); none when the block is unbounded. -/
def maxmBound (f : Nat) (w : BitVec 32) : Option Val :=
  let m := maxmOf w
  let v := if f = 1 then some (floatVal 4 (m % 128))
    else if f = 2 || f = 3 then some (intVal m)
    else if f = 4 || f = 5 then some (floatVal f (m % 128))
    else if f = 6 then some (intVal (m * 16))
    else if f = 7 || f = 8 then some (floatVal f ((m * 8 + 7) % 2 ^ 15))
    else none
  if m = 0xFFF then none else match v with
    | some x => if usable x then some (x.scaled (sclOf w)) else none
    | none => none

/-- One block's part of R: c × B_q × B_k, or c × (B_q + B_k)², every product and sum rounded up. -/
def boundTerm (nl2 : Bool) (c : Nat) (q k : Val) : Val :=
  if nl2 then
    let t := rup (sumVals .rup [q, k])
    rup (mulVal (intVal c) (rup (mulVal t t)))
  else rup (mulVal (rup (mulVal (intVal c) q)) k)

/-- R over the remaining blocks. -/
def boundSum (nl2 : Bool) : Val → List (Nat × Val × Val) → Val
  | r, [] => r
  | r, (c, q, k) :: t => boundSum nl2 (rup (sumVals .rup [r, boundTerm nl2 c q k])) t

/-- The upper and lower bounds of R119 on the final result, when a check may be made: `s` the partial result, `n` the roundings
still to come. -/
def monitor (nl2 : Bool) (s : Val) (rem : List (Nat × Val × Val)) (n : Nat) : Option (Val × Val) :=
  let r := boundSum nl2 (.fin false 0 0) rem
  let e := rup (mulVal (.fin false n (-39)) (rup (sumVals .rup [s.abs, r])))
  if !(usable s && usable r && usable e) then none else
  some (rup (sumVals .rup (if nl2 then [rup s, e] else [rup s, r, e])), rdn (sumVals .rdn [rdn s, r.neg, e.neg]))

/-! Threshold registers (R117). -/

def thrKey (die wafer t : Nat) : Nat := waferKey die wafer * 8 + t
def State.treg (s : State) (die wafer t : Nat) : BitVec 64 := Tab.get 0 (thrKey die wafer t) s.pl.thr
def tregDir (v : BitVec 64) : Nat := bits v 48 2
def tregVal (v : BitVec 64) : Val := floatVal 14 (bits v 0 48)
def tregEpoch (v : BitVec 64) : Nat := bits v 56 8

/-- An offer (R117). -/
def offered (v : BitVec 64) (o : BitVec 48) : BitVec 64 :=
  let x := floatVal 14 o.toNat
  let better := if tregDir v = 1 then 0 < cmpVal x (tregVal v) else if tregDir v = 2 then cmpVal x (tregVal v) < 0 else False
  if !x.isNaN && !(tregVal v).isNaN && decide better then setBits v 0 48 o.toNat else v

def State.offer (s : State) (die wafer t : Nat) (o : BitVec 48) : State :=
  { s with pl := { s.pl with thr := Tab.put 0 (thrKey die wafer t) (offered (s.treg die wafer t) o) s.pl.thr } }

/-- The threshold a predicate is checked against, when the epoch is the latched one and DIR suits (R116, R118). -/
def threshold (pred : Nat) (epoch : Nat) (v : BitVec 64) : Option Val :=
  if pred ≤ 2 then some (.fin false 0 0)
  else if tregEpoch v != epoch then none
  else if tregDir v = (if pred = 3 || pred = 5 then 1 else 2) then some (tregVal v) else none

/-- The side of the crumb when a test passes (R116, R119): false below, true above. -/
def abandons (pred : Nat) (t : Val) (b : Val × Val) : Option Bool :=
  if !usable t then none
  else if (pred = 0 || pred = 1 || pred = 3 || pred = 5) && cmpVal b.1 t < 0 then some false
  else if (pred = 0 || pred = 2 || pred = 4 || pred = 6) && 0 < cmpVal b.2 t then some true
  else none

/-! Blocks still to come (R88, R119). -/

/-- A latched word with the scale of the elements it covers, which an entry with HDRM = 0 gives: MAXM bounds an element before scaling (R89),
so an element as decoded is held to the bound under its own scale (R377 CODE 0x03). -/
def scaledWord (e w : BitVec 32) : BitVec 32 := if hdrmOf e then w else setBits w 24 8 (scaleOf e)
def Span.of (e : BitVec 32) (start len : Nat) (w : BitVec 32) : Span := ⟨start, len, w, fmtOf e⟩
/-- The bound on the elements of a span (R119). -/
def Span.bound (x : Span) : Option Val := maxmBound x.fmt x.word
def spanLen (l : List Span) : Nat := (l.map (·.len)).foldl (· + ·) 0

/-- The spans from element `pos` on, up to and with the first block marked LOT. -/
def toLot (e : BitVec 32) : List (BitVec 32) → Nat → Nat → Option (List Span)
  | [], _, _ => none
  | w :: ws, start, pos =>
    let stop := start + wordLen w
    if stop ≤ pos then toLot e ws stop pos
    else
      let here := Span.of e start (stop - max start pos) w
      if bit w 15 then some [here] else (toLot e ws stop pos).map (here :: ·)

/-- The spans of the `n` elements from `pos`. -/
def blocksOf (e : BitVec 32) : List (BitVec 32) → Nat → Nat → Nat → List Span
  | [], start, pos, n => if n = 0 then [] else [Span.of e (max start pos) n (entryWord e)]
  | w :: ws, start, pos, n =>
    let stop := start + wordLen w
    if stop ≤ pos then blocksOf e ws stop pos n
    else
      let c := min n (stop - max start pos)
      if n = 0 then [] else Span.of e start c w :: blocksOf e ws stop (max start pos + c) (n - c)

/-- Latched words and the elements consumed under them, of a slot on its token's VC (R88), whatever HDRM says of scales. -/
def State.latched (s : State) (n : Node) (p : Nat) (t : Tok) : List (BitVec 32) × Nat :=
  match s.latchOf n p t.vc with
  | some x => (x.words, x.used)
  | none => ([], 0)

/-- The words that cover the lanes of a token, as bounds (R89, R378). -/
def State.boundWords (s : State) (n : Node) (p : Nat) (t : Tok) (lanes : Nat) : List (BitVec 32) :=
  let e := s.ent t.vc
  let (ws, used) := s.latched n p t
  (List.range lanes).map fun i => scaledWord e (headerAt e ws (used + i))

/-- Remaining spans of two operands as (elements, B_q, B_k): none when one is unbounded or they differ in BLEN. -/
def pairBlocks : List Span → List Span → Option (List (Nat × Val × Val))
  | [], [] => some []
  | a :: t, b :: t' =>
    if a.len != b.len || wordLen a.word != wordLen b.word then none else
    match a.bound, b.bound, pairBlocks t t' with
    | some x, some y, some r => some ((a.len, x, y) :: r)
    | _, _, _ => none
  | _, _ => none

/-- Beats in which `left` elements will come: beats of as many lanes as the one just consumed (log entry 151). -/
def beatsLeft (left lanes : Nat) : Nat := (left + lanes - 1) / lanes

/-- The lowest lane whose magnitude exceeds its block's bound (R377 CODE 0x03). -/
def overBound (f : Nat) (vs : List Val) (ws : List (BitVec 32)) : Option Nat :=
  (List.range vs.length).find? fun i =>
    match maxmBound f (ws.getD i 0x00000FFF) with
    | some b => 0 < cmpVal (vs.getD i .nan).abs b
    | none => false

/-- One accumulation step (R92): the exact sum, rounded once into F48 (RNE, the accumulator's SAT) or S48. -/
def macStep (fo : Nat) (sat : Bool) (acc : Nat) (terms : List Val) : Nat :=
  encodeElem fo .rne sat (sumVals .rne (elemVal fo acc :: terms))

/-- Formats the MAC block takes (R98, R258). -/
def macFmt (f : Nat) : Bool := f = 1 || f = 2 || f = 3 || f = 4 || f = 5 || f = 7

/-- −(x − y)², a zero difference giving −0 (R90). -/
def nl2Term (x y : Val) : Val :=
  let d := sumVals .rne [x, y.neg]
  (mulVal d d).neg

end Sys2Proof.Machine
end

