-- ==== Sys2Proof/Machine/Engines.lean ====
section
/-! DEFINITION. Engine words XFER to COLL, opcodes 0xA0 to 0xA6 (R293 to R298), and the remote words and GLAZE, opcodes 0xD8 to
0xDB (R299 to R301). -/

namespace Sys2Proof.Machine

/-! XPK, XFER (R293, R294). -/

/-- Beat 0 of the packet (R147, R293). -/
def packet (p : BitVec 30) (t : Tok) : Beat :=
  BitVec.ofNat 384 (pack [(246, 2, bits p 28 2), (243, 3, bits p 25 3), (240, 3, bits p 22 3), (237, 3, bits p 19 3),
    (236, 1, bits p 18 1), (224, 12, bits p 6 12), (208, 16, bits t.data 208 16), (192, 16, bits t.data 192 16),
    (128, 64, bits t.data 128 64), (64, 64, bits t.data 64 64), (0, 64, bits t.data 0 64)])
/-- A beat of the packet with all lanes valid: XPK computes nothing, so poison passes with the slot that gives the beat (R384), and a
crumb shows by R82 (log entry 159). -/
def State.xpkBeat (s : State) (ts : List Tok) (src : Tok) (d : Beat) : Tok :=
  let t := result s.cur.word ts d
  let f := fmtOf (s.ent t.vc)
  let t := { t with nlane := allLanes f, fl := { t.fl with poi := src.fl.poi, retry := src.fl.retry } }
  { t with fl := crumbFlags f t }
def execXpk (h : Hd) (p : BitVec 30) (s : State) : Host.Outcome State Fault Refusal :=
  s.fire h ⟨[0, 1], [0, 1], [], [0, 1]⟩ 127 noPre (fun s ts =>
    .fires s [outA (s.xpkBeat ts (tk ts 0) (packet p (tk ts 0))), outB (s.xpkBeat ts (tk ts 1) (tk ts 1).data)])

def execXfer (h : Hd) (x : FmtX) (s : State) : Host.Outcome State Fault Refusal :=
  s.fire h (Slots.of [0, 1] [0, 1]) 127 noPre (fun s ts =>
    .fires (s.hold 127 (tk ts 0).wave (.engine (bits x.id 0 4) (.xfer (tk ts 0).data (tk ts 1).data))) [])

/-! GATH and SCAT (R295): a node collects its request, then holds it. -/

def gathRlen (d : Beat) : Nat := bits d 133 16 + 1
def gathStride (d : Beat) : Nat := bits d 64 64
def gathBase (d : Beat) : Nat := bits d 0 64
def gathRvc (d : Beat) : BitVec 5 := d.extractLsb' 128 5

/-- Index values of an index token's valid lanes; a NIL token holds none. -/
def State.indices (s : State) (t : Tok) : List Nat := if t.fl.nil then [] else s.laneAddrs t

/-! A request as its node keeps it (R87): `toks` are its index tokens, `ctl` its descriptor and row beats with invalid lanes zero, `nums`
whether the LAST index token has come, how many indices there are, the indices, and the length and format of each row beat, all as the firings
read them. -/

def Kept.hasLast (k : Kept) : Bool := k.nums.headD 0 = 1
def Kept.idx (k : Kept) : List Nat := (k.nums.drop 2).take (k.nums.getD 1 0)
def Kept.rowInfo (k : Kept) : List Nat := k.nums.drop (2 + k.nums.getD 1 0)
def Kept.desc (k : Kept) : Beat := (k.ctl.headD {}).data
/-- Row beats that it has, and those it needs. -/
def Kept.rowsHere (k : Kept) : Nat := k.ctl.length - 1
def Kept.rowsNeeded (k : Kept) : Nat := k.idx.length * gathRlen k.desc
def Kept.addIndex (k : Kept) (t : Tok) (l : List Nat) : Kept :=
  let idx := k.idx ++ l
  { k with toks := k.toks ++ [t], nums := b2n t.fl.last :: idx.length :: idx ++ k.rowInfo }
def State.addRow (s : State) (k : Kept) (t : Tok) : Kept :=
  { k with ctl := k.ctl ++ [{ t with data := s.laneData t }], nums := k.nums ++ [(s.validBytes t).length * 32 + fmtOf (s.ent t.vc)] }
def Kept.rows (k : Kept) : List RowBeat :=
  ((k.ctl.drop 1).zip k.rowInfo).map fun x => ⟨(bytesOf x.1.data).take (x.2 / 32), BitVec.ofNat 5 x.2, x.1.fl.poi, x.1.fl.nil⟩
/-- The request is whole: it is put into the commit buffer for the gather engine. -/
def State.askGather (s : State) (scat : Bool) (x : FmtX) (k : Kept) : State :=
  let t := k.toks.headD {}
  (s.unkeep s.cur.node s.cur.key).hold 127 t.wave (.engine 16 (.gath scat x.aux k.desc k.idx k.rows { t with fl := {}, data := 0 }))
def State.gathered (s : State) (scat : Bool) (x : FmtX) (k : Kept) : Res :=
  .fires (if k.hasLast && (!scat || k.rowsNeeded ≤ k.rowsHere) then s.askGather scat x k else s.setKept k) []

/-- One index token taken; the descriptor with SEQ 0. -/
def State.takeIndex (s : State) (h : Hd) (x : FmtX) (scat : Bool) (k0 : Option Kept) : Host.Outcome State Fault Refusal :=
  let n := s.cur.node
  let k := s.cur.key
  let got := (k0.map (·.toks.length)).getD 0
  match s.bySeq n k 0 (BitVec.ofNat 16 got) with
  | none => .next s
  | some s =>
    let rd := if got = 0 then [0, 1] else [0]
    s.fire h ⟨rd, if scat then [0, 1, 2] else [0, 1], rd, []⟩ 127 noPre (fun s ts =>
      s.gathered scat x ((k0.getD ⟨n, k, [tk ts 1], [], []⟩).addIndex (tk ts 0) (s.indices (tk ts 0))))

/-- One row beat of SCAT taken. -/
def State.takeRow (s : State) (h : Hd) (x : FmtX) (kept : Kept) : Host.Outcome State Fault Refusal :=
  match s.bySeq s.cur.node s.cur.key 2 (BitVec.ofNat 16 kept.rowsHere) with
  | none => .next s
  | some s => s.fire h ⟨[2], [0, 1, 2], [], []⟩ 127 noPre (fun s ts => s.gathered true x (s.addRow kept (tk ts 0)))

def execGath (h : Hd) (x : FmtX) (s : State) : Host.Outcome State Fault Refusal :=
  s.takeIndex h x false (s.keptOf s.cur.node s.cur.key)

def execScat (h : Hd) (x : FmtX) (s : State) : Host.Outcome State Fault Refusal :=
  match s.keptOf s.cur.node s.cur.key with
  | none => s.takeIndex h x true none
  | some k0 =>
    if k0.hasLast || (s.bySeq s.cur.node s.cur.key 0 (BitVec.ofNat 16 k0.toks.length)).isNone then s.takeRow h x k0
    else s.takeIndex h x true (some k0)

/-! DCNT, TRDY (R296, R297). -/

def execDcnt (h : Hd) (x : FmtX) (s : State) : Host.Outcome State Fault Refusal :=
  if bit x.aux 15 then
    s.fire h (Slots.of [0] [0]) 127 noPre (fun s ts =>
      .fires (s.hold 127 (tk ts 0).wave (.dcnt (bits x.aux 12 3) (bits x.aux 0 12) (bits (tk ts 0).data 0 16))) [])
  else
    s.fire h Slots.trigger 127 noPre (fun s ts =>
      .fires (s.hold 127 (tk ts 0).wave (.dcnt (bits x.aux 12 3) (bits x.aux 0 12) 1)) [])

/-- The seven operand words of TRDY and SVC. -/
def operandWords (ts : List Tok) : List Word :=
  ((List.range 6).map fun i => BitVec.ofNat 64 (lane64 (tk ts 0) i)) ++ [BitVec.ofNat 64 (lane64 (tk ts 1) 0)]
def execTrdy (h : Hd) (x : FmtX) (s : State) : Host.Outcome State Fault Refusal :=
  s.fire h (Slots.of [0, 1] [0, 1]) 127 noPre (fun s ts =>
    .fires (s.hold 127 (tk ts 0).wave
      (.launch (bits x.aux 12 3) (bits x.aux 0 12) (operandWords ts) (bit x.aux 15) (x.aux.extractLsb' 16 4))) [])

/-! COLL (R298). -/

/-- The vector's format: an integer format other than raw, or a float format (condition 2). -/
def collFault (s : State) (ts : List Tok) : Option Exn :=
  let f := fmtOf (s.ent (tk ts 0).vc)
  if (isInt f && f != 0) || isFloat f then none else some (s.illegalVc 2 (tk ts 0).vc)
def execColl (h : Hd) (x : FmtX) (s : State) : Host.Outcome State Fault Refusal :=
  let n := s.cur.node
  let k := s.cur.key
  let k0 := s.keptOf n k
  match s.bySeq n k 0 (BitVec.ofNat 16 ((k0.map (·.toks.length)).getD 0)) with
  | none => .next s
  | some s =>
    s.fire h (Slots.of [0] [0]) 127 (ifData collFault) (fun s ts =>
      let kept := k0.getD ⟨n, k, [], [], []⟩
      let t := tk ts 0
      let toks := kept.toks ++ [{ t with data := s.laneData t }]
      let ents := kept.nums ++ [(s.ent t.vc).toNat]
      if bits x.aux 0 16 < toks.length then
        .fires ((s.unkeep n k).hold 127 (tk toks 0).wave
          (.engine 17 (.coll x.id.toNat h.fn (tk toks 0).vc (ents.map (BitVec.ofNat 32)) toks))) []
      else .fires (s.setKept { kept with toks := toks, nums := ents }) [])

/-! Remote words (R169, R299, R300). -/

/-- Cause 0x40 (R394). -/
def noBinding (ea : Word) (a : Acc) (lost : Bool) : Exn :=
  { cause := 0x40, code := if lost then 2 else 1, addr := ea,
    detail := BitVec.ofNat 384 (pack [(8, 3, a.hdie.toNat), (0, 8, a.hmod.toNat)]) }

/-- A remote word's access, with its binding when the page lies on another module. -/
def State.remoteAcc (s : State) (st : Strand) (n : Node) (m : FmtM) (ea : Word) (write : Bool) (op : Nat) :
    Except Exn Acc × State :=
  match s.access st n m.space.toNat ea 48 write op with
  | (.error x, s) => (.error x, s)
  | (.ok a, s) =>
    if write && !a.ss then (.error (s.illegalVc 8 m.vc), s)
    else if a.hmod != s.module && (s.binding 0 st.part n.ctx.die a.hmod a.hdie.toNat).isNone then
      (.error (noBinding ea a (s.lostBinding 0 st.part n.ctx.die a.hmod a.hdie.toNat)), s)
    else (.ok a, s)

/-- A completion token's payload: lane 0 = 1 when the write was refused (R395). -/
def completion (t : Tok) (refused : Bool) : Tok := { t with data := BitVec.ofNat 384 (b2n refused) }

/-- A request that waits for its answer from another module. -/
def State.askRemote (s : State) (g : Nat) (a : Acc) (step : BitVec 32) (n : Node) (k : Key) (vc : BitVec 5) (t : Tok) : State :=
  let s := s.sendFlit g (.read s.pod.nextRid a.addr vc step) a.conf
  { s with
    pod := { s.pod with remotes := s.pod.remotes ++ [⟨s.pod.nextRid, n, k, 4, t, false, s.mem.nextSeq, a.conf⟩], nextRid := s.pod.nextRid + 1 }
    mem := { s.mem with nextSeq := s.mem.nextSeq + 1 } }

/-- Slot 1 of RLD only orders (R274). -/
def Slots.rld : Slots := ⟨[0, 1], [0, 1], [0], [0]⟩

def execRld (h : Hd) (m : FmtM) (s : State) : Host.Outcome State Fault Refusal :=
  s.fire h Slots.rld m.msq.toNat noPre (fun s ts =>
    let n := s.cur.node
    let ea := effAddr m 48 (tk ts 0)
    let own := ts.take 1
    match s.here with
    | none => .waits
    | some st =>
      if s.notTurn m ts || s.rmwBusy n m.space ea 48 || s.nodeWaits st n m.space ea then .waits else
      match s.remoteAcc st n m ea false 0xD8 with
      | (.error x, s) => .stops s x
      | (.ok a, s) =>
        if s.ahead st a || s.portBusy n a 48 then .waits
        else if a.hmod != s.module then
          match s.binding 0 st.part n.ctx.die a.hmod a.hdie.toNat with
          | none => .waits
          | some g => .fires ((s.issue m ts).askRemote g a st.step n s.cur.key m.vc (result s.cur.word own 0)) []
        else
          match s.readHome a 48 with
          | (none, s) => .stops s (imageExn ea a)
          | (some b, s) =>
            let t := s.loaded m own (s.underStores m ts a false b) (allLanes (fmtOf (s.ent m.vc)))
            .fires ((s.issue m ts).respond n s.cur.key [outA t, outB (completion (result s.cur.word own 0) false)] false) [])

/-- An RST that follows a GLAZE in its own memory sequence is sent after commit (R299). -/
def State.afterGlaze (s : State) (m : FmtM) : Bool :=
  match s.block s.cur.node.ctx with
  | none => false
  | some b => m.msq != 127 && b.words.any fun w => opcode w = 0xDB && bits w 18 7 < m.msq.toNat

/-- Bytes of valid lanes as a record's data and mask (R171). -/
def State.recordOf (s : State) (a : Acc) (t : Tok) : Beat × BitVec 48 := sectorData a (s.validBytes t)

/-- Data slot 1; slot 2 only orders (R274). `comp` is its class: RATM computes on it. -/
def Slots.rst (comp : List Nat) : Slots := ⟨[0, 1, 2], [0, 1, 2], comp, [0, 1]⟩

def execRst (h : Hd) (m : FmtM) (s : State) : Host.Outcome State Fault Refusal :=
  s.fire h (Slots.rst [0]) m.msq.toNat (fun s ts => ifData (fun s _ => s.vcFault m) s (ts.take 2)) (fun s ts =>
    let ea := effAddr m 48 (tk ts 0)
    match s.here with
    | none => .waits
    | some st =>
      if s.notTurn m ts || s.nodeWaits st s.cur.node m.space ea then .waits else
      match s.remoteAcc st s.cur.node m ea true 0xD9 with
      | (.error x, s) => .stops s x
      | (.ok a, s) =>
        if s.afterGlaze m then
          let (d, k) := s.recordOf a (tk ts 1)
          .fires ((s.hold m.msq.toNat (tk ts 0).wave (.rst a d k (BitVec.ofNat 5 (fmtOf (s.ent m.vc))) (tk ts 1).fl.poi
            (result s.cur.word (ts.take 2) 0))).issue m ts) []
        else .fires ((s.queueRmw m.msq.toNat [0, 1, 2] ts (s.atomNums m ts)).issue m ts) [])

def execRatm (h : Hd) (m : FmtM) (s : State) : Host.Outcome State Fault Refusal :=
  s.fire h (Slots.rst [0, 1]) m.msq.toNat (fun s ts => ifData (fun s _ => s.vcFault m) s (ts.take 2)) (fun s ts =>
    let ea := effAddr m 48 (tk ts 0)
    match s.here with
    | none => .waits
    | some st =>
      if s.notTurn m ts || s.nodeWaits st s.cur.node m.space ea then .waits else
      match s.remoteAcc st s.cur.node m ea true 0xDA with
      | (.error x, s) => .stops s x
      | (.ok _, s) => .fires ((s.queueRmw m.msq.toNat [0, 1, 2] ts (s.atomNums m ts)).issue m ts) [])

/-- RST and RATM are sent when their instance is settled (R299), as they stood at their firing (R87). -/
def State.performRemote (s : State) (r : Rmw) : Res :=
  let m := fmtM r.word
  let ts := (r.ops.filter fun x => x.1 != 3).map (·.2)
  let ratm := opcode r.word = 0xDA
  match s.here with
  | none => .waits
  | some st =>
    match s.remoteAcc st r.node m (effAddr m 48 (tk ts 0)) true (opcode r.word) with
    | (.error x, s) => .stops s x
    | (.ok a, s) =>
      if ratm && s.ahead st a || !s.mayRank st.part r.node then .waits else
      let own := ts.take 2
      let (d, k) := sectorData a (r.operandBytes ts 48)
      let aop : BitVec 4 := if ratm then BitVec.ofNat 4 (bits r.word 50 4) else 0
      let send := fun (s : State) (ans : Tok) =>
        Res.fires (s.sendRecord st.part st.step r.node.ctx.die 0 a d k (BitVec.ofNat 5 r.fmt) ((tk ts 1).fl.poi && !ratm) aop
          ⟨if ratm then 2 else 1, r.node, r.key, result r.word own 0, ans, false, r.seq⟩) []
      if ratm && a.hmod = s.module then
        match s.readHome a 48 with
        | (none, _) => .waits
        | (some b, s) => send s (loadedIn r.word r.fmt own b (allLanes r.fmt))
      else send s (result r.word own 0)

/-- GLAZE (R301, R173): its trigger's flags are ignored. -/
def execGlaze (h : Hd) (m : FmtM) (s : State) : Host.Outcome State Fault Refusal :=
  s.fire h Slots.trigger m.msq.toNat noPre (fun s ts =>
    if s.notTurn m ts then .waits
    else .fires ((s.hold m.msq.toNat (tk ts 0).wave (.glaze { s.zeroTok ts with fl := {} })).issue m ts) [])

end Sys2Proof.Machine
end

