-- ==== Sys2Proof/Machine/Pages.lean ====
section
/-! DEFINITION. Sequence page words, opcodes 0xD0 to 0xD5 (R312 to R318, R390, R391). -/

namespace Sys2Proof.Machine

/-- The sequence address of a word's slot 0 (R133): sequence, head group, position, beat. -/
def pageAddr (ts : List Tok) : Nat × Nat × Nat × Nat := seqAddr (lane0 (tk ts 0))
def withAddr (ts : List Tok) (x : Exn) : Exn := { x with addr := BitVec.ofNat 64 (lane0 (tk ts 0)) }

/-- SPLK (R313): performs when it fires. -/
def execSplk (h : Hd) (m : FmtM) (s : State) : Host.Outcome State Fault Refusal :=
  s.fire h (Slots.of [0] [0]) m.msq.toNat noPre (fun s ts =>
    let n := s.cur.node
    let (sq, hg, pos, _) := pageAddr ts
    if s.notTurn m ts || s.seqBusy || s.seqStuck sq then .waits else
    match (resolvePos sq hg pos).got s with
    | .waits => .waits
    | .fails x s => .stops s (withAddr ts x)
    | .ok none s => .fires ((s.issue m ts).respond n s.cur.key [outBoth (nilResult s.cur.word ts)] false) []
    | .ok (some (page, va, _, _)) s =>
      match (readDesc page).got s with
      | .waits => .waits
      | .fails x s => .stops s (withAddr ts x)
      | .ok d s =>
        let data := BitVec.ofNat 384 (pack [(0, 64, va), (64, 64, page), (128, 64, refcOf d)])
        .fires ((s.issue m ts).respond n s.cur.key [outBoth { result s.cur.word ts data with nlane := 2 }] false) [])

/-- SPAP (R314, R390): every check of the port is made when it issues. -/
def execSpap (h : Hd) (m : FmtM) (s : State) : Host.Outcome State Fault Refusal :=
  s.fire h Slots.store m.msq.toNat noPre (fun s ts =>
    let n := s.cur.node
    let (sq, hg, pos, b) := pageAddr ts
    let t := tk ts 1
    if s.notTurn m ts || s.seqBusy || s.seqStuck sq then .waits else
    match (appendCheck n s.cur.key sq hg pos b).got s with
    | .waits => .waits
    | .fails x s => .stops s (withAddr ts x)
    | .ok (page, a) s =>
      let s := s.hold m.msq.toNat (tk ts 0).wave (.spap ⟨sq, hg, pos, b, s.laneData t, (s.validBytes t).length, page, t.fl.poi, t.fl.last,
        if a.ss then none else some a.addr⟩)
      .fires (s.issue m ts) [outBoth (s.zeroTok ts)])

/-- SPFK (R315): once settled, and not while a page it would share is pinned (R390). -/
def execSpfk (h : Hd) (_p : BitVec 30) (s : State) : Host.Outcome State Fault Refusal :=
  s.fire h (Slots.of [0] [0]) 127 noPre (fun s ts => .fires (s.queueRmw 127 [0] ts) [])
def State.performSpfk (s : State) (r : Rmw) : Res :=
  let ts := (r.ops.filter fun x => x.1 != 3).map (·.2)
  let a := bits (tk ts 0).data 0 20
  let b := bits (tk ts 0).data 32 20
  if s.seqBusy || s.seqStuck a || s.seqStuck b then .waits else
  match (forkPinned a).got s with
  | .waits => .waits
  | .fails x s => .stops s x
  | .ok true _ => .waits
  | .ok false s =>
    match (forkSeq a b).got s with
    | .waits => .waits
    | .fails x s => .stops s x
    | .ok (depth, flat) s => .fires s [outBoth (result r.word ts (BitVec.ofNat 384 (pack [(0, 3, depth), (8, 1, b2n flat)])))]

/-- SPRL (R316). -/
def execSprl (h : Hd) (_p : BitVec 30) (s : State) : Host.Outcome State Fault Refusal :=
  s.fire h (Slots.of [0] [0]) 127 noPre (fun s ts => .fires (s.queueRmw 127 [0] ts) [])
def State.performSprl (s : State) (r : Rmw) : Res :=
  let ts := (r.ops.filter fun x => x.1 != 3).map (·.2)
  if s.seqBusy || s.seqStuck (bits (tk ts 0).data 0 20) then .waits else
  match (releaseSeq (bits (tk ts 0).data 0 20)).got s with
  | .waits => .waits
  | .fails x s => .stops s x
  | .ok n s => .fires s [outBoth (result r.word ts (BitVec.ofNat 384 (n % 2 ^ 32)))]

/-- SPWN (R317) and SPRG (R318): stores. -/
def execSpwn (h : Hd) (p : BitVec 30) (s : State) : Host.Outcome State Fault Refusal :=
  s.fire h (Slots.of [0] [0]) 127 noPre (fun s ts =>
    .fires (s.hold 127 (tk ts 0).wave (.spwn (bits p 0 8) (BitVec.ofNat 64 (lane0 (tk ts 0))))) [outBoth (s.zeroTok ts)])
def execSprg (h : Hd) (p : BitVec 30) (s : State) : Host.Outcome State Fault Refusal :=
  s.fire h (Slots.of [0] [0]) 127 noPre (fun s ts =>
    .fires (s.hold 127 (tk ts 0).wave (.sprg (bits (tk ts 0).data 0 32) (bit p 0))) [outBoth (s.zeroTok ts)])

end Sys2Proof.Machine
end

