-- ==== Sys2Proof/Machine/System.lean ====
section
/-! DEFINITION. System words, opcodes 0xE0 to 0xEC (R319 to R329, R358, R409). -/

namespace Sys2Proof.Machine

/-- The present firing's instance is settled (R227). -/
def State.hereSettled (s : State) : Bool :=
  match s.here with
  | none => false
  | some st => s.settled st s.cur.key

/-- A read-modify-write of the present instance has performed (R358: RERUN). -/
def State.markRmw (s : State) (n : Node) (k : Key) (wave : BitVec 16) : State :=
  match s.strandOf n.ctx with
  | none => s
  | some st => s.setStrand ((st.touch n.ctx k wave).onInst n.ctx k fun x => { x with rmw := true })

/-! TRAP, BKPT (R320, R409): cause 0x01 or 0x02 once settled. -/

def trapExn (cause : BitVec 8) (p : BitVec 30) : Exn := { cause := cause, code := p.extractLsb' 0 16 }
def execTrap (h : Hd) (p : BitVec 30) (s : State) : Host.Outcome State Fault Refusal :=
  s.fire h Slots.trigger 127 noPre (fun s _ => if s.hereSettled then .faults (trapExn 1 p) else .waits)
def execBkpt (h : Hd) (p : BitVec 30) (s : State) : Host.Outcome State Fault Refusal :=
  s.fire h Slots.trigger 127 noPre (fun s _ => if s.hereSettled then .faults (trapExn 2 p) else .waits)

/-! SVC (R321). -/

/-- The caller word of K6. -/
def callerWord (task : Nat) (n : Node) (k : Key) : Word :=
  BitVec.ofNat 64 (pack [(24, 8, k.tag.toNat), (21, 3, k.lvl.toNat), (15, 6, n.ctx.wafer), (12, 3, n.ctx.die), (0, 12, task)])
def execSvc (h : Hd) (p : BitVec 30) (s : State) : Host.Outcome State Fault Refusal :=
  s.fire h (Slots.of [0] [0]) 127 noPre (fun s ts =>
    match s.here with
    | none => .waits
    | some st =>
      let ops := ((List.range 6).map fun i => BitVec.ofNat 64 (lane64 (tk ts 0) i)) ++ [callerWord st.task s.cur.node s.cur.key]
      .fires (s.hold 127 (tk ts 0).wave (.launch (bits p 12 3) (bits p 0 12) ops false 0)) [])

/-! Special registers (R322). -/

/-- The value of a special register; a code the table does not give has a free value (no load lets it fire, R406). -/
def State.specialReg (s : State) (st : Strand) (c : Ctx) (code : Nat) : Nat :=
  match code with
  | 0x00 => st.step.toNat
  | 0x01 => pack [(0, 2, c.slot), (2, 2, st.slots.findIdx (· == c.slot))]
  | 0x02 => (s.prioIn s.cur.node).toNat
  | 0x03 => s.host.time.toNat
  | 0x04 => c.die
  | 0x05 => pack [(0, 8, s.module.toNat), (8, 5, Config.podNumber.toNat)]
  | 0x06 => pack [(0, 6, c.wafer), (6, 6, st.local c.wafer)]
  | 0x07 => pack [(0, 12, st.task), (12, 3, st.die)]
  | 0x08 => st.fault.toNat
  | 0x09 => s.host.ready.toNat
  | _ => if 0x10 ≤ code && code ≤ 0x17 then (s.treg c.die c.wafer (code - 0x10)).toNat else (s.freeBits 64).toNat

def execRdsr (h : Hd) (p : BitVec 30) (s : State) : Host.Outcome State Fault Refusal :=
  s.fire h Slots.trigger 127 noPre (fun s ts =>
    match s.here with
    | none => .waits
    | some st =>
      let t := result s.cur.word ts (word64 (s.specialReg st s.cur.node.ctx (bits p 0 8)))
      .fires s.spent [outBoth { t with nlane := if t.fl.nil then t.nlane else 0 }])

/-- WRSR (R322, R117): held; DIR = 11 is cause 0x23, CODE 0x0001 (R379). -/
def execWrsr (h : Hd) (p : BitVec 30) (s : State) : Host.Outcome State Fault Refusal :=
  s.fire h (Slots.of [0] [0]) 127 noPre (fun s ts =>
    let v := (tk ts 0).data.extractLsb' 0 64
    if bits v 48 2 = 3 then .faults { cause := 0x23, code := 1 }
    else .fires (s.hold 127 (tk ts 0).wave (.wrsr (bits p 0 3) v)) [])

/-! CPRI, YLD, DONE (R323, R324, R328). -/

def execCpri (h : Hd) (p : BitVec 30) (s : State) : Host.Outcome State Fault Refusal :=
  s.fire h Slots.trigger 127 noPre
    (fun s ts => .fires (s.hold 127 (tk ts 0).wave (.cpri (p.extractLsb' 0 4) (bit p 4))) [])

/-- YLD: its token waits n cycles; YLD_RELEASE passes it on. -/
def execYld (h : Hd) (p : BitVec 30) (s : State) : Host.Outcome State Fault Refusal :=
  s.fire h (Slots.carry [0]) 127 noPre (fun s ts =>
    .fires { s with fab := { s.fab with
      yielded := s.fab.yielded ++ [⟨s.cur.node, s.cur.key, tk ts 0, bits p 0 16⟩] } } [])

def execDone (h : Hd) (p : BitVec 30) (s : State) : Host.Outcome State Fault Refusal :=
  s.fire h Slots.trigger 127 noPre
    (fun s ts => .fires (s.hold 127 (tk ts 0).wave (.done (if bit p 12 then some (bits p 0 12) else none))) [])

/-! STEAL, SPLT (R325, R326, R74, R75). -/

/-- A NIL token made from a request or trigger. -/
def emptied (t : Tok) : Tok := { t with fl := { nil := true }, data := 0 }
/-- A range token: U32 lane 0 lo, lane 1 hi. -/
def rangeTok (t : Tok) (r : Option (Nat × Nat)) : Tok :=
  match r with
  | none => emptied t
  | some (lo, hi) => { t with fl := {}, data := BitVec.ofNat 384 (pack [(0, 32, lo), (32, 32, hi)]), nlane := 1 }

def execSteal (h : Hd) (x : FmtX) (s : State) : Host.Outcome State Fault Refusal :=
  s.fire h Slots.trigger 127 noPre (fun s ts =>
    if !s.hereSettled then .waits else
    let n := s.cur.node
    let k := s.cur.key
    let t := result s.cur.word ts 0
    let s' := s.markRmw n k (tk ts 0).wave
    match s.strand (bits x.aux 12 3) (bits x.aux 0 12) with
    | none =>
      if s.saved.any fun v => v.strand.is (bits x.aux 12 3) (bits x.aux 0 12) then .waits else .fires s' [outA (emptied t)]
    | some holder =>
      if 16 ≤ holder.steals.length then .waits
      else .fires (s'.onStrand holder.die holder.task fun y => { y with steals := y.steals ++ [⟨n, 0, k, { t with fl := {} }⟩] }) [])

/-- The range register as cur and hi. -/
def rangeOf (v : Word) : Nat × Nat := (bits v 0 32, bits v 32 32)
def rangeWord (cur hi : Nat) : Word := BitVec.ofNat 64 (pack [(0, 32, cur), (32, 32, hi)])
/-- R74: what the thief receives, and the register after. -/
def splitRange (g : Nat) (v : Word) : Option (Nat × Nat) × Word :=
  let (cur, hi) := rangeOf v
  if hi - cur < 2 * g then (none, v)
  else
    let mid := cur + (hi - cur + 1) / 2
    (some (mid, hi), rangeWord cur mid)
/-- The claim of c indices; NIL when none is left. -/
def claimRange (c : Nat) (v : Word) : Option (Nat × Nat) × Word :=
  let (cur, hi) := rangeOf v
  if hi ≤ cur then (none, v)
  else
    let e := min (cur + c) hi
    (some (cur, e), rangeWord e hi)

/-- The next queued request reaches slot 0 of a steal-form SPLT whose slot is empty, for a settled instance (log entry 52). -/
def State.deliverSteal (s : State) (n : Node) (k : Key) : State :=
  match s.strandOf n.ctx with
  | none => s
  | some st =>
    match st.steals with
    | [] => s
    | r :: _ =>
      if (s.fab.ostore.any fun t => t.node = n && t.port = 0) || !s.runnable n k || !s.settled st k then s
      else { s with fab := { s.fab with ostore := s.fab.ostore ++ [⟨n, 0, k, { r.tok with age := 0 }⟩] } }

/-- Set a carry register of the present strand. -/
def State.setCarry (s : State) (die task r : Nat) (v : Word) : State :=
  s.onStrand die task fun x => { x with k := Tab.put 0 r v x.k }

def execSpltSteal (h : Hd) (p : BitVec 30) (s : State) : Host.Outcome State Fault Refusal :=
  (s.deliverSteal s.cur.node s.cur.key).fire h (Slots.of [0] [0]) 127 noPre (fun s ts =>
    let r := bits p 16 5
    match s.here with
    | none => .waits
    | some st =>
      if !s.settled st s.cur.key then .waits else
      match st.steals with
      | [] => .fires s [outA (emptied (tk ts 0))]
      | q :: rest =>
        let (out, v) := splitRange (bits p 0 16) (Tab.get 0 r st.k)
        let s := (s.setCarry st.die st.task r v).markRmw s.cur.node s.cur.key (tk ts 0).wave
        let s := s.onStrand st.die st.task fun x => { x with steals := rest }
        .fires (s.respond q.node q.key [outA (rangeTok q.tok out)] false) [outA (rangeTok (tk ts 0) out)])

def execSpltClaim (h : Hd) (p : BitVec 30) (s : State) : Host.Outcome State Fault Refusal :=
  s.fire h (Slots.of [0] [0]) 127 noPre (fun s ts =>
    let r := bits p 16 5
    let c := lane0 (tk ts 0)
    match s.here with
    | none => .waits
    | some st =>
      if !s.settled st s.cur.key then .waits
      else if c = 0 then .faults (illegal 0xE8 8)
      else
        let (out, v) := claimRange c (Tab.get 0 r st.k)
        let s := (s.setCarry st.die st.task r v).markRmw s.cur.node s.cur.key (tk ts 0).wave
        .fires s [outA (rangeTok (result s.cur.word ts 0) out)])

/-! PERF (R327): the events since the last read are free (log entry 53). -/

def perfKey (die i : Nat) : Nat := die * 256 + i
def State.perfRead (s : State) (die i : Nat) : BitVec 64 × State :=
  let v := Tab.get 0 (perfKey die i) s.eng.perf + s.freeBits 64
  (v, { s.spent with eng := { s.eng with perf := Tab.put 0 (perfKey die i) v s.eng.perf } })
def execPerf (h : Hd) (x : FmtX) (s : State) : Host.Outcome State Fault Refusal :=
  s.fire h Slots.trigger 127 noPre (fun s ts =>
    let die := s.cur.node.ctx.die
    if bit x.aux 0 && !s.hereSettled then .waits
    else
      let (v, s) := s.perfRead die x.id.toNat
      let s := if bit x.aux 0 then
          { s.markRmw s.cur.node s.cur.key (tk ts 0).wave with
            eng := { s.eng with perf := Tab.put 0 (perfKey die x.id.toNat) 0 s.eng.perf } } else s
      .fires s [outBoth (result s.cur.word ts (word64 v.toNat))])

/-! FRD, RESM (R329, R356, R358). -/

/-- A beat of the record at SR.FAULT, a free value where it cannot be read (log entry 54); none while its memory is not usable (R350). -/
def State.recordBeat (s : State) (st : Strand) (b : Nat) : Option (Beat × State) :=
  if 4 ≤ b then some (0, s) else
  let c := s.cur.node.ctx
  let va := st.fault + BitVec.ofNat 64 (48 * b)
  if s.walkWaits c.die c.wafer st va then none else
  match s.translate c.die c.wafer st.part st.stamp va false with
  | (.error _, s) => some (s.freeBits 384, s.spent)
  | (.ok a, s) =>
    if !s.memReady a then none else
    match s.readHome a 48 with
    | (none, s) => some (s.freeBits 384, s.spent)
    | (some r, s) => some (beatOf r.bytes, s)
def execFrd (h : Hd) (p : BitVec 30) (s : State) : Host.Outcome State Fault Refusal :=
  s.fire h Slots.trigger 127 noPre (fun s ts =>
    match s.here with
    | none => .waits
    | some st =>
      if st.fault = 0 then .fires s [outBoth (nilResult s.cur.word ts)]
      else
        match s.recordBeat st (bits p 0 4) with
        | none => .waits
        | some (d, s) => .fires s [outBoth (result s.cur.word ts d)])

def execResm (h : Hd) (_p : BitVec 30) (s : State) : Host.Outcome State Fault Refusal :=
  s.fire h (Slots.of [0] [0]) 127 noPre (fun s ts =>
    let a := (tk ts 0).data
    .fires (s.hold 127 (tk ts 0).wave (.resm (a.extractLsb' 0 64) (a.extractLsb' 64 2) (bit a 66))) [])

end Sys2Proof.Machine
end

