-- ==== Sys2Proof/Machine/Strands.lean ====
section
/-! DEFINITION. Shared operations on strands: dependence counters and launches (R57 to R60), killing instances (R35, R227),
the phase's level-0 instance (R37), arming stream engines (R149), starting a phase (R51) and the end of a strand (R328). -/

namespace Sys2Proof.Machine

/-! The task table (R55). -/

def State.taskEntry (s : State) (die task : Nat) : BitVec 256 := Tab.get 0 (taskKey die task) s.sch.tasks
def entDc (e : BitVec 256) : Nat := bits e 40 12
def entPart (e : BitVec 256) : Nat := bits e 34 6
def entSlots (e : BitVec 256) : Nat := bits e 32 2 + 1
def entWafers (e : BitVec 256) : Nat := bits e 26 6 + 1
def entSquare (e : BitVec 256) : Bool := bit e 25
def entPrio (e : BitVec 256) : BitVec 4 := e.extractLsb' 21 4
def entSave (e : BitVec 256) : Word := e.extractLsb' 128 64
def entSqpc (e : BitVec 256) : Word := e.extractLsb' 64 64

/-! Counters and ready records (R56 to R60). -/

/-- A die has a free ready record. -/
def State.recordFree (s : State) (die : Nat) : Bool :=
  decide ((s.sch.ready.filter fun r => r.1 = die).length < Config.readyRecords)

/-- The record of a launch: the operand area is copied into it (R59). -/
def State.launchRecord (s : State) (die task : Nat) : Ready :=
  let o := Tab.get {} (taskKey die task) s.sch.ops
  let p := if o.priov then o.prio else entPrio (s.taskEntry die task)
  ⟨task, p, (List.range 7).map fun i => o.ops.getD i 0, false, 0⟩
/-- make_ready (R59). -/
def State.makeReady (s : State) (die task : Nat) : State :=
  { s with sch := { s.sch with ready := s.sch.ready ++ [(die, s.launchRecord die task)] } }
/-- A record is queued at once, or waits for a free one (R60). -/
def State.queueReady (s : State) (die : Nat) (r : Ready) : State :=
  if s.recordFree die then { s with sch := { s.sch with ready := s.sch.ready ++ [(die, r)] } }
  else { s with sch := { s.sch with heldReady := s.sch.heldReady ++ [(die, r)] } }

/-- Does a decrement of this counter have to be held for a free record (R60)? -/
def State.mustHold (s : State) (die d amt : Nat) : Bool :=
  let v := Tab.get 0 (taskKey die d) s.sch.counters
  bit v 63 && bits v 0 16 ≤ amt && !s.recordFree die

/-- One decrement, applied whole (R57). -/
def State.decrementNow (s : State) (die d amt : Nat) : State :=
  let v := Tab.get 0 (taskKey die d) s.sch.counters
  let set := fun (s : State) (v : BitVec 64) =>
    { s with sch := { s.sch with counters := Tab.put 0 (taskKey die d) v s.sch.counters } }
  if !bit v 63 then s
  else if bits v 0 16 ≤ amt then
    let v' := setBits v 0 16 (bits v 32 16)
    set (s.makeReady die (bits v 48 12)) (if bits v 32 16 = 0 then setBits v' 63 1 0 else v')
  else set s (setBits v 0 16 (bits v 0 16 - amt))

/-- A decrement reaches the scheduler: held behind an earlier held one of its counter, or for a free record (R60). -/
def State.decrement (s : State) (die d amt : Nat) : State :=
  if amt = 0 then s
  else if (s.sch.held.any fun h => h.1 = die && h.2.1 = d) || s.mustHold die d amt then
    { s with sch := { s.sch with held := s.sch.held ++ [(die, d, amt)] } }
  else s.decrementNow die d amt

/-- Held decrements in order, each applied unless it, or an earlier one of its counter, must still wait. -/
def State.applyHeld (s : State) : List (Nat × Nat × Nat) → State
  | [] => s
  | (die, d, amt) :: t =>
    if (s.sch.held.any fun h => h.1 = die && h.2.1 = d) || s.mustHold die d amt then
      ({ s with sch := { s.sch with held := s.sch.held ++ [(die, d, amt)] } } : State).applyHeld t
    else (s.decrementNow die d amt).applyHeld t

/-- Records that wait for a free one (R357, R405), then the held decrements. -/
def State.recordFreed (s : State) : State :=
  let s := s.sch.heldReady.foldl (fun (s : State) r => s.queueReady r.1 r.2) { s with sch := { s.sch with heldReady := [] } }
  ({ s with sch := { s.sch with held := [] } } : State).applyHeld s.sch.held

/-- A launch (R59): the operand area, then a decrement of the task's DC. -/
def State.launch (s : State) (die task : Nat) (ops : List Word) (priov : Bool) (prio : BitVec 4) : State :=
  let s := { s with sch := { s.sch with ops := Tab.put {} (taskKey die task) ⟨ops, priov, prio⟩ s.sch.ops } }
  s.decrement die (entDc (s.taskEntry die task)) 1

/-- A ready record of a handler (R357): priority 15, K0 the record's address. -/
def State.queueHandler (s : State) (die task : Nat) (va : Word) : State :=
  s.queueReady die ⟨task, 15, va :: List.replicate 6 0, false, va⟩

/-! Contexts of a strand. -/

/-- Wafer slot of a strand-local slot (R52). -/
def Strand.slotOf (st : Strand) (j : Nat) : Nat := st.slots.getD j 0
/-- Contexts of a strand-local slot, in wafer-set order. -/
def Strand.ctxs (st : Strand) (j : Nat) : List Ctx := st.wafers.map fun w => ⟨st.die, w, st.slotOf j⟩
def Strand.allCtxs (st : Strand) : List Ctx := st.wafers.flatMap fun w => st.slots.map fun x => ⟨st.die, w, x⟩

/-! Removing what instances hold outside the strand's record. -/

/-- Operations of a port that have not been released by a commit. -/
def PortOp.unreleased : PortOp → Bool
  | .kqry .. => true
  | .kcnt _ => true
  | _ => false

/-- What instances hold in the memories, ports, tiles and nodes is given up. -/
def State.purge (s : State) (c : Ctx → Bool) (k : Key → Bool) : State :=
  let hit := fun (n : Node) (j : Key) => c n.ctx && k j
  let pinned := s.pages.pinned.filter fun p => !hit p.2.1 p.2.2
  let pins := fun (page : Nat) => pinned.any fun p => p.1 = page
  let feed := fun (x : Store) => match x.feed with
    | some (n, j, _, _) => if hit n j then { x with feed := none } else x
    | none => x
  { s with
    mem := { s.mem with rmwq := s.mem.rmwq.filter fun r => !hit r.node r.key },
    mat := { s.mat with
      reserved := s.mat.reserved.filter (fun r => !hit r.2.1 r.2.2),
      offers := s.mat.offers.filter (fun o => match o.who with | some (n, j) => !hit n j | none => true),
      portq := s.mat.portq.filter (fun q => !(q.op.unreleased && hit q.node q.key)),
      merging := s.mat.merging.filter (fun x => !hit x.node x.key),
      stores := s.mat.stores.map (fun e => (e.1, feed e.2)) },
    pages := { s.pages with
      pinned := pinned,
      taken := s.pages.taken.filter (fun t => pins t.1),
      free := s.pages.free ++ (s.pages.taken.filter fun t => !pins t.1).map (·.1) },
    tiles := s.tiles.map fun e =>
      let here := fun (x : Nat) => c ⟨e.1 / 64, e.1 % 64, x⟩
      (e.1, { e.2 with tags := e.2.tags.filter (fun t => !(here t.slot && k t.key)),
                       decls := e.2.decls.filter (fun d => !(here d.1 && k d.2.1)) }),
    fab := { s.fab with
      kept := s.fab.kept.filter (fun x => !hit x.node x.key),
      yielded := s.fab.yielded.filter (fun x => !hit x.node x.key),
      mrgo := s.fab.mrgo.map fun m => if c m.node.ctx then { m with win := m.win.filter fun t => !k t.key } else m },
    flt := { s.flt with regs := s.flt.regs.filter fun r => !hit r.node r.key } }

/-! Killing (R35, R227). -/

/-- The keys and every instance allocated on their behalf, deeper level by deeper level. -/
def Strand.withChildren (st : Strand) : Nat → List Key → List Key
  | 0, ks => ks
  | f + 1, ks =>
    let kids := (List.range 8).flatMap fun l => ((st.level l).tags.filter fun t =>
      !t.dead && (match t.parent with | some p => ks.contains p | none => false)).map fun t =>
        Key.mk (BitVec.ofNat 3 l) t.tag t.gen
    st.withChildren f (ks ++ kids.filter fun j => !ks.contains j)

/-- Kill instances and their children: their held effects are discarded, their tokens are stale, their levels owe an advance.
An open return tail is never killed (R292). -/
def State.kill (s : State) (die task : Nat) (ks : List Key) : State :=
  match s.strand die task with
  | none => s
  | some st =>
    let all := (st.withChildren 8 ks).filter fun j => !st.tailOpen j
    if all.isEmpty then s else
    let st := all.foldl (fun (st : Strand) j =>
      let st := st.onTag j fun t => { t with dead := true }
      st.setLevel j.lvl.toNat { st.level j.lvl.toNat with adv := true }) st
    let st := { st with insts := st.insts.filter (fun x => !all.contains x.key),
                        reqs := st.reqs.filter (fun r => !all.contains r.key) }
    (s.setStrand st).purge st.has all.contains

/-- Live instances of a level that come after one in allocation order. -/
def Strand.younger (st : Strand) (k : Key) : List Key :=
  ((st.level k.lvl.toNat).tags.drop (st.order k + 1)).filterMap fun t =>
    if t.dead || t.gone then none else some ⟨k.lvl, t.tag, t.gen⟩

/-! The level-0 instance of a phase (R37). -/

/-- A new level-0 instance for the coming phase, once no level owes an advance: every tag is back in its pool. Which tag it takes
is free. -/
def State.renew (s : State) (die task : Nat) : State :=
  match s.strand die task with
  | none => s
  | some st =>
    if st.l0.isSome || st.levels.any (·.adv) then s else
    let levels := st.levels.map fun l => { l with tags := [], free := false, closed := false, first := none, w0 := none, tagf := none }
    let k : Key := ⟨0, s.freeBits 8, (st.level 0).gen⟩
    let l0 := levels.getD 0 Level.fresh
    let st := { st with levels := levels, l0 := some k, l0done := [] }
    s.spent.setStrand (st.setLevel 0 { l0 with tags := [⟨k.tag, k.gen, none, false, none, false, false, false, ⟨st.die, st.lead, 0⟩⟩], first := some k, w0 := some 0 })

/-! Streams (R149). -/

/-- A walk begins. -/
def startWalk (d : BitVec 256) (k : Key) (slot task : Nat) : Stream :=
  { desc := d, armed := true, key := some k, slot := slot, task := task }
/-- Arm an engine: while a walk has not delivered its final beat, the descriptor is pending. -/
def State.armStream (s : State) (die wafer e : Nat) (d : BitVec 256) (k : Key) (slot task : Nat) : State :=
  let x := s.stream die wafer e
  s.setStream die wafer e
    (if x.armed && !x.fin then { x with pending := some (d, k, slot, task) } else startWalk d k slot task)
/-- Some engine of this number on the strand's wafers holds a pending descriptor. -/
def State.streamPending (s : State) (st : Strand) (e : Nat) : Bool :=
  st.wafers.any fun w => (s.stream st.die w e).pending.isSome

/-! Exact faults (R353). -/

/-- Faults of the strand whose instance is the oldest of its level, its parent settled: they take effect in this cycle, unless the
strand is frozen already. -/
def State.effective (s : State) (st : Strand) : List FaultReg :=
  s.flt.regs.filter fun r => st.has r.node.ctx && st.liveAt r.node.ctx r.key && st.oldest r.key && s.parentSettled st r.key
/-- The strand has to freeze before anything else happens to it. -/
def State.mustFreeze (s : State) (st : Strand) : Bool := !st.frozen && !(s.effective st).isEmpty

/-! Draining (R156, R158). -/

/-- Writes, which the next phase and engine requests wait for. -/
def Eff.isWrite : Eff → Bool
  | .store .. => true
  | .shared .. => true
  | .enq .. => true
  | .rst .. => true
  | .port .. => true
  | .spap _ => true
  | .spwn .. => true
  | .sprg .. => true
  | _ => false

/-- Every write of the strand that has left a commit buffer has performed, and every step-shared write is accepted. -/
def State.drained (s : State) (st : Strand) : Bool :=
  !(s.mem.pend.any fun p => p.die = st.die && p.task = st.task && p.eff.isWrite) &&
  !(s.mat.portq.any fun q => st.has q.node.ctx) &&
  !(s.pages.seqq.any fun q => st.has q.node.ctx && q.task = st.task) &&
  !(s.eng.streams.any fun e => bit e.2.desc 236 && !e.2.returns.isEmpty && e.2.task = st.task && e.1 / 1024 = st.die) &&
  !(s.pod.sent.any fun x => st.has x.node.ctx) &&
  !(s.pod.remotes.any fun x => st.has x.node.ctx && x.kind != 4)

/-! Phases (R51, R53). -/

/-- The phase of a strand-local slot starts. Streams armed before it learn its slot; copies filled before are passed (R128). -/
def State.startPhase (s : State) (die task j : Nat) : State :=
  match s.strand die task with
  | none => s
  | some st =>
    let streams := s.eng.streams.map fun e =>
      if e.1 / 1024 = die && st.wafers.contains (e.1 / 16 % 64) then
        (e.1, { e.2 with slot := if e.2.task = task && e.2.slot = 4 then st.slotOf j else e.2.slot,
                         pending := e.2.pending.map fun p =>
                           if p.2.2.2 = task && p.2.2.1 = 4 then (p.1, p.2.1, st.slotOf j, p.2.2.2) else p })
      else e
    { s.setStrand { st with mode := .phase j, stamp := s.mem.clock + 1, exits := [] } with
      eng := { s.eng with streams := streams }, mem := { s.mem with clock := s.mem.clock + 1 } }

/-- The slot holds this image on every wafer of the set (R51). -/
def State.holdsImage (s : State) (st : Strand) (j : Nat) (cfg : Word) : Bool :=
  (st.ctxs j).all fun c => match s.block c with | some b => b.cfg = cfg | none => false
def State.holdsAny (s : State) (st : Strand) (j : Nat) : Bool := (st.ctxs j).all fun c => (s.block c).isSome

/-- Start the phase of a slot with an image, loading it first when the slot does not hold it. -/
def State.enterSlot (s : State) (die task j : Nat) (cfg : Word) : State :=
  match s.strand die task with
  | none => s
  | some st => if s.holdsImage st j cfg then s.startPhase die task j else s.setStrand { st with mode := .load j cfg }

/-! The end of a strand (R328). -/

/-- Tokens, latches and windows of contexts are gone. -/
def State.clearTokens (s : State) (c : Ctx → Bool) : State :=
  { s with
    fab := { s.fab with
      latch := s.fab.latch.filter (fun x => !c x.node.ctx), net := s.fab.net.filter (fun x => !c x.tok.node.ctx),
      part := s.fab.part.filter (fun x => !c x.node.ctx), ostore := s.fab.ostore.filter (fun x => !c x.node.ctx),
      hlatch := s.fab.hlatch.filter (fun x => !c x.node.ctx), mrgo := s.fab.mrgo.filter (fun x => !c x.node.ctx) },
    mem := { s.mem with resp := s.mem.resp.filter fun r => !c r.node.ctx } }

/-- Answer every queued steal with NIL. -/
def State.answerSteals (s : State) (l : List LTok) : State :=
  l.foldl (fun (s : State) r => s.respond r.node r.key [outA (emptied r.tok)] false) s

/-- An operation of an engine queue goes on when its strand has ended, in the step that the strand had reached (R164). -/
def QEnt.endFor (die task : Nat) (step : BitVec 32) : QEnt → QEnt
  | .op r d t p w l st i x e => .op r d t p w l st i x (if d = die && t = task then e.or (some step) else e)
  | e => e
/-- A strand is taken off its wafers: contexts, tags and wafers are free again. What it has released goes on, in the step it had reached,
when the strand ends. -/
def State.removeStrand (s : State) (st : Strand) (ends : Bool := true) : State :=
  let s := (s.purge st.has fun _ => true).clearTokens st.has
  let streams := s.eng.streams.map fun e =>
    if e.1 / 1024 = st.die && st.wafers.contains (e.1 / 16 % 64) then
      let x := if e.2.pending.any fun p => p.2.2.2 = st.task then { e.2 with pending := none } else e.2
      (e.1, if x.task = st.task && x.armed then { x with armed := false, fin := true, pending := none, returns := [] } else x)
    else e
  let pend := s.mem.pend.map fun p =>
    if ends && p.die = st.die && p.task = st.task && p.ended.isNone then { p with ended := some st.step } else p
  let queues := if ends then s.eng.queues.map fun q => (q.1, q.2.map (QEnt.endFor st.die st.task st.step)) else s.eng.queues
  let s := { s with mem := { s.mem with pend := pend } }
  { st.allCtxs.foldl (fun s c => s.setCtx c {}) s with
    strands := s.strands.filter (fun x => !x.is st.die st.task),
    eng := { s.eng with streams := streams, queues := queues },
    pod := { s.pod with remotes := s.pod.remotes.filter fun r => !(st.has r.node.ctx && r.kind = 4) },
    sch := { s.sch with prioq := s.sch.prioq.filter fun p => !p.ctxs.any st.has } }

/-- Folds that a strand has asked for and that no phase end will make (R113). -/
def State.dropFolds (s : State) (die task : Nat) : State :=
  let drop := fun (e : Nat × Store) =>
    if e.2.fold.contains (taskKey die task) then (e.1, { e.2 with fold := e.2.fold.filter (· != taskKey die task) }) else e
  { s with mat := { s.mat with stores := s.mat.stores.map drop } }

/-- The end of a strand, its writes performed: the steal queue gets NIL, and a counter of its die is decremented. -/
def State.endStrand (s : State) (die task : Nat) (dc : Option Nat) : State :=
  match s.strand die task with
  | none => s
  | some st =>
    let s := ((s.removeStrand st).answerSteals st.steals).dropFolds die task
    match dc with
    | some d => s.decrement die d 1
    | none => s

end Sys2Proof.Machine
end

