-- ==== Sys2Proof/Machine/FaultOps.lean ====
section
/-! DEFINITION. Fault records in their rings (R356, R357), and what closing one does: RESM and the host's resume words (R358,
R360, R363, R368, R372, R389, R399, R416). -/

namespace Sys2Proof.Machine

/-! Records in memory. -/

/-- The access of a partition's virtual address, without a TLB. -/
def State.partAcc (s : State) (part : Nat) (va : Word) (write : Bool) : Option Acc :=
  if bits va 57 7 != (if bit va 56 then 127 else 0) then none else
  match s.walkFrom va (bits (s.partEntry part) 352 64) walkLevels with
  | .fails _ _ _ => none
  | .leaf e lvl _ =>
    let a := accOf va e lvl
    if (write && !bit e 4) || !s.keyOk part a.kidx || a.hmod != s.module then none else some a

/-- Bits of an address under a partition; none when it cannot be read. -/
def State.partBytes (s : State) (part : Nat) (va : Word) (n : Nat) : Option Nat :=
  match s.partAcc part va false with
  | none => none
  | some a => (s.readHome a n).1.map fun b => leNat b.bytes

/-- Write whole beats under a partition. -/
def State.partWrite (s : State) (part : Nat) (va : Word) (bytes : List Byte) : State :=
  match s.partAcc part va true with
  | none => s
  | some a => s.writeHome a.hdie.toNat 0 a (at_ a bytes) false

/-- An access under a partition waits for the memory of its tables, or for its own (R350). -/
def State.partWaits (s : State) (part : Nat) (va : Word) : Bool :=
  s.partWalkWaits part va || (match s.partAcc part va false with | some a => !s.memReady a | none => false)

def handlerKey (die part : Nat) : Nat := die * 64 + part
/-- ST of a record's beat 0. -/
def recSt (b : BitVec 384) : Nat := bits b 352 2

/-- Where the ring of a valid entry has its next record. -/
def State.ringNext (s : State) (die part : Nat) : Option Word :=
  let e := Tab.get 0 (handlerKey die part) s.flt.handlers
  let r := Tab.get 0 (handlerKey die part) s.flt.pointers % (bits e 40 8 + 1)
  if bit e 63 && bit (s.partEntry part) 0 then some (e.extractLsb' 64 64 + BitVec.ofNat 64 (192 * r)) else none
/-- The record that a fault of (die, part) takes next: its address when its ring can hold it, none for the host fault record. -/
def State.nextRecord (s : State) (die part : Nat) : Option Word :=
  (s.ringNext die part).filter fun va => (s.partAcc part va true).isSome

/-- ST of the record at an address of a partition, or of the die's host record. -/
def State.recordSt (s : State) (die part : Nat) (va : Option Word) : Nat :=
  match va with
  | some v => match s.partBytes part v 48 with | some b => recSt (BitVec.ofNat 384 b) | none => 0
  | none => bits (Tab.get 0 die s.flt.hostRec) 352 2

/-- The record's bytes are not all written at an address (R357). -/
def State.recordDrops (s : State) (part : Nat) (va : Word) (bytes : List Byte) : Bool :=
  match s.partAcc part va true with
  | some a => s.writeDrops a (at_ a bytes)
  | none => true

/-- A record's bytes, and where the ring takes them whole. -/
def RecReq.bytes (r : RecReq) : List Byte := bytesOf r.beat0 ++ bytesOf r.beat1 ++ bytesOf r.beat2 ++ zeros 48
def State.recordPlace (s : State) (r : RecReq) : Option Word :=
  (s.nextRecord r.die r.part).filter fun va => !s.recordDrops r.part va r.bytes

/-- Write a record, ST 01, and launch its handler; or, when no ring record can be written, keep it as the host fault record and count it
(R357). -/
def State.writeRecord (s : State) (r : RecReq) (rerun : Bool) : State :=
  let r := { r with beat0 := setBits r.beat0 355 1 (b2n rerun) }
  let whole := r.bytes
  match s.recordPlace r with
  | some va =>
    let e := Tab.get 0 (handlerKey r.die r.part) s.flt.handlers
    let s := s.partWrite r.part va whole
    let s := { s with flt := { s.flt with
      pointers := Tab.put 0 (handlerKey r.die r.part)
        ((Tab.get 0 (handlerKey r.die r.part) s.flt.pointers + 1) % (bits e 40 8 + 1)) s.flt.pointers,
      opened := s.flt.opened ++ [OpenRec.mk r.die r.part (some va) r.subject] } }
    s.queueHandler (bits e 12 3) (bits e 0 12) va
  | none =>
    { s with flt := { s.flt with
      hostRec := Tab.put 0 r.die (BitVec.ofNat 1536 (leNat whole)) s.flt.hostRec,
      summary := Tab.put 0 r.die (Tab.get 0 r.die s.flt.summary + 1) s.flt.summary,
      opened := s.flt.opened ++ [OpenRec.mk r.die r.part none r.subject] } }

/-- ST := 10. -/
def State.closeRecord (s : State) (o : OpenRec) : State :=
  let s := { s with flt := { s.flt with opened := dropFirst (fun x => x = o) s.flt.opened } }
  match o.va with
  | some va =>
    match s.partBytes o.part va 48 with
    | some b => s.partWrite o.part va (bytesOf (BitVec.ofNat 384 ((setBits (BitVec.ofNat 384 b) 352 2 2).toNat)))
    | none => s
  | none => { s with flt := { s.flt with hostRec := Tab.put 0 o.die (setBits (Tab.get 0 o.die s.flt.hostRec) 352 2 2) s.flt.hostRec } }

/-- Beat 3 of a record. -/
def State.substitute (s : State) (o : OpenRec) : Beat :=
  match o.va with
  | some va => match s.partBytes o.part (va + 144) 48 with | some b => BitVec.ofNat 384 b | none => 0
  | none => (Tab.get 0 o.die s.flt.hostRec).extractLsb' 1152 384

/-! What the ACT does. -/

/-- The fault register of a node for an instance is cleared. -/
def State.clearFault (s : State) (n : Node) (k : Key) : State :=
  { s with flt := { s.flt with regs := s.flt.regs.filter fun r => !(r.node = n && r.key = k) } }
def State.unfreeze (s : State) (die task : Nat) : State := s.onStrand die task fun x => { x with frozen := false }

/-- The slots a Skip consumes: those the firing takes; every token that waits for a KPUT or KQRY, whose operands are the beats
it collects and the beats beside them (R305, R306); of a merge input out of order that input alone (R381). -/
def State.skipSlots (s : State) (n : Node) (k : Key) : List Nat :=
  let op := opcode (s.wordAt n)
  if op = 0xC1 || op = 0xC2 then (s.fab.ostore.filter fun t => t.node = n && t.key = k).map (·.port) else
  match s.flt.regs.find? fun r => r.node = n && r.key = k with
  | some r => if (op = 0xC4 || op = 0xC5) && r.cause = 0x24 && r.code = 10 then r.slots.filter (· != 1) else r.slots
  | none => []

/-- Words that emit nothing (R211, R234, R254, R260, R263, R266, R270, R279, R289, R290, R294, R296, R297, R320 to R323, R328, R358). -/
def silentWord (w : BitVec 64) : Bool :=
  [0x05, 0x0C, 0x10, 0x11, 0x13, 0x19, 0x70, 0x86, 0x8C, 0x8D, 0xA0, 0xA4, 0xA5, 0xA7, 0xA8, 0xA9, 0xAA, 0xAC, 0xB4, 0xE0, 0xE1, 0xE2, 0xE4,
   0xE5, 0xEA, 0xEC].contains (opcode w) || (opcode w = 0xB0 && bit w 3)

/-- ACT 10: the operands are consumed as if cancelled; with SUB = 1 the substitute goes to the targets of a word that emits (R358, R409, R411).
A fault with no slots is that of a held effect, which is given up (R226). -/
def State.skipNode (s : State) (n : Node) (k : Key) (slots : List Nat) (sub : Option Beat) : State :=
  let w := s.wordAt n
  let s := match slots, s.strandOf n.ctx with
    | [], some st => s.setStrand (st.onInst n.ctx k fun x => { x with held := x.held.filter fun e => e.index != n.index })
    | _, _ => s
  let h := Hd.ofWord w
  let t := ((slots.filterMap fun p => s.slotTok n k p).headD {})
  let m : Nat := if formatM (opcode w) then bits w 18 7 else 127
  let s := if opcode w = 0xC1 || opcode w = 0xC2 then s.unkeep n k else s
  let s := (s.consumeAll n k slots).markMsq n k t.wave m
  match if silentWord w then none else sub with
  | none => s
  | some d =>
    let vc := vcOut w t
    let f := s.fmtAt n vc
    s.emit n k h [outBoth { t with fl := {}, data := d, vc := vc, nlane := if f < 18 then allLanes f else t.nlane }]

/-- Address of a beat. -/
def beatAddr (d : BitVec 256) (i : Nat) : Word :=
  let c := coords d i
  let st := fun (j : Nat) => BitVec.signExtend 64 (d.extractLsb' (64 + 32 * j) 32)
  d.extractLsb' 0 64 + BitVec.ofNat 64 c.1 * st 0 + BitVec.ofNat 64 c.2.1 * st 1 + BitVec.ofNat 64 c.2.2 * st 2

/-- A beat that a stream brought into an instance is read again, by its walk's coordinates (R386), with the crumb flags that follow from it
(R82). A read that fails leaves a poisoned zero, one that has to wait the beat as it was (log entry 171). -/
def State.rereadBeat (s : State) (st : Strand) (b : LTok × BitVec 256 × Nat) : LTok × State :=
  let t := b.1.tok
  let put := fun (s : State) (r : Bytes) =>
    let f := s.fmtAt b.1.node t.vc
    let t := { t with data := beatOf r.bytes, nlane := allLanes f, fl := { t.fl with poi := r.poi } }
    ({ b.1 with tok := { t with fl := crumbFlags f t } }, s)
  match s.engineRead (st.asker b.1.node.ctx.wafer) (st.step != (s.domain st.part).step) (bits b.2.1 233 3) (beatAddr b.2.1 b.2.2) 48 with
  | .ok r s => put s r.1
  | .fails _ s => put s ⟨zeros 48, true⟩
  | .waits => (b.1, s)

/-- ACT 01: the instance restarts from the tokens that entered it. What it had allocated at deeper levels is killed with its
discarded tokens (log entry 55). -/
def State.rerunInst (s : State) (die task : Nat) (n : Node) (k : Key) : State :=
  match s.strand die task with
  | none => s
  | some st =>
    let kids := (st.withChildren 8 [k]).filter fun j => j != k
    let s := s.kill die task kids
    let c := n.ctx
    let mine := fun (x : Node) (j : Key) => x.ctx = c && j = k
    let s := s.purge (fun x => x = c) fun j => j = k
    let s := { s with
      fab := { s.fab with
        latch := s.fab.latch.filter (fun x => !mine x.node x.key), net := s.fab.net.filter (fun x => !mine x.tok.node x.tok.key),
        part := s.fab.part.filter (fun x => !mine x.node x.key), ostore := s.fab.ostore.filter (fun x => !mine x.node x.key) },
      mem := { s.mem with resp := s.mem.resp.filter fun r => !mine r.node r.key } }
    match (s.strand die task).bind (·.inst c k) with
    | none => s
    | some i =>
      let (again, s) := i.beats.foldl (fun (acc : List LTok × State) b =>
        let (t, s) := acc.2.rereadBeat st b
        (acc.1 ++ [t], s)) ([], s)
      let fresh := i.entered.filter fun t => !(i.beats.any fun b => b.1 = t)
      let s := s.onStrand die task fun st =>
        let st := { st with reqs := st.reqs.filter fun r => !(r.node.ctx = c && r.key = k) }
        (st.onTag k fun t => { t with cont := none }).onInst c k fun x => { x with held := [], issued := [], due := 0, granted := [] }
      (fresh ++ again).foldl (fun (s : State) t => s.setDown { t with tok := { t.tok with age := 0 } }) s

/-- Is Re-run permitted (R358)? -/
def State.mayRerun (s : State) (die task : Nat) (n : Node) (k : Key) : Bool :=
  match (s.strand die task).bind (·.inst n.ctx k) with
  | some i => !i.rmw
  | none => true

/-- A node of an engine queue (R161). -/
def queueKey (die q : Nat) : Nat := die * 18 + q
def State.queue (s : State) (die q : Nat) : List QEnt := Tab.get [] (queueKey die q) s.eng.queues
def State.setQueue (s : State) (die q : Nat) (l : List QEnt) : State :=
  { s with eng := { s.eng with queues := Tab.put [] (queueKey die q) l s.eng.queues } }
/-- Free the head of a queue that an open record holds. -/
def unstick : List QEnt → List QEnt
  | .op r d t p w l st i _ e :: rest => .op r d t p w l st i false e :: rest
  | l => l

/-- FENCE flits to the children in a partition's barrier tree. -/
def State.fenceDown (s : State) (p : Nat) : State := (s.treeChildren 3 p).foldl (fun (s : State) c => s.sendFlit c.1 .fence false) s
/-- A FENCE flit goes up a partition's barrier tree, and from its root down (R403). -/
def State.fenceUp (s : State) (p : Nat) : State :=
  match s.treeParent 3 p with
  | some lg => s.sendFlit lg .fence false
  | none => s.fenceDown p
/-- Partitions that have a barrier tree here. -/
def State.treeParts (s : State) : List Nat :=
  ((s.pod.links.filter fun l => bit l.2.word 63 && bits l.2.word 33 3 = 3).map fun l => bindPart l.2.word).foldl addNew []
/-- The module is fenced, and what it has heard goes on in every tree but `but`. -/
def State.raiseFence (s : State) (but : Option Nat) : State :=
  if s.pod.fenced then s else
  let s := { s with pod := { s.pod with fenced := true } }
  (s.treeParts.filter fun p => some p != but).foldl (fun (s : State) p => s.fenceUp p) s
/-- A FENCE flit comes from the parent in its tree, whose children hear it from here, or from a child. -/
def State.passFenceFlit (s : State) (lg : Nat) : State :=
  let p := bindPart (s.link lg).word
  if s.treeParent 3 p = some lg then (s.raiseFence (some p)).fenceDown p else s.raiseFence none
/-- A peer is declared failed (R403). -/
def State.declareFailed (s : State) (peer : Nat) : State :=
  ({ s with pod := { s.pod with peersFailed := addNew s.pod.peersFailed peer } } : State).raiseFence none

/-- The beat that ACT 10 delivers in place of a failing beat: beat 3, or NIL. In a walk with WR = 1 the substitute is written at the failing
address, NIL nowhere (log entry 172). -/
def substTok (sub : Option Beat) (t : Tok) : Tok :=
  match sub with
  | some d => { t with data := d }
  | none => { t with data := 0, fl := { t.fl with nil := true } }

/-- SEQ, LAST, END and VC of the i-th beat of a walk (R149). -/
def beatTok (d : BitVec 256) (i : Nat) : Tok :=
  let c := coords d i
  { seq := BitVec.ofNat 16 c.1, vc := d.extractLsb' 220 5,
    fl := { last := c.1 + 1 = descN d 0, endf := i + 1 = descBeats d } }

/-- Terminate: the strand ends as DONE with DCV = 0 does. -/
def State.terminate (s : State) (die task : Nat) : State := s.endStrand die task none

/-- How an operation of an engine queue ends as if complete is given by the engines: ACT 10 marks it done (index past the end). -/
def finishHead : List QEnt → List QEnt
  | .op r d t p w l _ _ _ e :: rest => .op r d t p w l true (2 ^ 96) false e :: rest
  | l => l

def parkDie (die task : Nat) : Nat := 8 + taskKey die task
/-- A saved strand ends as DONE with DCV = 0 does: its image and its restore record go, and what it has released goes on. -/
def State.dropSaved (s : State) (v : Saved) : State :=
  let st := v.strand
  let s := (s.purge (fun c => c.die = parkDie st.die st.task) fun _ => true).dropFolds st.die st.task
  let end1 := fun (p : Pend) => if p.die = st.die && p.task = st.task && p.ended.isNone then { p with ended := some st.step } else p
  ({ s with
    mem := { s.mem with pend := s.mem.pend.map end1 }
    saved := s.saved.filter fun x => !x.strand.is st.die st.task
    sch := { s.sch with ready := dropFirst (fun r => r.1 = st.die && r.2.task = st.task && r.2.restore) s.sch.ready }
    }).answerSteals st.steals

/-- The effect of closing a record with an ACT. `sub` is beat 3 when SUB = 1. -/
def State.act (s : State) (o : OpenRec) (a : Nat) (sub : Option Beat) : State :=
  match o.subject with
  | .exact die task n k =>
    if a = 3 || (a = 1 && !s.mayRerun die task n k) then s.terminate die task
    else
      let slots := s.skipSlots n k
      let s := (s.clearFault n k).unfreeze die task
      if a = 0 then s else if a = 1 then s.rerunInst die task n k else s.skipNode n k slots sub
  | .sequencer die task =>
    if a = 3 then s.terminate die task
    else s.onStrand die task fun x =>
      if x.mode = .faulted then { x with mode := .run, sqpc := if a = 2 then x.sqpc + 8 else x.sqpc } else x
  | .image die task =>
    if a = 3 then s.terminate die task
    else s.onStrand die task fun x =>
      match (match x.mode with | .load j cfg => .failed j cfg | y => y : SeqMode) with
      | .failed j cfg =>
        if a = 2 then { x with mode := .run, sqpc := x.sqpc + 8, q := Tab.put 0 15 0 x.q } else { x with mode := .load j cfg }
      | _ => x
  | .restore die task =>
    let mine := fun (v : Saved) => v.strand.is die task
    if a ≤ 1 then { s with saved := s.saved.map fun v => if mine v then { v with broken := false } else v }
    else
      (s.saved.filter mine).foldl State.dropSaved s
  | .ring die task => if a = 3 then s.terminate die task else s
  | .stream die w e =>
    let x := s.stream die w e
    match x.stuck with
    | none => s
    | some i =>
      let writes := bit x.desc 236
      if a ≤ 1 then s.setStream die w e { x with stuck := none, next := if writes then x.next else i }
      else if a = 2 then
        let put := if writes then upd (fun b => (b.1, substTok sub b.2.1, b.2.2)) 0 x.returns
          else x.returns ++ [(i, substTok sub (beatTok x.desc i), false)]
        s.setStream die w e { x with stuck := none, returns := put }
      else s.setStream die w e (endWalk { x with stuck := none, returns := if writes then x.returns.drop 1 else x.returns })
  | .engine die q =>
    if a ≤ 1 then s.setQueue die q (unstick (s.queue die q))
    else if a = 2 then s.setQueue die q (finishHead (s.queue die q))
    else s.setQueue die q ((s.queue die q).drop 1)
  | .held q die task =>
    let s := if a ≤ 1 then s else
      match s.pages.seqq.find? fun p => p.seq = q with
      | some p => s.unpin p.node p.key p.op.page
      | none => s
    let s := { s with
      mem := { s.mem with pend :=
        if a ≤ 1 then s.mem.pend.map fun p => if p.seq = q then { p with stuck := false } else p
        else s.mem.pend.filter fun p => p.seq != q },
      pages := { s.pages with seqq :=
        if a ≤ 1 then s.pages.seqq.map fun p => if p.seq = q then { p with stuck := false } else p
        else s.pages.seqq.filter fun p => p.seq != q } }
    if a = 3 then s.terminate die task else s
  | .peer lg => if a = 3 then s.declareFailed (bits (Tab.get {} lg s.pod.links).word 49 8) else s
  | .launch _ _ => s
  | .only => s

/-- Of which strand a subject is. -/
def Subject.owner : Subject → Option (Nat × Nat)
  | .exact d t _ _ => some (d, t)
  | .sequencer d t => some (d, t)
  | .image d t => some (d, t)
  | .ring d t => some (d, t)
  | _ => none

/-- The ACT acts at once, or, for a saved strand, when it is restored. -/
def State.actOn (s : State) (o : OpenRec) (a : Nat) (sub : Option Beat) : State :=
  match s.saved.find? fun v => o.subject.owner = some (v.strand.die, v.strand.task) with
  | none => s.act o a sub
  | some v =>
    if a = 3 then s.dropSaved v
    else { s with saved := s.saved.map fun x =>
      if x.strand.is v.strand.die v.strand.task then { x with later := x.later ++ [.act o.subject a sub] } else x }

/-- RESM and the host's second word: nothing when the record is not open. -/
def State.resume (s : State) (o : Option OpenRec) (a : Nat) (sub : Bool) : State :=
  match o with
  | none => s
  | some o =>
    if s.recordSt o.die o.part o.va != 1 then s
    else
      let d := s.substitute o
      (s.closeRecord o).actOn o a (if sub then some d else none)

/-- The open record of a partition at an address. -/
def State.recordAt (s : State) (part : Nat) (va : Word) : Option OpenRec :=
  if va = 0 then none else s.flt.opened.find? fun o => o.part = part && o.va = some va
/-- For the host: a record of the die at an address, or its host fault record. -/
def State.hostRecordAt (s : State) (die : Nat) (va : Word) : Option OpenRec :=
  s.flt.opened.find? fun o => o.die = die && o.va = (if va = 0 then none else some va)

end Sys2Proof.Machine
end

