-- ==== Sys2Proof/Machine/HostEvents.lean ====
section
/-! DEFINITION. What reaches the module from the host: launch tokens (R58, R59, R345, R348), register writes (R7, R8, R344 and
the maps it names), reads that clear (R7), TDISP and IDE (R348, R401), reset, readiness, clocks (R350, R402). -/

namespace Sys2Proof.Machine

/-! Partitions (R346, R348). -/

def State.tstate (s : State) (p : Nat) : Nat := bits (s.partEntry p) 1 2
def State.setTstate (s : State) (p v : Nat) : State :=
  { s with host := { s.host with parts := Tab.put 0 p (setBits (s.partEntry p) 1 2 v) s.host.parts } }

/-- R348, R401: a write governed by partition p is accepted. -/
def State.writeOk (s : State) (p : Nat) (ide : Option Nat) : Bool :=
  s.tstate p = 0 || (s.tstate p != 3 && ide = some p)

/-! Launch tokens. -/

def launchDie (t : BitVec 512) : Nat := bits t 12 3
def launchTask (t : BitVec 512) : Nat := bits t 0 12
def launchOps (t : BitVec 512) : List Word := (List.range 7).map fun i => t.extractLsb' (64 * (i + 1)) 64

/-- R348: accepted while TSTATE is 00 or RUN. -/
def State.launchAccepted (s : State) (t : BitVec 512) : Bool :=
  let x := s.tstate (entPart (s.taskEntry (launchDie t) (launchTask t)))
  x = 0 || x = 2

/-- A launch waits at its port while its die's FAB bit is 0 (R350), while its decrement must be held (R60), or while the pod is
fenced (R405). -/
def State.launchWaits (s : State) (t : BitVec 512) : Bool :=
  let d := entDc (s.taskEntry (launchDie t) (launchTask t))
  s.pod.fenced || !bit s.host.ready (launchDie t) || (s.sch.held.any fun h => h.1 = launchDie t && h.2.1 = d) || s.mustHold (launchDie t) d 1

def State.applyLaunch (s : State) (t : BitVec 512) : State :=
  if s.launchAccepted t then s.launch (launchDie t) (launchTask t) (launchOps t) (bit t 20) (t.extractLsb' 16 4) else s

/-! Errors and reads that clear (R345, R357, R383). -/

def State.countHostError (s : State) : State :=
  { s with host := { s.host with errors := if s.host.errors = BitVec.allOnes 64 then s.host.errors else s.host.errors + 1 } }

/-! Writes with an effect of their own. -/

/-- R136: every translation of the die is invalidated; a strand may use it until its next boundary. -/
def State.invalidateTlb (s : State) (die : Nat) : State :=
  { s with mem := { s.mem with tlb := s.mem.tlb.map fun t =>
      if t.die = die && t.stale.isNone then { t with stale := some s.mem.clock } else t } }

/-- R413: a page joins the free list. -/
def State.addFreePage (s : State) (v : Word) : State :=
  { s with pages := { s.pages with free := s.pages.free ++ [bits v 0 32] } }

/-- R360: the ACT word. -/
def State.hostResume (s : State) (die : Nat) (v : Word) : State :=
  s.resume (s.hostRecordAt die (Tab.get 0 die s.flt.hostVa)) (bits v 0 2) (bit v 2)

/-! Bindings (R165, R399). -/

/-- The same pair, class and partition, on whatever lane groups. -/
def samePair (a b : Word) : Bool := joins a (bits b 33 3) (bindPart b) (bits b 36 3) (b.extractLsb' 49 8) (bits b 39 3)
/-- A binding word: made when the partition table places the lane group in PART and lists PEER (log entry 156); its tag is the device's
GMAC of the word. A pair that is bound anew takes the kept flits of its lost binding with it, which are sent again first, and then what
waits there (R399). -/
def State.writeBinding (s : State) (lg : Nat) (v : Word) : State :=
  let old := Tab.get {} lg s.pod.links
  if !bit v 63 then
    { s with pod := { s.pod with links := Tab.put {} lg { old with word := setBits v 0 33 0 } s.pod.links } }
  else if !(bit (s.partEntry (bindPart v)) 0 && bit (s.partEntry (bindPart v)) (440 + lg) &&
      Config.listsModule (s.partEntry (bindPart v)) (v.extractLsb' 49 8)) then s
  else
    let w := setBits v 0 33 0
    let old := ((s.pod.lost.find? fun l => samePair l.word w).getD {})
    let new : Link := {
      word := w, tag := Config.gmac (Tab.get 0 (bindPart v) s.host.linkKeys) w
      again := old.kept ++ old.again, wait := old.wait, cut := old.cut, got := old.got, clear := old.clear }
    { s with pod := { s.pod with links := Tab.put {} lg new s.pod.links, lost := s.pod.lost.filter fun l => !samePair l.word w } }

/-! The recovery register and the buddy copy (R404). -/

/-- Leaves of a partition's tables with their levels. -/
def State.leaves (s : State) (table : Nat) : List (Nat × Nat × Nat) → List (BitVec 128 × Nat)
  | [] => []
  | (lvl, _, n) :: rest =>
    (List.range (2 ^ n)).flatMap fun i =>
      let e := BitVec.ofNat 128 (leNat (memRead s.mem.phys (table + 16 * i) 16))
      if !bit e 0 || malformed e lvl then []
      else if bit e 1 then [(e, lvl)]
      else s.leaves (bits e 9 43 * 512) rest
def State.partLeaves (s : State) (p : Nat) : List (BitVec 128 × Nat) := s.leaves (bits (s.partEntry p) 352 64) walkLevels
def leafBase (x : BitVec 128 × Nat) : Nat := bits x.1 16 36 * 65536

/-- Pages (base, size, C) of a partition that are step-shared and homed on this module. -/
def State.sharedPages (s : State) (p : Nat) : List (Nat × Nat × Bool) :=
  ((s.partLeaves p).filter fun x => bit x.1 7 && x.1.extractLsb' 56 8 = s.module).map fun x => (leafBase x, pageSize x.2, bit x.1 6)
/-- A leaf whose page, homed on a module, holds an address. -/
def leafHolds (m : BitVec 8) (pa : Nat) (x : BitVec 128 × Nat) : Bool :=
  x.1.extractLsb' 56 8 = m && leafBase x ≤ pa && decide (pa < leafBase x + pageSize x.2)
/-- The frame of an address on a module belongs to a page of the partition with C = 1 (R168). -/
def State.confidential (s : State) (p : Nat) (m : BitVec 8) (pa : Nat) : Bool := (s.partLeaves p).any fun x => bit x.1 6 && leafHolds m pa x
/-- The page of this module at a frame address, by the partition's tables, a step-shared one first. -/
def State.frameAcc (s : State) (p pa : Nat) : Acc :=
  match ((s.partLeaves p).find? fun x => bit x.1 7 && leafHolds s.module pa x).or ((s.partLeaves p).find? (leafHolds s.module pa)) with
  | some x => { accOf 0 x.1 x.2 with addr := pa, part := p }
  | none => { addr := pa, base := pa / 65536 * 65536, size := 65536, hmod := s.module, part := p }

/-- Lines of a page with their lengths. -/
def linesOf (p : Nat × Nat × Bool) : List (Nat × Nat × Bool) :=
  (List.range ((p.2.1 + 191) / 192)).map fun i => (p.1 + 192 * i, min 192 (p.2.1 - 192 * i), p.2.2)

def State.validParts (s : State) : List Nat := (List.range 64).filter fun p => bit (s.partEntry p) 0
/-- The step-shared page of this module that holds a line, in any partition. -/
def State.sharedAcc (s : State) (pa : Nat) : Acc :=
  match s.validParts.find? fun p => (s.partLeaves p).any fun x => bit x.1 7 && leafHolds s.module pa x with
  | some p => s.frameAcc p pa
  | none => s.frameAcc 0 pa
/-- A line as it is copied: its plain bytes, also of a compressed page, and the offsets of its poisoned sectors. -/
def State.lineCopy (s : State) (line : Nat × Nat × Bool) : (List Byte × List Nat) × State :=
  match s.wholeLine (s.sharedAcc line.1) (s.home line.1) with
  | (none, s) => ((zeros line.2.1, sectorOffsets line.2.1), s)
  | (some l, s) => ((l.1.take line.2.1, l.2), s)
/-- Copy lines, and STEP of every active domain, to the buddy over the binding of class 100; each line waits for its acknowledgement. -/
def State.copyToBuddy (s : State) (lines : List (Nat × Nat × Bool)) : State :=
  let lg := (s.pod.links.find? fun l => bit l.2.word 63 && bits l.2.word 33 3 = 4 && bits l.2.word 49 8 = bits s.pod.recovery 48 8).map (·.1)
  let s := { s with pod := { s.pod with buddy := s.pod.buddy + lines.length } }
  match lg with
  | none => s
  | some g =>
    let s := lines.foldl (fun (s : State) a =>
      let (b, s) := s.lineCopy a
      s.sendFlit g (.buddy a.1 (bits s.pod.recovery 64 64 + Config.buddyPlace a.1) b.1 b.2) a.2.2) s
    (s.pod.domains.filter fun d => bit d.2.reg 63).foldl (fun (s : State) d => s.sendFlit g (.buddyStep d.1 d.2.step false) false) s

def State.sharedLines (s : State) : List (Nat × Nat × Bool) :=
  (s.validParts.flatMap fun p => (s.sharedPages p).flatMap linesOf).foldl (fun l x => if l.contains x then l else l ++ [x]) []

/-- Writable bits of the low word of the recovery register. -/
def State.writeRecovery (s : State) (v : Word) : State :=
  let old := s.pod.recovery
  let new := setBits (setBits old 40 16 (bits v 40 16)) 62 2 (bits v 62 2)
  let s := { s with pod := { s.pod with recovery := new } }
  if bit v 63 && !bit old 63 then s.copyToBuddy s.sharedLines else s

/-! Register writes (R7, R8, R344). -/

/-- Fields of a map as (lowest bit, width): the bits a write changes. -/
def fieldMask (w : Nat) (l : List (Nat × Nat)) : BitVec w :=
  BitVec.ofNat w (l.foldl (fun a f => a + (2 ^ f.2 - 1) * 2 ^ f.1) 0)
/-- A write of 64 bits at bit `at_` of a register that changes the masked bits only. -/
def maskWrite {w : Nat} (old mask : BitVec w) (lo : Nat) (v : Word) : BitVec w :=
  let new := setBits old lo 64 v.toNat
  (old &&& ~~~mask) ||| (new &&& mask)

/-- R55, R56, R357, R369: the bits that are not reserved. -/
def taskMask : BitVec 256 := fieldMask 256 [(0, 1), (21, 31), (64, 64), (128, 64)]
def counterMask : BitVec 64 := fieldMask 64 [(0, 16), (32, 16), (48, 12), (63, 1)]
def handlerMask : BitVec 128 := fieldMask 128 [(0, 15), (40, 8), (63, 1), (64, 64)]
def tagBoundMask : BitVec 64 := fieldMask 64 [(0, 32), (63, 1)]
/-- R346 (TSTATE is read-only), R170 (STEP is read-only), R392, R413. -/
def partMask : BitVec 1024 := fieldMask 1024 [(0, 1), (352, 64), (424, 8), (432, 8), (440, 72), (512, 512)]
def domainMask : BitVec 64 := fieldMask 64 [(32, 8), (40, 8), (48, 12), (63, 1)]
def regenMask : BitVec 128 := fieldMask 128 [(0, 15), (63, 1), (64, 64)]

def putWord {w : Nat} (t : Tab (BitVec w)) (key : Nat) (mask : BitVec w) (lo : Nat) (v : Word) : Tab (BitVec w) :=
  Tab.put 0 key (maskWrite (Tab.get 0 key t) mask lo v) t

/-- The register window of compute die n. A write to a register that clears on reading, and one to an offset that no map lists, change
nothing (R7 and R344 do not say: log entry 157). -/
def State.writeDieReg (s : State) (die off : Nat) (v : Word) (ide : Option Nat) : State :=
  if off < 0x20000 then
    let t := taskKey die (off / 32)
    let new := maskWrite (Tab.get 0 t s.sch.tasks) taskMask (off % 32 / 8 * 64) v
    if s.writeOk (entPart (Tab.get 0 t s.sch.tasks)) ide && s.writeOk (entPart new) ide then
      { s with sch := { s.sch with tasks := Tab.put 0 t new s.sch.tasks } } else s
  else if off < 0x28000 then
    { s with sch := { s.sch with counters := putWord s.sch.counters (taskKey die ((off - 0x20000) / 8)) counterMask 0 v } }
  else if off = 0xA0000 then s.invalidateTlb die
  else if 0xA1000 ≤ off && off < 0xA1800 then
    { s with eng := { s.eng with events := Tab.put 0 (perfKey die ((off - 0xA1000) / 8)) v s.eng.events } }
  else if 0xB0000 ≤ off && off < 0xB0400 then
    let new := putWord s.flt.handlers (handlerKey die ((off - 0xB0000) / 16)) handlerMask (off % 16 / 8 * 64) v
    { s with flt := { s.flt with handlers := new } }
  else if off = 0xB0410 then { s with flt := { s.flt with tagBound := putWord s.flt.tagBound die tagBoundMask 0 v } }
  else if off = 0xB0800 then { s with flt := { s.flt with hostVa := Tab.put 0 die v s.flt.hostVa } }
  else if off = 0xB0808 then s.hostResume die v
  else s

/-- Partitions that hold a key slot. -/
def State.keyOwners (s : State) (k : Nat) : List Nat :=
  (List.range 64).filter fun p => let e := s.partEntry p
    bit e 0 && bits e 432 8 ≤ k && k ≤ bits e 432 8 + bits e 424 8

/-- A key slot's word (R347): sectors written under another key fail their integrity check, and those written under this very key pass
it again. -/
def State.writeKey (s : State) (k i : Nat) (v : Word) (ide : Option Nat) : State :=
  if k = 0 || !((s.keyOwners k).all fun p => s.writeOk p ide) then s else
  let old := Tab.get 0 k s.host.keys
  let new := setBits old (64 * i) 64 v.toNat
  if old = new then s else
  let under := fun (sec : Nat) => Tab.get 0 sec s.mem.kidx = BitVec.ofNat 8 k
  let stay := s.mem.bad.filter fun b => !(under b.sec && b.key = some new)
  let hit := (s.mem.kidx.filter fun x => x.2.toNat = k && !(s.mem.bad.any fun b => b.sec = x.1)).map fun x => BadSector.mk x.1 false (some old)
  { s with host := { s.host with keys := Tab.put 0 k new s.host.keys }, mem := { s.mem with bad := stay ++ hit } }

/-- The pool registers (R413). -/
def State.writePool (s : State) (i : Nat) (v : Word) : State :=
  match i with
  | 0 => { s with pages := { s.pages with stbase := v } }
  | 1 => { s with pages := { s.pages with poolbase := v } }
  | 2 => { s with pages := { s.pages with pstride := v } }
  | 3 => { s with pages := { s.pages with pdbase := v } }
  | 4 => { s with pages := { s.pages with rb := v &&& fieldMask 64 [(0, 4), (16, 10)] } }
  | 5 => s.addFreePage v
  | 6 => { s with pages := { s.pages with ppart := v &&& fieldMask 64 [(0, 6)] } }
  | _ => s

/-- The module window, with the same two points. -/
def State.writeModuleReg (s : State) (off : Nat) (v : Word) (ide : Option Nat) : State :=
  if off < 0x2000 then
    let p := off / 128
    if s.writeOk p ide then { s with host := { s.host with parts := putWord s.host.parts p partMask (off % 128 / 8 * 64) v } } else s
  else if 0x10000 ≤ off && off < 0x14000 then s.writeKey ((off - 0x10000) / 64) (off % 64 / 8) v ide
  else if 0x20000 ≤ off && off < 0x20800 then
    let p := (off - 0x20000) / 32
    if s.writeOk p ide then
      { s with host := { s.host with linkKeys := putWord s.host.linkKeys p (BitVec.allOnes 256) (off % 32 / 8 * 64) v } } else s
  else if 0x30000 ≤ off && off < 0x30480 then
    let lg := (off - 0x30000) / 16
    if off % 16 = 0 then s.writeBinding lg v
    else { s with pod := { s.pod with links := Tab.put {} lg { Tab.get {} lg s.pod.links with tag := v } s.pod.links } }
  else if 0x31000 ≤ off && off < 0x31800 && off % 32 = 0 then
    let p := (off - 0x31000) / 32
    s.setDomain p { s.domain p with reg := maskWrite (s.domain p).reg domainMask 0 v }
  else if 0x32000 ≤ off && off < 0x32038 then s.writePool ((off - 0x32000) / 8) v
  else if off = 0x34000 || off = 0x34008 then
    { s with pages := { s.pages with regen := maskWrite s.pages.regen regenMask (off % 16 / 8 * 64) v } }
  else if off = 0x35000 then s.writeRecovery v
  else if off = 0x35008 then
    { s with pod := { s.pod with recovery := setBits s.pod.recovery 64 64 v.toNat } }
  else s

/-- Offsets of BAR 0 (R344). -/
def dieWindow (die : Nat) : Nat := 0x1000000 + 0x100000 * die
def inDieWindow (off : Nat) : Bool := decide (0x1000000 ≤ off ∧ off < 0x1800000)
def moduleWindow : Nat := 0x2000000

/-- A write to BAR 0 outside the launch window. -/
def State.writeBar (s : State) (off : Nat) (v : Word) (ide : Option Nat) : State :=
  if off % 8 != 0 || off < 0x10000 then s.countHostError
  else if inDieWindow off then s.writeDieReg ((off - 0x1000000) / 0x100000) (off % 0x100000) v ide
  else if moduleWindow ≤ off && off < 0x2100000 then s.writeModuleReg (off % 0x100000) v ide
  else s

/-! The ports (R60, R345, R350): each one's writes in order. -/

/-- Memory that a write reads is not usable yet: that of the record which a resume word closes, or of the lines copied to the buddy. -/
def State.barReadWaits (s : State) (off : Nat) (v : Word) : Bool :=
  if inDieWindow off && off % 0x100000 = 0xB0808 then
    let die := (off - 0x1000000) / 0x100000
    (s.hostRecordAt die (Tab.get 0 die s.flt.hostVa)).any fun o => o.va.any fun va => s.partWaits o.part va
  else off = moduleWindow + 0x35000 && bit v 63 && !s.sharedLines.all fun l => s.paReady (s.home l.1)
/-- An access waits at its port: a launch as State.launchWaits says, one to a die's window while its FAB bit is 0. -/
def State.hostWaits (s : State) : HostWrite → Bool
  | .launch t => s.launchWaits t
  | .write off v _ => off % 8 = 0 && (inDieWindow off && !bit s.host.ready ((off - 0x1000000) / 0x100000) || s.barReadWaits off v)
  | .readSummary die => !bit s.host.ready die
  | .readCorrected die => !bit s.host.ready die
  | .discarded => false
  | .readErrors => false
def State.applyWrite (s : State) : HostWrite → State
  | .launch t => s.applyLaunch t
  | .write off v ide => s.writeBar off v ide
  | .discarded => s.countHostError
  | .readErrors => { s with host := { s.host with errors := 0 } }
  | .readSummary die => { s with flt := { s.flt with summary := Tab.put 0 die 0 s.flt.summary } }
  | .readCorrected die => { s with flt := { s.flt with corrected := Tab.put 0 die 0 s.flt.corrected } }

/-- The accesses that the ports hold back, each port's in order: a read completes behind the writes before it. -/
def State.portWrites (s : State) : List (Bool × HostWrite) → List (Bool × HostWrite) → State
  | [], kept => { s with host := { s.host with waiting := kept } }
  | (p, w) :: rest, kept =>
    if (kept.any fun k => k.1 = p) || s.hostWaits w then s.portWrites rest (kept ++ [(p, w)])
    else (s.applyWrite w).portWrites rest kept
/-- Whatever may be done now is. -/
def State.retryPorts (s : State) : State := s.portWrites s.host.waiting []
/-- A write comes to a port. -/
def State.post (s : State) (port : Bool) (w : HostWrite) : State := s.portWrites (s.host.waiting ++ [(port, w)]) []

/-- An access whose port the event does not name comes to either port, which one is free (log entry 177). -/
def State.postAny (s : State) (w : HostWrite) : State := s.spent.post (s.pick 2 = 1) w
def execHostAccessDiscarded (_rd : Bool) (s : State) : Host.Outcome State Fault Refusal := .next (s.postAny .discarded)
def execHostErrorCounterRead (s : State) : Host.Outcome State Fault Refusal := .next (s.postAny .readErrors)
def execFaultSummaryRead (die : Nat) (s : State) : Host.Outcome State Fault Refusal := .next (s.postAny (.readSummary die))
def execCorrectedErrorRead (die : Nat) (s : State) : Host.Outcome State Fault Refusal := .next (s.postAny (.readCorrected die))

def execLaunchToken (port : Bool) (tok : BitVec 512) (s : State) : Host.Outcome State Fault Refusal := .next (s.post port (.launch tok))
/-- A write to an offset of BAR 0 comes to its port. -/
def State.postBar (s : State) (port : Bool) (off : Nat) (v : Word) (ide : Option Nat) : Host.Outcome State Fault Refusal :=
  .next (s.post port (.write off v ide))
def execRegisterWrite (offset : Nat) (v : Posted Word) (ide : Option Nat) (s : State) : Host.Outcome State Fault Refusal :=
  s.postBar v.port offset v.val ide
def execTlbInvalidation (die : Posted Nat) (s : State) : Host.Outcome State Fault Refusal :=
  if 8 ≤ die.val then .next s else s.postBar die.port (dieWindow die.val + 0xA0000) 0 none
def execHostResume (die : Nat) (v : Posted Word) (s : State) : Host.Outcome State Fault Refusal :=
  if 8 ≤ die then .next s else s.postBar v.port (dieWindow die + 0xB0808) v.val none
def execFreePageWrite (v : Posted Word) (s : State) : Host.Outcome State Fault Refusal :=
  s.postBar v.port (moduleWindow + 0x32028) v.val none
def execBindingWrite (lg : Nat) (tagHalf : Bool) (v : Posted Word) (s : State) : Host.Outcome State Fault Refusal :=
  if 72 ≤ lg then .next s else s.postBar v.port (moduleWindow + 0x30000 + 16 * lg + 8 * b2n tagHalf) v.val none
def execBuddyCopyEnable (v : Posted Word) (s : State) : Host.Outcome State Fault Refusal :=
  s.postBar v.port (moduleWindow + 0x35000) v.val none

/-! TDISP and IDE (R348, R401). -/

/-- Cause 0x44 to the partition's handler, and Tchizer's report to the host. -/
def State.tdiFault (s : State) (p code : Nat) : State :=
  let s := s.setTstate p 3
  let s := { s with host := { s.host with reports := s.host.reports ++ [(p, code)] } }
  s.report { kind := 1, cause := 0x44, code := code } p .only

def execTdispRequest (p : Nat) (r : TdispReq) (s : State) : Host.Outcome State Fault Refusal :=
  match r, s.tstate p with
  | _, 3 => .next s
  | .lock, 0 => .next (s.setTstate p 1)
  | .start, 1 => .next (s.setTstate p 2)
  | _, _ => .next (s.tdiFault p 2)

/-- Wafers of a partition. -/
def State.inPart (s : State) (p die wafer : Nat) : Bool := bit (s.partEntry p) (512 + 64 * die + wafer)

/-- The partition's cells, banks and buffers are made zero; its strands, running and saved, are gone with them, and what they had on
its way. -/
def State.clearPart (s : State) (p : Nat) : State :=
  let s := (s.strands.filter fun st => st.part = p).foldl (fun (s : State) st => s.removeStrand st) s
  let s := (s.saved.filter fun v => v.strand.part = p).foldl (fun (s : State) v => s.dropSaved v) s
  let own := fun (w : Nat) => s.inPart p (w / 64) (w % 64)
  let c := fun (x : Ctx) => s.inPart p x.die x.wafer
  let s := s.clearTokens c
  { s with
    fab := { s.fab with
      stall := s.fab.stall.filter (fun e => !own (e.1 / 128 / 4)), starve := s.fab.starve.filter (fun e => !own (e.1 / 4 / 64)),
      spent := s.fab.spent.filter (fun e => !own (e.1 / 4 / 64)), forced := s.fab.forced.filter (fun e => !own (e.1 / 64)) },
    mem := { s.mem with
      bank := s.mem.bank.filter (fun b => !own (b.1 / Config.bankBytes / 64)),
      pend := s.mem.pend.filter (fun x => x.part != p),
      copies := s.mem.copies.filter (fun x => !(match x.wafer with | some w => s.inPart p x.die w | none => false)) },
    tiles := s.tiles.filter (fun t => !own t.1),
    mat := { s.mat with
      stores := s.mat.stores.filter (fun t => !own (t.1 / 64)), portq := s.mat.portq.filter (fun q => !own (q.store / 64)),
      offers := s.mat.offers.filter (fun o => !own (waferKey o.die o.wafer)) },
    pages := { s.pages with seqq := s.pages.seqq.filter (fun q => !c q.node.ctx) },
    eng := { s.eng with
      queues := s.eng.queues.map (fun q => (q.1, q.2.filter fun e => match e with | .op _ _ _ part _ _ _ _ _ _ => part != p | .fence _ => true)),
      streams := s.eng.streams.filter (fun e => !own (e.1 / 16)), rows := s.eng.rows.filter (fun r => !c r.node.ctx), colls := s.eng.colls.filter (fun x => x.part != p) },
    pl := { s.pl with
      ctx := s.pl.ctx.filter (fun t => !own (t.1 / 4)), roles := s.pl.roles.filter (fun t => !own t.1),
      consts := s.pl.consts.filter (fun t => !own (t.1 / 64)), vcs := s.pl.vcs.filter (fun t => !own (t.1 / 2048)),
      thr := s.pl.thr.filter (fun t => !own (t.1 / 8)), filt := s.pl.filt.filter (fun t => !own (t.1 / 256)) },
    pod := { s.pod with
      records := s.pod.records.filter (fun r => r.dom != p), sent := s.pod.sent.filter (fun x => x.grec.dom != p),
      remotes := s.pod.remotes.filter (fun r => !c r.node.ctx) } }

def execTdispStop (p : Nat) (s : State) : Host.Outcome State Fault Refusal :=
  .next (if 64 ≤ p || s.tstate p = 0 then s else (s.setTstate p 0).clearPart p)
def execIdeIntegrityFailure (p : Nat) (s : State) : Host.Outcome State Fault Refusal :=
  .next (if s.tstate p = 3 then s else s.tdiFault p 1)

/-! Reset, readiness, clocks (R350, R402). -/

/-- The module after a reset: what the model itself keeps goes on, and the device makes a new key for slot 0 (R347). -/
def State.afterReset (s : State) : State :=
  let r := State.reset
  { r with cur := s.cur, agenda := s.agenda, ctr := s.ctr + 1,
           host := { r.host with keys := Tab.put 0 0 (s.freeBits 512) r.host.keys } }
def execModuleReset (s : State) : Host.Outcome State Fault Refusal := .next s.afterReset

/-- Bits that are flags; a die's FAB bit stays 0 when its firmware fails its check (R401). -/
def State.maySetFlag (s : State) (b : Nat) : Bool :=
  b ≤ 54 && !bit s.host.ready b && !(b < 8 && !Config.firmwareGood b)
/-- READY is 1 when bits [46:0] all are. -/
def withReady (v : BitVec 64) : BitVec 64 := if bits v 0 47 = 2 ^ 47 - 1 then setBits v 63 1 1 else v
def execReadinessFlagSet (b : Nat) (s : State) : Host.Outcome State Fault Refusal :=
  if !s.maySetFlag b then .next s else
  let s := { s with host := { s.host with ready := withReady (setBits s.host.ready b 1 1) } }
  .next s.retryPorts

def execClockThrottle (s : State) : Host.Outcome State Fault Refusal := .next { s with host := { s.host with lowered := true } }
def execClockRestore (s : State) : Host.Outcome State Fault Refusal := .next { s with host := { s.host with lowered := false } }
/-- At 95 °C the module resets. -/
def execThermalShutdown (s : State) : Host.Outcome State Fault Refusal := .next s.afterReset

end Sys2Proof.Machine
end

