-- ==== Sys2Proof/Machine/Attest.lean ====
section
/-! DEFINITION. SPDM requests to Tchizer at a port's mailbox (R349, R401). What an answer holds beyond a measurement is private to
Tchizer and its certificates: an opaque function of the request, the slot, its parameter and the connection (log entry 57). -/

namespace Sys2Proof.Machine

def spdmKey (q : SpdmReq) : Nat := b2n q.port * 16 + q.slot

/-- Tchizer answers. -/
def State.answer (s : State) (q : SpdmReq) (stage : Nat) (v : BitVec 512) : State :=
  { s with host := { s.host with answers := Tab.put 0 (b2n q.port) v s.host.answers,
                                 spdm := Tab.put 0 (spdmKey q) stage s.host.spdm } }

/-- The answer to request number `r`, as the connection stands. -/
def State.spdm (s : State) (r : Nat) (q : SpdmReq) : BitVec 512 :=
  Config.spdmAnswer (r * 16 + Tab.get 0 (spdmKey q) s.host.spdm) q.slot q.param

/-- The connection of a port's slot has reached a stage; GET_VERSION starts it anew. -/
def State.stage (s : State) (q : SpdmReq) (n : Nat) : Nat := max n (Tab.get 0 (spdmKey q) s.host.spdm)

/-- A measurement: index 1 to 3 firmware, 16 + p the running digest of partition p's images on the die; an SPDM ERROR for a die
whose firmware failed its check. -/
def State.measurement (s : State) (q : SpdmReq) : BitVec 512 :=
  if q.slot < 8 && !Config.firmwareGood q.slot then Config.spdmAnswer 0x7F q.slot q.param
  else if (1 ≤ q.param && q.param ≤ 2) || (q.param = 3 && 8 ≤ q.slot) then Config.firmwareDigest q.slot q.param
  else if q.slot < 8 && 16 ≤ q.param && q.param < 80 then Tab.get 0 (handlerKey q.slot (q.param - 16)) s.host.digests
  else Config.spdmAnswer (7 * 16 + Tab.get 0 (spdmKey q) s.host.spdm) q.slot q.param

/-- The answer to request number `r`. -/
def State.reply (s : State) (r : Nat) (q : SpdmReq) : State :=
  s.answer q (match r with | 1 => 1 | 2 => s.stage q 2 | 8 => s.stage q 4 | 9 => s.stage q 5 | _ => s.stage q 3)
    (if r = 7 then s.measurement q else s.spdm r q)
/-- A request to a slot that has a responder: it waits until Tchizer's flag is set (R350). -/
def State.ask (s : State) (r : Nat) (q : SpdmReq) : State :=
  if 10 ≤ q.slot then s
  else if bit s.host.ready 46 then s.reply r q
  else { s with host := { s.host with asks := s.host.asks ++ [(r, q)] } }
/-- Requests that have waited are answered in order. -/
def State.answerAsks (s : State) : State :=
  if !bit s.host.ready 46 then s
  else s.host.asks.foldl (fun (s : State) x => s.reply x.1 x.2) { s with host := { s.host with asks := [] } }

def execGetVersion (q : SpdmReq) (s : State) : Host.Outcome State Fault Refusal := .next (s.ask 1 q)
def execGetCapabilities (q : SpdmReq) (s : State) : Host.Outcome State Fault Refusal := .next (s.ask 2 q)
def execNegotiateAlgorithms (q : SpdmReq) (s : State) : Host.Outcome State Fault Refusal := .next (s.ask 3 q)
def execGetDigests (q : SpdmReq) (s : State) : Host.Outcome State Fault Refusal := .next (s.ask 4 q)
def execGetCertificate (q : SpdmReq) (s : State) : Host.Outcome State Fault Refusal := .next (s.ask 5 q)
def execChallenge (q : SpdmReq) (s : State) : Host.Outcome State Fault Refusal := .next (s.ask 6 q)
def execGetMeasurements (q : SpdmReq) (s : State) : Host.Outcome State Fault Refusal := .next (s.ask 7 q)
def execKeyExchange (q : SpdmReq) (s : State) : Host.Outcome State Fault Refusal := .next (s.ask 8 q)
def execFinish (q : SpdmReq) (s : State) : Host.Outcome State Fault Refusal := .next (s.ask 9 q)

end Sys2Proof.Machine
end

