-- ==== Sys2Proof/Machine/Fabric.lean ====
section
/-! DEFINITION. Tokens on their way (R19, R21, R40, R43 to R48): TOKEN_ARRIVAL at each place a token waits, HEADER_BEAT_LATCH
(R88), TOKEN_AGE_TICK (R24) and STARVATION_FORCE (R69). An event whose condition does not hold changes nothing. -/

namespace Sys2Proof.Machine

/-! Leaving the output latch (R19, R45, R47). -/

/-- A context at a cell. -/
def sameCell (a b : Node) : Bool := a.ctx = b.ctx && a.cell = b.cell
/-- R46: a receive partition has four entries. -/
def State.partRoom (s : State) (n : Node) : Bool := decide ((s.fab.part.filter fun t => sameCell t.node n).length < 4)

/-- R43: an MRGO accepts no token that lies 16 to 32,767 waves ahead of its next expected one. -/
def State.mrgoWaits (s : State) (t : LTok) : Bool :=
  opcode (s.wordAt t.node) = 0x08 && t.port ≤ 1 &&
  (let d := (t.tok.wave - (s.window t.node t.key.lvl t.tok.wave).next).toNat
   16 ≤ d && d ≤ 32767)

/-- The isolation gates around a context are closed (R66): its slot is being flipped. -/
def Strand.gated (st : Strand) (c : Ctx) : Bool :=
  match st.mode with
  | .flipping j _ _ _ => c.slot = st.slotOf j
  | _ => false
/-- The strand's tokens stay in their latches while it is frozen or being saved (R71, R354), or behind a closed gate. -/
def State.held (s : State) (c : Ctx) : Bool :=
  match s.strandOf c with
  | some st => st.frozen || st.saving || st.gated c
  | none => false

/-! What closed gates hold passes in the order in which it was held (R66, R373). -/

/-- The context it is bound for, and whether it still waits. -/
def State.gateOf (s : State) : Node ⊕ (Nat × Nat) → Ctx
  | .inl n => n.ctx
  | .inr (k, _) => ⟨k / 16 / 64, k / 16 % 64, (Tab.get {} k s.eng.streams).slot⟩
def State.waitsTurn (s : State) : Node ⊕ (Nat × Nat) → Bool
  | .inl n => s.fab.latch.any fun x => x.node = n
  | .inr (k, i) => (Tab.get {} k s.eng.streams).returns.any fun r => r.1 = i
/-- Nothing held before it at the same gates still waits. -/
def State.mayPass (s : State) (me : Node ⊕ (Nat × Nat)) : Bool :=
  !s.fab.turn.contains me ||
  (let c := s.gateOf me
   let same := fun (d : Ctx) => d.slot = c.slot && (s.strandOf d).any fun st => st.has c
   !(s.fab.turn.takeWhile (· != me)).any fun e => s.waitsTurn e && same (s.gateOf e))
def State.passed (s : State) (me : Node ⊕ (Nat × Nat)) : State :=
  if s.fab.turn.contains me then { s with fab := { s.fab with turn := s.fab.turn.filter (· != me) } } else s
/-- What gates hold in this cycle joins what they have held before. -/
def State.turnTick (s : State) : List (Node ⊕ (Nat × Nat)) :=
  let gated := fun (e : Node ⊕ (Nat × Nat)) => (s.strandOf (s.gateOf e)).any fun st => st.gated (s.gateOf e)
  let here := s.fab.latch.map (fun x => .inl x.node) ++
    s.eng.streams.flatMap fun e => if e.2.writes then [] else e.2.returns.map fun r => .inr (e.1, r.1)
  (here.filter gated).foldl (fun l e => if l.contains e then l else l ++ [e]) (s.fab.turn.filter s.waitsTurn)

/-! The mesh (R11, R17, R45): 64 × 64 cells of a die, two rows of four dies joined by bridges, and the four links of each cell. -/

def Flight.row (x : Flight) : Nat := x.die / 4 * 64 + x.wafer / 8 * 8 + x.cell / 8
def Flight.col (x : Flight) : Nat := x.die % 4 * 64 + x.wafer % 8 * 8 + x.cell % 8
def Flight.spot (x : Flight) : Nat := cellKey x.die x.wafer x.cell
/-- Where the token is bound for. -/
def Flight.goal (x : Flight) : Flight := Flight.inject x.tok.node x.tok
def Flight.home (x : Flight) : Bool := x.spot = x.goal.spot
/-- It waits to be injected, or, at its own cell, for an entry of its partition. -/
def Flight.waits (x : Flight) : Bool := x.side = 4

/-- The links of a cell, those to another die over a bridge among them. -/
def Flight.links (x : Flight) : List Nat :=
  [(0, x.row != 0), (1, x.col != 255), (2, x.row != 127), (3, x.col != 0)].filterMap fun l => if l.2 then some l.1 else none
/-- The bridge, and its direction, that a link of the cell crosses (R11). -/
def Flight.bridge (x : Flight) (d : Nat) : Option Nat :=
  let leaves := if d = 0 then x.row % 64 = 0 else if d = 1 then x.col % 64 = 63 else if d = 2 then x.row % 64 = 63 else x.col % 64 = 0
  if leaves then some (x.die * 4 + d) else none
/-- The links that bring the token nearer to its DEST. -/
def Flight.nearer (x : Flight) : List Nat :=
  let g := x.goal
  [(0, decide (g.row < x.row)), (1, decide (x.col < g.col)), (2, decide (x.row < g.row)), (3, decide (g.col < x.col))].filterMap
    fun l => if l.2 then some l.1 else none
/-- One hop over link `d`. -/
def Flight.hop (x : Flight) (d : Nat) : Flight :=
  let r := if d = 0 then x.row - 1 else if d = 2 then x.row + 1 else x.row
  let c := if d = 3 then x.col - 1 else if d = 1 then x.col + 1 else x.col
  { x with die := r / 64 * 4 + c / 64, wafer := r % 64 / 8 * 8 + c % 64 / 8, cell := r % 8 * 8 + c % 8, side := (d + 2) % 4 }

/-- Routing order at a cell: oldest AGE first, ties north, east, south, west (R45). -/
def Flight.first (x y : Flight) : Bool :=
  decide (y.tok.tok.age.toNat < x.tok.tok.age.toNat) || (x.tok.tok.age = y.tok.tok.age && decide (x.side ≤ y.side))

/-- The bucket of a context at the cell the token is at. -/
def Flight.bucket (x : Flight) : Nat := x.spot * 4 + x.tok.node.ctx.slot

/-- Tokens of a cell within their cap, then those beyond it (R47): one credit an injection or a hop. -/
def capped : Tab Nat → List Flight → List Flight × List Flight × Tab Nat
  | spent, [] => ([], [], spent)
  | spent, x :: l =>
    let used := Tab.get 0 x.bucket spent
    if used < 16 then
      let r := capped (Tab.put 0 x.bucket (used + 1) spent) l
      (x :: r.1, r.2.1, r.2.2)
    else let r := capped spent l; (r.1, x :: r.2.1, r.2.2)

/-- Each token of a cell in turn takes a free link that brings it nearer, or is deflected to a free one (R45); which of several is free
(log entry 143). `seed` numbers the free values. -/
def routeCell (seed : Nat) : List Nat → List Flight → List Flight
  | _, [] => []
  | links, x :: l =>
    let near := links.filter x.nearer.contains
    let cand := if near.isEmpty then links else near
    match cand with
    | [] => x :: routeCell (seed + 1) links l
    | d0 :: _ =>
      let d := cand.getD (Config.free seed % cand.length) d0
      x.hop d :: routeCell (seed + 1) (links.filter (· != d)) l

/-- A bridge carries 16 tokens a cycle in each direction (R11); `used` counts those of this cycle. -/
def Flight.open_ (used : Tab Nat) (x : Flight) : List Nat :=
  x.links.filter fun d => match x.bridge d with | some b => decide (Tab.get 0 b used < 16) | none => true
/-- A cell routes what it has received, then injects what waits there for an output that is left (R45), each within its cap first (R47). -/
def routeAt (seed : Nat) (used spent : Tab Nat) (here : List Flight) : List Flight × Tab Nat × Tab Nat :=
  let got := capped spent (insSort Flight.first (here.filter fun x => !x.waits))
  let new := capped got.2.2 (here.filter fun x => x.waits && !x.home)
  let order := got.1 ++ got.2.1 ++ new.1 ++ new.2.1
  let out := routeCell seed ((order.map (Flight.open_ used)).headD []) order
  let cross := fun (t : Tab Nat) (x : Flight) =>
    match (if x.waits then none else x.hop x.side |>.bridge ((x.side + 2) % 4)) with
    | some b => Tab.put 0 b (Tab.get 0 b t + 1) t
    | none => t
  (out ++ here.filter fun x => x.waits && x.home, out.foldl cross used, new.2.2)
/-- One cycle of the network: every cell routes the tokens it holds. -/
def Fabric.route (f : Fabric) (seed : Nat) : Fabric :=
  let cells := (f.net.map Flight.spot).foldl addNew []
  let go := fun (acc : List Flight × Tab Nat × Tab Nat) (c : Nat) =>
    let r := routeAt (seed + acc.1.length) acc.2.1 acc.2.2 (f.net.filter fun x => x.spot = c)
    (acc.1 ++ r.1, r.2)
  let r := cells.foldl go ([], [], f.spent)
  { f with net := r.1, spent := r.2.2 }

/-- The context has spent its credits at its cell (R47). -/
def State.overCap (s : State) (n : Node) : Bool := decide (16 ≤ Tab.get 0 n.spot s.fab.spent)
/-- A token in the latch has somewhere to go off its cell. -/
def State.leaving (s : State) (x : Latch) : Bool :=
  !s.held x.node.ctx && x.left.any fun d =>
    let t : LTok := ⟨⟨x.node.ctx, d.1⟩, d.2, x.key, x.tok⟩
    !sameCell t.node x.node && !s.mrgoWaits t
/-- A link of the cell is left free for an injection in this cycle (R45): by the tokens it routes, and, beyond its context's cap, by those of
other contexts that wait within theirs (R47). -/
def State.injects (s : State) (n : Node) : Bool :=
  let at_ := Flight.inject n ⟨n, 0, Key.zero, {}⟩
  let rivals := if s.overCap n then (s.fab.latch.filter fun x => x.node.spot / 4 = n.spot / 4 && !s.overCap x.node && s.leaving x).length else 0
  decide ((s.fab.net.filter fun x => x.spot = at_.spot && !(x.waits && x.home)).length + rivals < at_.links.length)

/-- The latch at index i gives one of its targets its token, which one is free (log entry 141): into the partition of its own cell
(log entry 144), or onto the network. -/
def State.leaveLatch (s : State) (i : Nat) : State :=
  match s.fab.latch[i]? with
  | none => s
  | some x =>
    if ((s.fab.latch.take i).any fun y => y.node = x.node) || s.held x.node.ctx || !s.mayPass (.inl x.node) then s else
    let j := s.pick x.left.length
    match x.left[j]? with
    | none => { s with fab := { s.fab with latch := drop1 i s.fab.latch } }
    | some d =>
      let rest := drop1 j x.left
      let t : LTok := ⟨⟨x.node.ctx, d.1⟩, d.2, x.key, x.tok⟩
      let near := sameCell t.node x.node
      if s.mrgoWaits t || (if near then !s.partRoom t.node else !s.injects x.node) then s.spent else
      let latch := if rest.isEmpty then drop1 i s.fab.latch else upd (fun y => { y with left := rest }) i s.fab.latch
      let s := ({ s with fab := { s.fab with latch := latch } } : State).spent
      let s := if rest.isEmpty then s.passed (.inl x.node) else s
      if near then { s with fab := { s.fab with part := s.fab.part ++ [t] } }
      else { s with fab := { s.fab with net := s.fab.net ++ [Flight.inject x.node t] } }

/-! At the destination cell (R46). -/

/-- A token on the network that has come to its cell enters its context's partition if an entry is free; else the cell routes it on. -/
def State.reachCell (s : State) (i : Nat) : State :=
  match s.fab.net[i]? with
  | none => s
  | some x =>
    if x.home && s.partRoom x.tok.node then
      { s with fab := { s.fab with net := drop1 i s.fab.net, part := s.fab.part ++ [x.tok] } }
    else s

/-- Every token that may enter its partition in this cycle does so (R46). -/
def State.reachAll (s : State) : State :=
  (List.range s.fab.net.length).reverse.foldl (fun s i => s.reachCell i) s

/-! Into the operand store (R21, R40, R44). -/

/-- A FIFO cell holds 16 tokens in its buffers and 1,024 in its bank (R44). -/
def State.fifoRoom (s : State) (n : Node) : Bool :=
  decide ((s.fab.ostore.filter fun t => t.node.ctx.die = n.ctx.die && t.node.ctx.wafer = n.ctx.wafer && t.node.cell = n.cell).length < 1040)

/-- The oldest uncommitted instance of a context's block at a level (R21, R32): the first in allocation order that has entered it. -/
def Strand.oldestIn (st : Strand) (c : Ctx) (k : Key) : Bool :=
  match (st.level k.lvl.toNat).tags.find? fun t =>
    !t.dead && !t.gone && (let j : Key := ⟨k.lvl, t.tag, t.gen⟩; st.liveAt c j && (match st.inst c j with | some x => !x.tail | none => false)) with
  | none => true
  | some t => t.tag = k.tag && t.gen = k.gen

/-- R21: 32 entries for each context of a cell, two of them for the oldest uncommitted instance of its block. In frame mode the frame
holds the tokens of the block's level, one in each slot (R40; log entry 142). -/
def State.operandRoom (s : State) (st : Strand) (t : LTok) : Bool :=
  if s.fifo t.node then s.fifoRoom t.node else
  match s.block t.node.ctx with
  | none => false
  | some _ =>
    if (s.inFrame t).isSome then !(s.fab.ostore.any fun x => x.node = t.node && x.port = t.port && x.key = t.key) else
    let mine := s.fab.ostore.filter fun x => sameCell x.node t.node && (s.inFrame x).isNone
    let old := fun (x : LTok) => st.oldestIn x.node.ctx x.key
    decide (mine.length < 32) && (old t || decide ((mine.filter fun x => !old x).length < 30))

/-- A token as a 64-byte flit (R6, R23); its check code is free. -/
def LTok.header (t : LTok) (hecc : Nat) : Nat :=
  pack [(125, 3, t.node.ctx.die), (119, 6, t.node.ctx.wafer), (113, 6, t.node.cell), (112, 1, t.node.index % 2), (110, 2, t.port),
    (108, 2, t.node.ctx.slot), (105, 3, t.key.lvl.toNat), (97, 8, t.key.tag.toNat), (95, 2, t.key.gen.toNat),
    (79, 16, t.tok.wave.toNat), (63, 16, t.tok.seq.toNat), (58, 5, t.tok.vc.toNat), (57, 1, b2n t.tok.fl.hdr),
    (56, 1, b2n t.tok.fl.last), (55, 1, b2n t.tok.fl.endf), (54, 1, b2n t.tok.fl.nil), (53, 1, b2n t.tok.fl.poi),
    (52, 1, b2n t.tok.fl.crb), (51, 1, b2n t.tok.fl.cside), (50, 1, b2n t.tok.fl.retry), (40, 8, t.tok.age.toNat),
    (33, 7, t.tok.nlane.toNat), (0, 16, hecc)]

/-- Write an arriving token into its frame; its presence bit is its entry in the operand store (R40). -/
def State.writeFrame (s : State) (t : LTok) : State :=
  match s.frameAddr t with
  | none => s
  | some a =>
    let bytes := bytesOf t.tok.data ++ leBytes 16 (t.header (Config.free s.ctr))
    let s := s.spent
    { s with mem := { s.mem with bank := memWrite s.mem.bank a bytes } }

/-- Is a token the next of its slot? Header beats and the tokens of a FIFO cell keep their order (R44, R88). -/
def State.inTurn (s : State) (before : List LTok) (t : LTok) : Bool :=
  !(before.any fun x => x.node = t.node && x.port = t.port &&
    (s.fifo t.node || x.tok.vc = t.tok.vc && x.tok.fl.hdr))

/-- A token at WADV: its predicate makes the continue predicate known, and a tag token is discarded once that is false (R224). -/
def State.wadvPredicate (s : State) (t : LTok) : State :=
  if opcode (s.wordAt t.node) = 0x0E && t.port = 2 && !t.tok.fl.poi && !t.tok.fl.retry && !t.tok.fl.crb then
    s.setCont t.node.ctx t.key (pred t.tok) else s
def State.wadvDiscards (s : State) (st : Strand) (t : LTok) : Bool :=
  opcode (s.wordAt t.node) = 0x0E && t.port = 1 && ((st.tagRec t.key).bind (·.cont)) = some false

/-- Where the tokens that have come to slot 1 in this cycle begin: behind those of their instances that came before. -/
def State.firstLate (s : State) (n : Node) (i : Nat) : List LTok → Nat
  | [] => i
  | x :: l =>
    let rest := (l.filter fun y => y.node = n && y.port = 1 && y.key = x.key).length
    if x.node = n && x.port = 1 && decide (rest < s.fab.came.count (n, 1, x.key)) then i else s.firstLate n (i + 1) l
/-- The token joins its slot's. One at slot 0 of MERGE, MRGO or GATE goes before those of slot 1 that came in the same cycle (R218). -/
def State.joinStore (s : State) (t : LTok) : State :=
  let op := opcode (s.wordAt t.node)
  let i := if t.port = 0 && (op = 0x07 || op = 0x08 || op = 0x0F) then s.firstLate t.node 0 s.fab.ostore else s.fab.ostore.length
  { s with fab := { s.fab with ostore := s.fab.ostore.take i ++ t :: s.fab.ostore.drop i,
                               came := (t.node, t.port, t.key) :: s.fab.came } }

/-- The write walk that the tokens of an instance at a slot feed (R149): the beats that arrive at its engine are those that come to its
target from the instance that armed it (log entry 46). -/
def State.writeWalk (s : State) (t : LTok) : Option (Nat × Stream) :=
  s.eng.streams.find? fun e => e.1 / 16 = waferKey t.node.ctx.die t.node.ctx.wafer && bit e.2.desc 236 && e.2.armed && !e.2.fin && !e.2.stop &&
    e.2.slot = t.node.ctx.slot && bits e.2.desc 211 9 = t.node.index * 4 + t.port && e.2.key = some t.key &&
    decide (e.2.sent + e.2.returns.length < descBeats e.2.desc)
/-- The engine takes a beat, WIN + 1 of them at most. -/
def Stream.takeBeat (x : Stream) (t : Tok) : Option Stream :=
  if bits x.desc 225 8 < x.returns.length then none
  else some { x with returns := x.returns ++ [(x.sent + x.returns.length, t, false)] }

/-- The token at index i of the partitions moves into the operand store; a stale one is dropped there (R35). -/
def State.enterStore (s : State) (i : Nat) : State :=
  match s.fab.part[i]? with
  | none => s
  | some t =>
    let gone := { s with fab := { s.fab with part := drop1 i s.fab.part } }
    match s.strandOf t.node.ctx with
    | none => gone
    | some st =>
      if s.stale t || s.wadvDiscards st t then gone.countBeat t.node t.port
      else if t.tok.fl.hdr || !s.inTurn (s.fab.part.take i) t then s
      else match s.writeWalk t with
      | some (e, x) =>
        (match x.takeBeat t.tok with
         | some y => if s.held t.node.ctx then s else { gone with eng := { gone.eng with streams := Tab.put {} e y gone.eng.streams } }
         | none => s)
      | none => if !s.operandRoom st t then s else ((gone.joinStore t).writeFrame t).wadvPredicate t

/-- TOKEN_ARRIVAL (R45, R46): one move of one token. -/
def execTokenArrival (site : TokenSite) (n : Nat) (s : State) : Host.Outcome State Fault Refusal :=
  match site with
  | .latch => .next (s.leaveLatch n)
  | .net => .next (s.reachCell n)
  | .part => .next (s.enterStore n)

/-! Header beats (R88). -/

/-- Latch words 0 to NLANE of a header beat, replacing what the slot and VC held. -/
def State.latchHeader (s : State) (t : LTok) : State :=
  let new : HLatch := ⟨t.node, t.port, t.tok.vc, (List.range (min t.tok.nlane.toNat 11 + 1)).map fun i => t.tok.data.extractLsb' (32 * i) 32, 0, 0⟩
  { s with fab := { s.fab with hlatch := new :: s.fab.hlatch.filter fun x => !(x.node = t.node && x.port = t.port && x.vc = t.tok.vc) } }

def execHeaderBeatLatch (n : Nat) (s : State) : Host.Outcome State Fault Refusal :=
  match s.fab.part[n]? with
  | none => .next s
  | some t =>
    if !t.tok.fl.hdr || !s.inTurn (s.fab.part.take n) t then .next s
    else
      let gone := { s with fab := { s.fab with part := drop1 n s.fab.part } }.countBeat t.node t.port
      .next (if s.stale t then gone else gone.latchHeader t)

/-! A priority on its way (R70). -/

/-- A write of a priority sets out for every cell of the contexts it is for. -/
def State.writePrio (s : State) (c : Ctx) (p : BitVec 4) (all : Bool) : State :=
  let cs := match s.strandOf c with
    | some st => if all then st.allCtxs else [c]
    | none => [c]
  let left := cs.flatMap fun x => (List.range Config.cellsPerWafer).map fun cell => (Node.mk x (2 * cell)).spot
  { s with sch := { s.sch with prioq := s.sch.prioq ++ [⟨c, cs, p, left, 0⟩] } }

/-! Age (R24) and starvation (R69). -/

def older (t : Tok) : Tok := { t with age := if t.age = 255 then 255 else t.age + 1 }
def ageToks (l : List LTok) : List LTok := l.map fun t => { t with tok := older t.tok }

/-- Every 8 cycles every token is one unit older. -/
def execTokenAgeTick (s : State) : Host.Outcome State Fault Refusal :=
  if s.fab.agePhase < 8 then .next s else
  .next { s with fab := { s.fab with
    latch := s.fab.latch.map fun x => { x with tok := older x.tok }
    net := s.fab.net.map fun x => { x with tok := { x.tok with tok := older x.tok.tok } }
    part := ageToks s.fab.part
    ostore := ageToks s.fab.ostore
    mrgo := s.fab.mrgo.map fun m => { m with win := ageToks m.win }
    agePhase := s.fab.agePhase - 8 } }

def starveKey (cell slot : Nat) : Nat := cell * 4 + slot
/-- A counter that has reached 60 forces its context to issue in the next cycle; the lowest slot index comes first. -/
def execStarvationForce (die wafer cell : Nat) (s : State) : Host.Outcome State Fault Refusal :=
  let c := cellKey die wafer cell
  if s.fab.forced.any fun f => f.1 = c then .next s else
  match (List.range 4).find? fun x => s.forces ⟨⟨die, wafer, x⟩, 2 * cell⟩ with
  | none => .next s
  | some x => .next { s with fab := { s.fab with forced := s.fab.forced ++ [(c, x)] } }

/-- Stale tokens in the operand stores of a strand are dropped (R35). -/
def State.dropStale (s : State) (die task : Nat) : State :=
  match s.strand die task with
  | none => s
  | some st =>
    let bad := fun (t : LTok) => st.has t.node.ctx && !st.liveAt t.node.ctx t.key
    (s.fab.ostore.filter bad).foldl (fun (s : State) t => s.countBeat t.node t.port)
      { s with fab := { s.fab with ostore := s.fab.ostore.filter fun t => !bad t } }

end Sys2Proof.Machine
end

