-- ==== Sys2Proof/Machine/Matrix.lean ====
section
/-! DEFINITION. The systolic tile and its words, opcodes 0xA7 to 0xAC and VDCL with SYSW = 1 (R258 to R266, R123, R385). -/

namespace Sys2Proof.Machine

def State.tile (s : State) (n : Node) : Tile := Tab.get {} (waferKey n.ctx.die n.ctx.wafer) s.tiles
def State.setTile (s : State) (n : Node) (t : Tile) : State := { s with tiles := Tab.put {} (waferKey n.ctx.die n.ctx.wafer) t s.tiles }

/-- Words that change the tile's state once settled (R260, R266). -/
def tileWord (w : BitVec 64) : Bool := let op := opcode w; op = 0xA7 || op = 0xA8 || op = 0xA9 || op = 0xAC || op = 0xB0

/-- Settled tile words of the wafer, among those of `first`, that have not acted. -/
def State.tileDue (s : State) (n : Node) (first : Rmw → Bool) : Bool :=
  s.mem.rmwq.any fun r => tileWord r.word && first r && r.node.ctx.die = n.ctx.die && r.node.ctx.wafer = n.ctx.wafer &&
    (match s.strandOf r.node.ctx with | some st => s.settled st r.key | none => false)

/-- Cause 0x34 for a RETRY token; poison passes into the tile (R384, R385). -/
def retryFault (ts : List Tok) : Option Exn :=
  let t := tk ts 0
  if t.fl.retry && !t.fl.poi then some { cause := 0x34, code := 4 } else none

def macLimits : Limits := ⟨macFmt, fun _ _ => true, fun _ f => f ≤ 17, true, true⟩

/-- Condition 8 of MLDS and MFIR: SEQ above 511. -/
def State.seqFault511 (s : State) (a : FmtA) (t : Tok) : Option Exn := if 511 < t.seq.toNat then some (s.illegalVc 8 a.vci) else none

/-! MLDS, MSWP, MCTL, MCLR (R261, R262, R260, R264). -/

/-- A weight beat as VCI decodes it (R261). -/
def asVci (a : FmtA) (t : Tok) : Tok := { t with vc := a.vci }

def mldsFault (a : FmtA) (s : State) (ts : List Tok) : Option Exn :=
  let n := s.cur.node
  let t := tk ts 0
  if t.fl.nil then none else
  let v := asVci a t
  (firstExn [s.reservedFmt a.vci, s.reservedFmt t.vc, s.scaleFault n 0 v, s.quadFault v, s.maxmFault n 0 v]).or <|
  (s.crumbFault n 0 t).or <| (if macFmt (fmtOf (s.ent a.vci)) then none else some (s.illegalVc 2 a.vci)).or <|
  (if fmtLanes (fmtOf (s.ent t.vc)) = fmtLanes (fmtOf (s.ent a.vci)) then none else some (s.illegalVc 1 t.vc)).or <|
  (s.seqFault511 a t).or (retryFault ts)

/-- The scale of each lane, by VCI (R85, R261). -/
def State.weightScales (s : State) (a : FmtA) (t : Tok) : List Nat :=
  (s.wordsIn s.cur.node 0 (asVci a t) (fmtLanes (fmtOf (s.ent a.vci)))).map sclOf

def execMlds (h : Hd) (a : FmtA) (s : State) : Host.Outcome State Fault Refusal :=
  s.fire h ⟨[0], [0], [], [0]⟩ 127 (mldsFault a)
    (fun s ts => .fires (s.queueRmw 127 [0] ts (fmtOf (s.ent a.vci) :: s.weightScales a (tk ts 0))) [])
/-- An accumulation of the instance has been abandoned, and activation beats of it are still to come (R123). -/
def TileTag.over (x : TileTag) : Bool := match x.ending with | some e => 8 * (e + 1) ≤ x.seen | none => false
def State.abandoned (s : State) (n : Node) (k : Key) : Bool :=
  (s.tile n).tags.any fun x => x.key = k && x.slot = n.ctx.slot && x.dropped && !x.over
/-- The row is written; a weight beat of an abandoned accumulation, which is one of the same instance, is discarded (R123, log entry
164). -/
def State.performMlds (s : State) (r : Rmw) : Res :=
  if s.tileDue r.node (·.before r) then .waits else
  if s.abandoned r.node r.key then .fires s [] else
  let t := ((r.ops.head?).map (·.2)).getD {}
  let x := s.tile r.node
  let row : PlaneRow := ⟨t.data, r.nums.headD 2, r.nums.drop 1, t.fl.poi⟩
  .fires (s.setTile r.node { x with shadow := Tab.put {} t.seq.toNat row x.shadow }) []

def execMswp (h : Hd) (_p : BitVec 30) (s : State) : Host.Outcome State Fault Refusal :=
  s.fire h Slots.trigger 127 noPre (fun s ts => .fires (s.queueRmw 127 [0] ts) [])
/-- The planes are exchanged behind every beat delivered before, and after every MLDS that became settled before (R262). -/
def State.performMswp (s : State) (r : Rmw) : Res :=
  if s.tileDue r.node (·.before r) then .waits else
  let x := s.tile r.node
  .fires (s.setTile r.node { x with plane := x.shadow, shadow := x.plane }) []

def execMctl (h : Hd) (_p : BitVec 30) (s : State) : Host.Outcome State Fault Refusal :=
  s.fire h Slots.trigger 127 noPre (fun s ts => .fires (s.queueRmw 127 [0] ts) [])
def State.performMctl (s : State) (r : Rmw) : Res :=
  if s.tileDue r.node (·.before r) then .waits else
  .fires (s.setTile r.node { s.tile r.node with accf := bit r.word 0 }) []

/-- An MDRN is stopped at poisoned accumulators (R385). -/
def State.drainStopped (s : State) (r : FaultReg) : Bool := r.cause = 0x34 && r.code = 8 && opcode (s.wordAt r.node) = 0xAB
/-- An open record of an MDRN holds its tag's entry (R386). -/
def State.tileFrozen (s : State) (n : Node) (k : Key) : Bool :=
  s.flt.regs.any fun r => s.drainStopped r && r.key = k && r.node.ctx = n.ctx
/-- What the die's register window shows at 0xB_1000 + 48 × g (R386): the sums of column group g of the tag whose MDRN is stopped. -/
def State.sumsView (s : State) (die g : Nat) : Beat :=
  match s.flt.regs.find? fun r => s.drainStopped r && r.node.ctx.die = die with
  | none => 0
  | some r =>
    match (s.tile r.node).tags.find? fun x => x.key = r.key && x.slot = r.node.ctx.slot with
    | none => 0
    | some x => BitVec.ofNat 384 (pack ((List.range 8).map fun j => (48 * j, 48, x.sums.getD (8 * g + j) 0)))

def execMclr (h : Hd) (_p : BitVec 30) (s : State) : Host.Outcome State Fault Refusal :=
  s.fire h Slots.trigger 127 noPre (fun s ts => .fires (s.queueRmw 127 [0] ts) [])
def State.performMclr (s : State) (r : Rmw) : Res :=
  if s.tileDue r.node (·.before r) then .waits else
  let x := s.tile r.node
  let goes := fun (t : TileTag) => (bit r.word 0 || (t.key = r.key && t.slot = r.node.ctx.slot)) &&
    !s.tileFrozen ⟨{ r.node.ctx with slot := t.slot }, 0⟩ t.key
  .fires (s.setTile r.node { x with tags := x.tags.filter fun t => !goes t }) []

/-- VDCL with SYSW = 1 (R266): the header word's scale must not be 255 (R376). -/
def execVdclSystolic (h : Hd) (_p : BitVec 30) (s : State) : Host.Outcome State Fault Refusal :=
  s.fire h ⟨[0], [0], [0], [0]⟩ 127
    (ifData fun _ ts => let t := tk ts 0; if bits t.data 24 8 = 255 then some (fmtExn 3 t.vc (t.data.extractLsb' 0 32)) else none)
    (fun s ts => .fires (s.queueRmw 127 [0] ts) [])
def State.performVdcl (s : State) (r : Rmw) : Res :=
  if s.tileDue r.node (·.before r) then .waits else
  let t := ((r.ops.head?).map (·.2)).getD {}
  let x := s.tile r.node
  let d : TileDecl := ⟨r.word.extractLsb' 50 3, r.word.extractLsb' 0 3, t.data.extractLsb' 0 32⟩
  let slot := r.node.ctx.slot
  .fires (s.setTile r.node { x with decls := (slot, r.key, d) :: x.decls.filter fun y => !(y.1 = slot && y.2.1 = r.key) }) []

/-! MFIR (R263, R93, R385). -/

def mfirFault (a : FmtA) (high : Option Exn) (s : State) (ts : List Tok) : Option Exn :=
  if (tk ts 0).fl.nil then none else
  (s.formatFault a macLimits [0] ts (some 0) [high]).or ((s.seqFault511 a (tk ts 0)).or (retryFault ts))

/-- Lane values of a plane row under its recorded format and scales. -/
def PlaneRow.vals (w : PlaneRow) (n : Nat) : List Val :=
  (List.range n).map fun i => (laneVal w.fmt w.data i).scaled (w.scales.getD i 127)

/-- The exact sum of one column's products. Planes of other lanes per beat than the activation's have no stated result: free. -/
def State.columnSum (s : State) (plane : Tab PlaneRow) (row c : Nat) (f : Nat) (acts : List Val) : Val :=
  let w := Tab.get {} ((row * 8 + c / 8) * 8 + c % 8) plane
  if fmtLanes w.fmt != fmtLanes f then floatVal 14 ((Config.free s.ctr / 2 ^ (48 * c)) % 2 ^ 48)
  else sumVals .rne ((acts.zip (w.vals acts.length)).map fun p => mulVal p.1 p.2)

/-- A beat ends its accumulation by LAST, or by a covering header word with LOT = 1 (R263). -/
def State.endsStep (s : State) (n : Node) (t : Tok) : Bool :=
  let e := s.ent t.vc
  let (ws, used) := s.latched n 0 t
  t.fl.last || (List.range (validLanes (fmtOf e) t)).any fun i => bit (headerAt e ws (used + i)) 15

/-- The beat as the tile takes it, by its own token's format, scale and header words. -/
def State.tileBeat (s : State) (t : Tok) : TileBeat :=
  let n := s.cur.node
  let e := s.ent t.vc
  let f := fmtOf e
  let acts := s.vals n 0 t
  let plane := (s.tile n).plane
  let row := t.seq.toNat % 8
  let cols := List.range 64
  let (words, used) := s.latched n 0 t
  { step := t.seq.toNat / 8, row := row
    sums := cols.map fun c => s.columnSum plane row c f acts
    poison := cols.filter fun c => t.fl.poi || (Tab.get {} ((row * 8 + c / 8) * 8 + c % 8) plane).poison
    ends := s.endsStep n t
    blocks := blocksOf e words 0 used acts.length }

/-- SAT of the accumulator's VC: VCI of the block's MDRN (R92, log entry 36). -/
def State.accSat (s : State) (c : Ctx) : Bool :=
  match s.block c with
  | none => false
  | some b =>
    match (List.range b.words.length).find? fun i => opcode (b.word i) = 0xAB with
    | none => false
    | some i => satOf (s.vcEntry c.die c.wafer (i / 2) ((b.word i).extractLsb' 25 5))

/-- One k-step leaves the south edge: eight steps of R92 for each column, rows 0 to 7 (R93). -/
def TileTag.apply (sat : Bool) (t : TileTag) : TileTag :=
  let now := insSort (fun a b => decide (a.row ≤ b.row)) (t.beats.filter (·.step = t.done))
  { t with
    beats := t.beats.filter (·.step != t.done)
    done := t.done + 1
    poison := now.foldl (fun p b => b.poison.foldl addNew p) t.poison
    sums := (List.range 64).map fun c => now.foldl (fun acc b => macStep t.fmt sat acc [b.sums.getD c .nan]) (t.sums.getD c 0)
    final := now.any (·.ends) }

/-- Parts of one block that stand next to each other are one block. -/
def mergeBlocks : List Span → List Span
  | [] => []
  | b :: t =>
    match mergeBlocks t with
    | [] => [b]
    | d :: r => if b.start = d.start && b.word = d.word && b.fmt = d.fmt then { b with len := b.len + d.len } :: r else b :: d :: r

/-- Spans of activations that each MFIR node of the context has still to deliver, up to those marked LOT, in that node's format; none
when a node's latch holds no LOT word. `here` is the present node, whose latch on `vc` stands `extra` elements on; another node's latch is
the one on its word's VCI. -/
def State.undelivered (s : State) (here : Node) (vc : BitVec 5) (extra : Nat) : Option (List (List Span)) :=
  match s.block here.ctx with
  | none => none
  | some b =>
    (List.range b.words.length).foldl (fun acc i =>
      if opcode (b.word i) != 0xAA then acc else
      let n : Node := ⟨here.ctx, i⟩
      let v := if n = here then vc else (b.word i).extractLsb' 25 5
      match acc, s.latchOf n 0 v with
      | some a, some x =>
        (match toLot (s.vcEntry n.ctx.die n.ctx.wafer n.cell v) x.words 0 (x.used + if n = here then extra else 0) with
         | some r => some (a ++ [r])
         | none => if (x.words.any fun w => bit w 15) then some a else none)
      | _, _ => none) (some [])

/-- The threshold that a tag's declaration is checked against now. -/
def State.tileThreshold (s : State) (n : Node) (x : TileTag) : Option Val :=
  x.decl.bind fun d => if x.checking then threshold d.pred.toNat x.epoch (s.treg n.ctx.die n.ctx.wafer d.treg.toNat) else none

/-- What the monitor works with at the south edge (R119): the remaining blocks under both bounds, and the roundings still to come; none when
no check is made. The present node's latch stands `extra` elements on. One word bounds every weight, in the format that row 0 of cell 0 of the
active planes records (log entry 178); beats not yet there come as wide as the one just delivered (log entry 151). -/
def State.tileRest (s : State) (n : Node) (t : Tok) (x : TileTag) (extra : Nat) : Option (List (Nat × Val × Val) × Nat) :=
  let fw := (Tab.get {} 0 (s.tile n).plane).fmt
  let beats := insSort (fun a b => decide (a.step * 8 + a.row ≤ b.step * 8 + b.row)) x.beats
  match s.undelivered n t.vc extra, x.decl.bind fun d => maxmBound fw d.word with
  | some u, some bk =>
    let rem := mergeBlocks (beats.flatMap (·.blocks) ++ u.flatten)
    let terms := rem.map fun b => b.bound.map fun bq => (b.len, bq, bk)
    if rem.isEmpty || terms.any (·.isNone) || !x.poison.isEmpty then none else
    some (terms.filterMap id, beats.length + (u.map fun l => beatsLeft (spanLen l) (t.nlane.toNat + 1)).foldl (· + ·) 0)
  | _, _ => none

/-- The monitor at the south edge (R123), with every weight held to MAXM in the format of row 0 of cell 0 (log entry 178): the crumbs of all 64 columns when every one passes, and whether checks go on. -/
def State.tileMonitor (s : State) (n : Node) (t : Tok) (x : TileTag) : Option (List Nat) × Bool :=
  match s.tileThreshold n x, s.tileRest n t x (t.nlane.toNat + 1) with
  | none, _ => (none, false)
  | some _, none => (none, true)
  | some th, some (rem, k) =>
    let pred := (x.decl.map fun d => d.pred.toNat).getD 7
    let sides := x.sums.map fun c => (monitor false (elemVal x.fmt c) rem k).bind (abandons pred th)
    if sides.any (·.isNone) then (none, true)
    else (some (sides.map fun v => crumbCode x.fmt (v.getD false) (8 * x.done)), true)

/-- K-steps whose eight beats are there leave in ascending order, each followed by a check. -/
def State.tileRun (s : State) (n : Node) (t : Tok) (sat : Bool) : Nat → TileTag → TileTag
  | 0, x => x
  | f + 1, x =>
    if x.final || (x.beats.filter (·.step = x.done)).length < 8 then x else
    let x := x.apply sat
    if x.final then x else
    let m := if x.checking then s.tileMonitor n t x else (none, false)
    match m.1 with
    | some crumbs => { x with sums := crumbs, dropped := true, final := true, beats := [], checking := false }
    | none => s.tileRun n t sat f { x with checking := m.2 }

/-- A tag's fresh entry. -/
def TileTag.fresh (k : Key) (slot : Nat) : TileTag :=
  { key := k, slot := slot, fmt := 14, beats := [], seen := 0, ending := none, sums := List.replicate 64 0, done := 0,
    final := false, dropped := false, drained := false, poison := [], decl := none, epoch := 0, checking := false }

/-- At a tag's k-step 0 it takes the accumulator format and the declaration that stand (R264, R266). -/
def State.startTag (s : State) (n : Node) (x : TileTag) : TileTag × Tile :=
  let tile := s.tile n
  let mine := fun (y : Nat × Key × TileDecl) => y.1 = x.slot && y.2.1 = x.key
  let d := (tile.decls.find? mine).map (·.2.2)
  let epoch := match d with | some d => tregEpoch (s.treg n.ctx.die n.ctx.wafer d.treg.toNat) | none => 0
  ({ x with fmt := if tile.accf then 15 else 14, decl := d, epoch := epoch, checking := d.isSome },
   { tile with decls := tile.decls.filter fun y => !mine y })

/-- A beat of an abandoned accumulation counts, and ends the entry with its ending k-step once MDRN has drained it. -/
def TileTag.discard (x : TileTag) (step : Nat) (ends : Bool) : TileTag :=
  { x with seen := x.seen + 1, ending := if ends then some step else x.ending }

def State.putTag (s : State) (n : Node) (tile : Tile) (x : TileTag) : State :=
  let rest := tile.tags.filter fun y => !(y.key = x.key && y.slot = x.slot)
  s.setTile n { tile with tags := if x.drained && (!x.dropped || x.over) then rest else x :: rest }

/-- The lowest lane over its block's bound while the monitor makes checks (R378). -/
def State.overstated (s : State) (t : Tok) (x : TileTag) : Option Exn :=
  let n := s.cur.node
  let on := (s.tileThreshold n x).any usable && (s.tileRest n t x 0).isSome && x.sums.all fun c => usable (elemVal x.fmt c)
  if on && !t.fl.nil then
    let f := fmtOf (s.ent t.vc)
    let vs := s.vals n 0 t
    (overBound f vs (s.boundWords n 0 t vs.length)).map fun i => { cause := 0x22, code := BitVec.ofNat 16 (i * 256 + 3) }
  else none

/-- Does a beat belong to the k-step that a tag takes next, in a row that has none yet? -/
def TileTag.wants (x : TileTag) (q : Nat) : Bool :=
  !x.final && q / 8 = x.done && !(x.beats.any fun b => b.step = q / 8 && b.row = q % 8)
/-- A beat that the tag may take, brought to the front of its slot (R94): the others wait in the store. -/
def State.nextStep (s : State) (n : Node) (k : Key) (x : TileTag) : State :=
  match s.fab.ostore.find? fun t => t.node = n && t.port = 0 && t.key = k && x.wants t.tok.seq.toNat with
  | none => s
  | some t => (s.bySeq n k 0 t.tok.seq).getD s
/-- A tag as its next beat finds it, and the tile: at k-step 0 it starts. -/
def State.tagFor (s : State) (n : Node) (old : TileTag) (q : Nat) : TileTag × Tile :=
  if q / 8 = 0 && !(old.beats.any fun b => b.step = 0) then s.startTag n old else (old, s.tile n)

/-- Streams that the instance armed to feed a MLDS request no further weights of an accumulation that has been abandoned (R123, log entry
164). -/
def State.stopWeights (s : State) (n : Node) (k : Key) : State :=
  if !s.abandoned n k then s else
  let feeds := fun (x : Stream) => x.key = some k && x.slot = n.ctx.slot && !bit x.desc 236 && opcode (s.wordAt ⟨n.ctx, bits x.desc 213 7⟩) = 0xA7
  let end1 := fun (e : Nat × Stream) => if e.1 / 16 = waferKey n.ctx.die n.ctx.wafer && feeds e.2 then (e.1, endWalk e.2) else e
  { s with eng := { s.eng with streams := s.eng.streams.map end1 } }

/-- The instance's tag at the node. -/
def State.tagOf (s : State) (n : Node) (k : Key) : TileTag :=
  ((s.tile n).tags.find? fun y => y.key = k && y.slot = n.ctx.slot).getD (TileTag.fresh k n.ctx.slot)

/-- MFIR: deliver one activation beat. A beat waits in its store until every k-step before its own has been added (R94), and a beat of the
tag's next accumulation until MDRN has drained the last. -/
def execMfir (h : Hd) (a : FmtA) (s : State) : Host.Outcome State Fault Refusal :=
  let n := s.cur.node
  let k := s.cur.key
  let old := s.tagOf n k
  let drop := old.dropped && !old.over
  (if drop then s else s.nextStep n k old).fire h ⟨[0], [0], [], [0]⟩ 127
    (fun s ts => if drop then none else
      (mfirFault a (s.overstated (tk ts 0) (s.tagFor n old (tk ts 0).seq.toNat).1) s ts).or (s.crumbFault n 0 (tk ts 0)))
    (fun s ts =>
      let t := tk ts 0
      let step := t.seq.toNat / 8
      if s.tileDue n (fun _ => true) || s.tileFrozen n k then .waits
      else if drop then
        .fires (s.putTag n (s.tile n) (old.discard step (s.endsStep n t))) []
      else if !old.wants t.seq.toNat then .waits
      else
        let b := s.tileBeat t
        let (x, tile) := s.tagFor n old t.seq.toNat
        let x := { x with beats := x.beats ++ [b], seen := x.seen + 1, ending := if b.ends then some step else x.ending }
        .fires ((s.spent.putTag n tile (s.tileRun n t (s.accSat n.ctx) 64 x)).stopWeights n k) [])

/-! MDRN (R264, R385). -/

def mdrnFault (a : FmtA) (s : State) (_ : List Tok) : Option Exn :=
  let fi := fmtOf (s.ent a.vci)
  let fo := fmtOf (s.ent a.vco)
  (s.reservedFmt a.vci).or <| (s.reservedFmt a.vco).or <| (s.scaleOutFault s.cur.node a.vco 64).or <|
  if fi != 14 && fi != 15 then some (s.illegalVc 2 a.vci)
  else if 17 ≤ fo || fmtLanes fo < 8 then some (s.illegalVc 2 a.vco) else none

/-- A drained lane's code when it is a crumb: kept in F48 and S48 (R122, R264); in any other VCO the spec states none: free. -/
def State.drainedCrumb (s : State) (x : TileTag) (fo c : Nat) : Option Nat :=
  (crumbSide x.fmt (x.sums.getD c 0)).map fun above =>
    if fo = 14 || fo = 15 then (if fo = x.fmt then x.sums.getD c 0 else crumbCode fo above (8 * x.done))
    else Config.free s.ctr / 2 ^ (64 * c) % 2 ^ fmtBits fo

/-- Token `cc` of the eight. -/
def State.drainTok (s : State) (a : FmtA) (ts : List Tok) (x : TileTag) (cc : Nat) : Tok :=
  let fo := fmtOf (s.ent a.vco)
  let plain := s.encodeLanes a ((List.range 8).map fun j => elemVal x.fmt (x.sums.getD (8 * cc + j) 0))
  let data := (List.range 8).foldl (fun d j =>
    match s.drainedCrumb x fo (8 * cc + j) with
    | some c => setBits d (j * fmtBits fo) (fmtBits fo) c
    | none => d) plain
  let t := { result s.cur.word ts data with seq := BitVec.ofNat 16 cc, nlane := 7 }
  { t with fl := crumbFlags fo t }

/-- The tokens of a drain, counting the elements written under a latched header. -/
def State.drainOuts (s : State) (a : FmtA) (ts : List Tok) (x : TileTag) : Nat → Nat → List Out × State
  | 0, _ => ([], s)
  | f + 1, cc =>
    let o := outBoth (s.drainTok a ts x cc)
    let r := (s.wrote s.cur.node a.vco 8).drainOuts a ts x f (cc + 1)
    (o :: r.1, r.2)

def execMdrn (h : Hd) (a : FmtA) (s : State) : Host.Outcome State Fault Refusal :=
  let n := s.cur.node
  let k := s.cur.key
  s.fire h Slots.trigger 127 (mdrnFault a) (fun s ts =>
    if s.tileDue n (fun _ => true) then .waits else
    match (s.tile n).tags.find? fun y => y.key = k && y.slot = n.ctx.slot with
    | none => .waits
    | some x =>
      if !x.final || x.drained then .waits
      else if fmtOf (s.ent a.vci) != x.fmt then .faults (s.illegalVc 8 a.vci)
      else if !x.poison.isEmpty then
        .faults { cause := 0x34, code := 8, detail := BitVec.ofNat 384 (pack ((List.range 8).map fun g =>
          (g, 1, b2n (x.poison.any fun c => c / 8 = g)))) }
      else
        let (outs, s) := s.drainOuts a ts x 8 0
        .fires (s.spent.putTag n (s.tile n) { x with drained := true }) outs)

end Sys2Proof.Machine
end

