-- ==== Sys2Proof/Machine/Verdict.lean ====
section
/-! DEFINITION. Verdict words, opcodes 0xB0 to 0xB6 but VDCL with SYSW = 1 (R266 to R271). -/

namespace Sys2Proof.Machine

/-- VDCL with SYSW = 0: a declaration token (R266). -/
def declToken (fn : BitVec 6) (p : BitVec 30) : Beat :=
  BitVec.ofNat 384 (pack [(0, 3, fn.toNat), (3, 3, bits p 0 3), (6, 1, bits p 4 1)])
def execVdclDeclare (h : Hd) (p : BitVec 30) (s : State) : Host.Outcome State Fault Refusal :=
  s.fire h Slots.trigger 127 noPre (fun s ts => .fires s [outBoth (result s.cur.word ts (declToken h.fn p))])

/-! VACC (R267). -/

/-- What VACC keeps for a tag: the declaration token, beats consumed, the sum's code, whether a crumb was emitted, whether every
beat carried NIL, whether checks go on, the latched epoch. -/
structure Vacc where
  decl : Tok
  next : Nat
  sum : Nat
  crumbed : Bool
  allNil : Bool
  checking : Bool
  epoch : Nat

def Vacc.ofKept (k : Kept) : Vacc :=
  let x := fun (i : Nat) => k.nums.getD i 0
  ⟨k.ctl.headD {}, x 0, x 1, x 2 = 1, x 3 = 1, x 4 = 1, x 5⟩
def Vacc.kept (n : Node) (k : Key) (v : Vacc) : Kept :=
  ⟨n, k, [v.decl], [], [v.next, v.sum, b2n v.crumbed, b2n v.allNil, b2n v.checking, v.epoch]⟩
def Vacc.pred (v : Vacc) : Nat := bits v.decl.data 0 3
def Vacc.treg (v : Vacc) : Nat := bits v.decl.data 3 3
def Vacc.nl2 (v : Vacc) : Bool := bit v.decl.data 6 && !v.decl.fl.nil

/-- The accumulation that the beats of SEQ 0 open. -/
def State.openVacc (s : State) (decl : Tok) : Vacc :=
  let n := s.cur.node
  ⟨decl, 0, 0, false, true, !decl.fl.nil, tregEpoch (s.treg n.ctx.die n.ctx.wafer (bits decl.data 3 3))⟩

def vaccLimits : Limits := ⟨macFmt, fun _ fo => fo = 14 || fo = 15, fun _ f => f ≤ 17, true, true⟩

/-- The threshold the accumulation is checked against now. -/
def State.vaccThreshold (s : State) (v : Vacc) : Option Val :=
  let n := s.cur.node
  if v.checking then threshold v.pred v.epoch (s.treg n.ctx.die n.ctx.wafer v.treg) else none

/-- Beat a, beat b and the declaration: IMM16 stands in for beat b when IMS = 1, over the lanes of beat a (R199). -/
def State.vaccToks (s : State) (a : FmtA) (ts : List Tok) : List Tok :=
  s.withImm a (validLanes (fmtOf (s.ent (tk ts 0).vc)) (tk ts 0)) ts
/-- Slots that deliver beats. -/
def vaccBeats (a : FmtA) : List Nat := if a.ims then [0] else [0, 1]

/-- The declaration's own limits (R379). -/
def declFault (t : Tok) : Option Exn :=
  if !t.fl.nil && (bits t.data 0 3 = 7 || bits t.data 7 377 != 0) then some { cause := 0x23, code := 3 } else none

/-- One beat added (R92). -/
def State.vaccAdd (s : State) (a : FmtA) (v : Vacc) (ts : List Tok) : Nat :=
  let e := s.ent a.vco
  let x := s.vals s.cur.node 0 (tk ts 0)
  let l := x.zip (if a.ims then List.replicate x.length (immVal (fmtOf (s.ent a.vci)) a.imm) else s.vals s.cur.node 1 (tk ts 1))
  macStep (fmtOf e) (satOf e) v.sum (l.map fun p => if v.nl2 then nl2Term p.1 p.2 else mulVal p.1 p.2)

/-- Elements that a slot has still to deliver after its beat, through the first block it marks LOT; none when its latch holds no such block. -/
def State.lotLeft (s : State) (p : Nat) (t : Tok) : Option Nat :=
  let (ws, used) := s.latched s.cur.node p t
  (toLot (s.ent t.vc) ws 0 used).map fun l => spanLen l - (t.nlane.toNat + 1)
/-- The same of the accumulation: the first LOT block of either operand ends it (log entry 179). -/
def State.vaccLeft (s : State) (a : FmtA) (ts : List Tok) : Option Nat :=
  match (vaccBeats a).filterMap fun p => s.lotLeft p (tk ts p) with
  | [] => none
  | n :: l => some (l.foldl min n)

/-- Does this beat end the accumulation: LAST, or the last element of a LOT block? -/
def State.vaccEnds (s : State) (a : FmtA) (ts : List Tok) : Bool :=
  (tk ts 0).fl.last || (tk ts 1).fl.last || s.vaccLeft a ts = some 0

/-- Blocks of a slot over its next elements, `skip` on. -/
def State.blocksAt (s : State) (p : Nat) (t : Tok) (skip n : Nat) : List Span :=
  let (ws, used) := s.latched s.cur.node p t
  blocksOf (s.ent t.vc) ws 0 (used + skip) n

/-- What the monitor finds after the beats `ts`: the threshold and the bounds of R119, when it makes a check; the sum of `v` has them added. An
immediate has no header words, so nothing bounds it. -/
def State.vaccLook (s : State) (a : FmtA) (v : Vacc) (ts : List Tok) : Option (Val × Val × Val) :=
  match s.vaccThreshold v, if a.ims then none else s.vaccLeft a ts with
  | some th, some left =>
    let rest := fun (p : Nat) => s.blocksAt p (tk ts p) ((tk ts p).nlane.toNat + 1) left
    let beat := min (tk ts 0).nlane.toNat (tk ts 1).nlane.toNat + 1
    if !usable th then none else
    (pairBlocks (rest 0) (rest 1)).bind fun rem =>
      (monitor v.nl2 (elemVal (fmtOf (s.ent a.vco)) v.sum) rem (beatsLeft left beat)).map fun b => (th, b)
  | _, _ => none
/-- The check after a beat: the side when a test passes. The accumulation runs through the first LOT block of either operand, and no check is
made while the operands' remaining blocks differ in length (log entry 179). -/
def State.vaccCheck (s : State) (a : FmtA) (v : Vacc) (ts : List Tok) : Option Bool :=
  (s.vaccLook a v ts).bind fun x => abandons v.pred x.1 x.2

/-- The checks of the latched words and of the elements under them: a MAXM out of range in a word that covers the beat or that the monitor
reads (R377), and, while the monitor makes checks, an element over its bound (R378). -/
def State.vaccBounds (s : State) (a : FmtA) (v : Vacc) (ts : List Tok) : List (Option Exn) :=
  let nil := (tk ts 0).fl.nil || (tk ts 1).fl.nil
  let left := if (s.vaccThreshold v).isSome then (s.vaccLeft a ts).getD 0 else 0
  let on := !nil && (s.vaccLook a { v with sum := s.vaccAdd a v ts } ts).isSome
  (vaccBeats a).flatMap fun p =>
    let t := tk ts p
    let f := fmtOf (s.ent t.vc)
    let vs := s.vals s.cur.node p t
    [badMaxm f ((s.blocksAt p t 0 (t.nlane.toNat + 1 + left)).map (·.word)),
     if on then (overBound f vs (s.boundWords s.cur.node p t vs.length)).map fun i =>
       { cause := 0x22, code := BitVec.ofNat 16 (i * 256 + 3) } else none]

/-- The emitted token: NLANE 0. -/
def State.vaccTok (s : State) (ts : List Tok) (code : Nat) (nil : Bool) (crumb : Option Bool) : Tok :=
  let f := joinFlags (ts.take 2)
  { result s.cur.word ts 0 with
    data := if nil then 0 else BitVec.ofNat 384 code, nlane := 0
    fl := { nil := nil, endf := f.endf, last := f.last, crb := crumb.isSome, cside := crumb = some true } }

def State.vaccBeat (s : State) (a : FmtA) (v : Vacc) (ts : List Tok) : Res :=
  let n := s.cur.node
  let k := s.cur.key
  let ts := s.vaccToks a ts
  let ends := s.vaccEnds a ts
  let keep := fun (s : State) (v : Vacc) => if ends then s.unkeep n k else s.setKept (v.kept n k)
  let v := { v with next := v.next + 1 }
  if v.crumbed then .fires (keep s v) [] else
  let nilBeat := (tk ts 0).fl.nil || (tk ts 1).fl.nil
  let v := if nilBeat then v else { v with sum := s.vaccAdd a v ts, allNil := false }
  let v := { v with checking := (s.vaccThreshold v).isSome }
  if ends then .fires (keep s v) [outBoth (s.vaccTok ts v.sum v.allNil none)]
  else match s.vaccCheck a v ts with
    | some above => .fires (keep s { v with crumbed := true })
        [outBoth (s.vaccTok ts (crumbCode (fmtOf (s.ent a.vco)) above v.next) false (some above))]
    | none => .fires (keep s v) []

/-- Both beats of the next SEQ at the front of their slots. -/
def State.nextBeats (s : State) (a : FmtA) (n : Node) (k : Key) (q : Nat) : Option State :=
  (s.bySeq n k 0 (BitVec.ofNat 16 q)).bind fun s => if a.ims then some s else s.bySeq n k 1 (BitVec.ofNat 16 q)

def vaccFault (a : FmtA) (v : State → List Tok → Vacc) (s : State) (ts : List Tok) : Option Exn :=
  s.formatFault a vaccLimits (vaccBeats a) (ts.take (vaccBeats a).length) (some 0) (s.vaccBounds a (v s (s.vaccToks a ts)) (s.vaccToks a ts))

def execVacc (h : Hd) (a : FmtA) (s : State) : Host.Outcome State Fault Refusal :=
  let n := s.cur.node
  let k := s.cur.key
  let beats := vaccBeats a
  let all := beats ++ [2]
  match s.keptOf n k with
  | none =>
    match s.nextBeats a n k 0 with
    | none => .next s
    | some s =>
      s.fire h ⟨all, all, all, []⟩ 127 (vaccFault a fun s ts => s.openVacc (tk ts 2)) (fun s ts =>
        let decl := tk (s.vaccToks a ts) 2
        match declFault decl with
        | some x => .faults x
        | none => s.vaccBeat a (s.openVacc decl) ts)
  | some k0 =>
    let v := Vacc.ofKept k0
    match s.nextBeats a n k v.next with
    | none => .next s
    | some s =>
      if v.crumbed then s.fire h ⟨beats, all, [], []⟩ 127 noPre (fun s ts => s.vaccBeat a v ts)
      else s.fire h ⟨beats, all, beats, []⟩ 127 (vaccFault a fun _ _ => v) (fun s ts => s.vaccBeat a v ts)

/-! BNDS (R268). -/

/-- Header words of a token. -/
def wordsOf (t : Tok) : List (BitVec 32) := (List.range (min t.nlane.toNat 11 + 1)).map fun i => t.data.extractLsb' (32 * i) 32

def bndsFault (a : FmtA) (s : State) (ts : List Tok) : Option Exn :=
  let f := fmtOf (s.ent a.vci)
  let pairs := (wordsOf (tk ts 0)).zip (wordsOf (tk ts 1))
  if ts.any (·.fl.nil) then (s.reservedFmt a.vci).or (s.reservedFmt a.vco) else
  (s.reservedFmt a.vci).or <| (s.reservedFmt a.vco).or <|
  (pairs.findSome? fun p => if sclOf p.1 = 255 then some (fmtExn 3 (tk ts 0).vc p.1)
    else if sclOf p.2 = 255 then some (fmtExn 3 (tk ts 1).vc p.2) else none).or <|
  (pairs.findSome? fun p =>
    if [p.1, p.2].any fun w => maxmOf w != 0xFFF && maxmLimit f < maxmOf w then some { cause := 0x22, code := 2 } else none).or <|
  if fmtOf (s.ent a.vco) != 11 then some (s.illegalVc 2 a.vco) else none

def bndsTerm (f : Nat) (p : BitVec 32 × BitVec 32) : Option (Nat × Val × Val) :=
  if wordLen p.1 != wordLen p.2 then none else
  match maxmBound f p.1, maxmBound f p.2 with
  | some x, some y => some (wordLen p.1, x, y)
  | _, _ => none

def State.bnds (s : State) (a : FmtA) (ts : List Tok) : Val :=
  let l := ((wordsOf (tk ts 0)).zip (wordsOf (tk ts 1))).map (bndsTerm (fmtOf (s.ent a.vci)))
  if l.any (·.isNone) then .inf false else boundSum (a.ims && bit a.imm 0) (.fin false 0 0) (l.filterMap id)

def execBnds (h : Hd) (a : FmtA) (s : State) : Host.Outcome State Fault Refusal :=
  s.fire h (Slots.of [0, 1] [0, 1]) 127 (bndsFault a)
    (fun s ts => .fires s [outBoth (result s.cur.word ts (BitVec.ofNat 384 (encodeFloat 11 .rup false (s.bnds a ts))))])

/-! TOPK (R269). -/

/-- A candidate: the score's code and format, and its id. -/
structure Topk where
  code : Nat
  fmt : Nat
  id : Nat

def Topk.val (x : Topk) : Val := elemVal x.fmt x.code
/-- Candidates as kept, best first. -/
def topkList : List Nat → List Topk
  | c :: f :: i :: t => ⟨c, f, i⟩ :: topkList t
  | _ => []
def topkFlat (l : List Topk) : List Nat := l.flatMap fun x => [x.code, x.fmt, x.id]

/-- Does candidate a rank before b: larger score (smaller with MIN), then lower id. -/
def topkBefore (min : Bool) (a b : Topk) : Bool :=
  let c := cmpVal a.val b.val
  let c := if min then -c else c
  decide (0 < c) || (c = 0 && a.id < b.id)

/-- Insert, cut to k; and the k-th best when it has improved. -/
def topkAdd (min : Bool) (k : Nat) (l : List Topk) (x : Topk) : List Topk × Option Topk :=
  let new := (insSorted (fun a b => !topkBefore min b a) x l).take k
  match l[k - 1]?, new[k - 1]? with
  | _, none => (new, none)
  | none, some c => (new, some c)
  | some o, some c => (new, if cmpVal o.val c.val = 0 then none else some c)

def topkLimits : Limits := ⟨fun f => f = 14 || f = 15 || f = 11, fun fi fo => fi = fo, fun _ f => f ≤ 17, true, true⟩

/-- The scores of a token's lanes, crumbs and NaN left out. -/
def State.topkScores (s : State) (t : Tok) : List Topk :=
  let f := fmtOf (s.ent t.vc)
  (List.range (validLanes f t)).filterMap fun i =>
    let c := laneCode f t.data i
    if (crumbSide f c).isSome || (elemVal f c).isNaN then none else some ⟨c, f, t.seq.toNat * fmtLanes f + i⟩

/-- A crumb above with MIN = 0, or below with MIN = 1 (R375), then poison. -/
def topkFault (a : FmtA) (s : State) (ts : List Tok) : Option Exn :=
  let t := tk ts 0
  if t.fl.nil then none else
  let f := fmtOf (s.ent t.vc)
  (s.formatFault a topkLimits [0] ts (some 0)).or <|
  (((List.range (validLanes f t)).find? fun i => crumbSide f (laneCode f t.data i) = some (!bit a.imm 6)).map fun i =>
    { cause := 0x20, code := BitVec.ofNat 16 (pack [(8, 8, i), (2, 1, b2n (!bit a.imm 6))]) }).or (poisonFault 0 t)

/-- The offered score in F48: FP32 widens exactly; the spec states no conversion of an S48 score: free. -/
def State.offerOf (s : State) (f c : Nat) : BitVec 48 :=
  if f = 14 then BitVec.ofNat 48 c else if f = 11 then BitVec.ofNat 48 (encodeFloat 14 .rne false (floatVal 11 c)) else s.freeBits 48

/-- An offer that waits until its instance is settled. -/
def State.queueOffer (s : State) (die wafer t : Nat) (v : BitVec 48) : State :=
  let n := s.cur.node
  let o : Offer := { die := die, wafer := wafer, reg := t, val := v, who := some (n, s.cur.key), die0 := n.ctx.die
                     task := match s.here with | some st => st.task | none => 0 }
  { s with mat := { s.mat with offers := s.mat.offers ++ [o] } }

/-- A score as a code of VCO, which is VCI. -/
def State.topkCode (s : State) (a : FmtA) (x : Topk) : Nat :=
  let e := s.ent a.vco
  if x.fmt = fmtOf e then x.code else encodeElem (fmtOf e) (s.rndOfA a) (satOf e) x.val

/-- All the candidates of a token, with PUB's offers. -/
def State.topkTake (s : State) (a : FmtA) : List Topk → List Topk → List Topk × State
  | l, [] => (l, s)
  | l, x :: t =>
    let n := s.cur.node
    let r := topkAdd (bit a.imm 6) (bits a.imm 0 6 + 1) l x
    match r.2, bit a.imm 7 with
    | some c, true =>
      ((s.queueOffer n.ctx.die n.ctx.wafer (bits a.imm 8 3) (s.offerOf (fmtOf (s.ent a.vci)) (s.topkCode a c))).spent).topkTake a r.1 t
    | _, _ => s.topkTake a r.1 t

/-- Results and END or NIL (R269, R107), with the flags of the token that ends the stream (R27). -/
def State.topkOuts (s : State) (a : FmtA) (ts : List Tok) (l : List Topk) : List Out :=
  let f := joinFlags ts
  let base : Tok := { (ts.headD {}) with fl := { last := f.last, endf := f.endf }, nlane := 0, age := 0 }
  let n := l.length
  let fin : Tok := { base with
    seq := BitVec.ofNat 16 n, data := BitVec.ofNat 384 n, fl := { last := f.last, endf := f.endf || n != 0, nil := n = 0 } }
  ((List.range n).flatMap fun i =>
    match l[i]? with
    | none => []
    | some x =>
      [outA { base with vc := a.vco, seq := BitVec.ofNat 16 i, data := BitVec.ofNat 384 (s.topkCode a x) },
       outB { base with vc := 0, seq := BitVec.ofNat 16 i, data := BitVec.ofNat 384 (x.id % 2 ^ 32) }]) ++
  [outA { fin with vc := a.vco }, outB { fin with vc := 0 }]

def execTopk (h : Hd) (a : FmtA) (s : State) : Host.Outcome State Fault Refusal :=
  let n := s.cur.node
  let k := s.cur.key
  let nums := ((s.keptOf n k).map (·.nums)).getD [0]
  match s.bySeq n k 0 (BitVec.ofNat 16 (nums.headD 0)) with
  | none => .next s
  | some s =>
    s.fire h ⟨[0], [0], [], []⟩ 127 (topkFault a) (fun s ts =>
      let t := tk ts 0
      let (l, s) := s.topkTake a (topkList (nums.drop 1)) (if t.fl.nil then [] else s.topkScores t)
      if t.fl.last then .fires (s.unkeep n k) (s.topkOuts a ts l)
      else .fires (s.setKept ⟨n, k, [], [], (nums.headD 0 + 1) :: topkFlat l⟩) [])

/-! THRP (R270). -/

/-- WMASK of a partition (R346). -/
def State.inMask (s : State) (part die wafer : Nat) : Bool := bit (s.partEntry part) (512 + 64 * die + wafer)

/-- The offered value: F48 as it is, FP32 widened; the spec gives a token of another format no value: free. -/
def State.thrpValue (s : State) (t : Tok) : BitVec 48 :=
  let f := fmtOf (s.ent t.vc)
  if f = 14 || f = 11 then s.offerOf f (laneCode f t.data 0) else s.freeBits 48

def execThrp (h : Hd) (p : BitVec 30) (s : State) : Host.Outcome State Fault Refusal :=
  let n := s.cur.node
  let far := bit p 3
  s.fire h ⟨[0], [0], [0], [0]⟩ 127 noPre (fun s ts =>
    match s.here with
    | none => .waits
    | some st =>
      if far && !s.inMask st.part (bits p 10 3) (bits p 4 6) then .faults { cause := 0x23, code := 2 }
      else
        let die := if far then bits p 10 3 else n.ctx.die
        let wafer := if far then bits p 4 6 else n.ctx.wafer
        .fires (s.hold 127 (tk ts 0).wave (.offer die wafer (bits p 0 3) (s.thrpValue (tk ts 0)))).spent [])

/-! VPIK, ISCR (R271). -/

def accFmt (f : Nat) : Bool := f = 14 || f = 15

/-- Lanes of slot 0 as they stand: the crumb side of each. -/
def State.sides (s : State) (t : Tok) : List (Option Bool) :=
  let f := fmtOf (s.ent t.vc)
  (List.range (validLanes f t)).map fun i => crumbSide f (laneCode f t.data i)

/-- VCO takes the lanes of slot 0. -/
def vpikLimits : Limits := ⟨accFmt, fun _ fo => fo ≤ 17, fun _ f => f ≤ 17, true, true⟩
def vpikFault (a : FmtA) (ports : List Nat) (s : State) (ts : List Tok) : Option Exn :=
  let n := validLanes (fmtOf (s.ent (tk ts 0).vc)) (tk ts 0)
  (s.formatFault a vpikLimits ports ts (some n)).or <|
  (if accFmt (fmtOf (s.ent (tk ts 0).vc)) then none else some (s.illegalVc 2 (tk ts 0).vc)).or <|
  (if fmtLanes (fmtOf (s.ent a.vco)) < n then some (s.illegalVc 2 a.vco) else none).or (poisonFault 0 (tk ts 0))

def State.vpik (s : State) (a : FmtA) (ts : List Tok) : List Val :=
  let t := tk ts 0
  let sides := s.sides t
  let vs := s.vals s.cur.node 0 t
  let rep := s.vals s.cur.node 1 (tk ts 1)
  (List.range sides.length).map fun i =>
    if (sides.getD i none).isSome then
      (if a.ims then immVal (fmtOf (s.ent a.vci)) a.imm else rep.getD i (.fin false 0 0))
    else vs.getD i .nan

def execVpik (h : Hd) (a : FmtA) (s : State) : Host.Outcome State Fault Refusal :=
  let ports := slotsA a [0, 1]
  s.fire h ⟨ports, ports, ports.filter (· != 0), ports⟩ 127
    (fun s ts => if ts.any (·.fl.nil) then none else vpikFault a ports s ts)
    (fun s ts =>
      let fo := fmtOf (s.ent a.vco)
      let l := s.vpik a ts
      let t := result s.cur.word ts (s.encodeLanes a l)
      .fires (s.wrote s.cur.node a.vco l.length) [outBoth (if fo = 17 then { t with nlane := nlaneFor 17 l.length } else t)])

/-- The test of ISCR. -/
def iscrTest (test : Nat) (c : Option Bool) : Bool :=
  if test = 0 then c.isSome else if test = 1 then c = some false else if test = 2 then c = some true else c.isNone

def iscrLimits : Limits := ⟨accFmt, fun fi fo => intVco fi fo || fo = 17, fun _ f => f ≤ 17, true, false⟩
def iscrFault (a : FmtA) (s : State) (ts : List Tok) : Option Exn :=
  let t := tk ts 0
  if t.fl.nil then none else
  (s.formatFault a iscrLimits [0] ts).or <|
  (if accFmt (fmtOf (s.ent t.vc)) then none else some (s.illegalVc 2 t.vc)).or (poisonFault 0 t)
def execIscr (h : Hd) (a : FmtA) (s : State) : Host.Outcome State Fault Refusal :=
  s.fire h ⟨[0], [0], [], [0]⟩ 127 (iscrFault a) (fun s ts =>
    let (d, nl) := condResult (fmtOf (s.ent a.vco)) ((s.sides (tk ts 0)).map (iscrTest (bits a.imm 0 2))) (tk ts 0).nlane
    .fires s [outBoth { result s.cur.word ts d with nlane := nl }])

end Sys2Proof.Machine
end

