-- ==== Sys2Proof/Machine/Match.lean ====
section
/-! DEFINITION. Match stores and their words, opcodes 0xC0 to 0xC9 (R97 to R115, R303 to R311, R336, R337, R378, R380): what the
words do when they fire, and what their operations do at a store's port. -/

namespace Sys2Proof.Machine

/-! Descriptors (R97). -/

def storeKey (die wafer sel : Nat) : Nat := waferKey die wafer * 64 + sel
/-- Key of a filter entry (R104). -/
def filtKey (die wafer f : Nat) : Nat := waferKey die wafer * 256 + f
def State.store (s : State) (key : Nat) : Store := Tab.get {} key s.mat.stores
def State.setStore (s : State) (key : Nat) (x : Store) : State := { s with mat := { s.mat with stores := Tab.put {} key x s.mat.stores } }
/-- The global store id. -/
def State.gid (s : State) (key : Nat) : Nat := s.module.toNat * 2 ^ 15 + key
/-- The store of an id, when it lies on this module. -/
def State.ofGid (s : State) (g : Nat) : Option Nat := if g / 2 ^ 15 = s.module.toNat then some (g % 2 ^ 15) else none

def Desc.v (d : Desc) : Bool := bit d 0
def Desc.hg (d : Desc) : Nat := bits d 16 8
def Desc.lmode (d : Desc) : Bool := bit d 32
def Desc.kind (d : Desc) : Nat := bits d 33 2
def Desc.klc (d : Desc) : Nat := bits d 35 3
def Desc.kvc (d : Desc) : BitVec 5 := d.extractLsb' 38 5
def Desc.svc (d : Desc) : BitVec 5 := d.extractLsb' 43 5
def Desc.vvc (d : Desc) : BitVec 5 := d.extractLsb' 48 5
def Desc.ncell (d : Desc) : Nat := bits d 53 6
def Desc.cell0 (d : Desc) : Nat := bits d 59 6
def Desc.sidev (d : Desc) : Bool := bit d 65
def Desc.side (d : Desc) : Nat := bits d 66 6
def Desc.gen (d : Desc) : Nat := bits d 72 8
def Desc.nrec (d : Desc) : Nat := bits d 80 16
def Desc.nseq (d : Desc) : Nat := bits d 96 32
def Desc.setNrec (d : Desc) (n : Nat) : Desc := setBits d 80 16 n
def Desc.setNseq (d : Desc) (n : Nat) : Desc := setBits d 96 32 n
def Desc.kl (d : Desc) : Nat := 16 * 2 ^ d.klc

/-- The entry of a store's cell CELL0 for a VC (R102). -/
def State.storeEnt (s : State) (key : Nat) (vc : BitVec 5) : BitVec 32 :=
  s.vcEntry (key / 4096) (key / 64 % 64) (s.store key).desc.cell0 vc
def State.keyEnt (s : State) (key : Nat) : BitVec 32 := s.storeEnt key (s.store key).desc.kvc
/-- Beats of a key record, RB (R99): as many as its key or query beats. -/
def beatsOfKey (e : BitVec 32) (kl : Nat) : Nat := (kl * fmtBits (fmtOf e) + 383) / 384
def State.keyBeats (s : State) (key : Nat) : Nat := beatsOfKey (s.keyEnt key) (s.store key).desc.kl
/-- Records a store has room for (R99). -/
def State.storeRoom (s : State) (key : Nat) : Nat := ((s.store key).desc.ncell + 1) * (65536 / ((s.keyBeats key + 1) * 48))
/-- The store that takes a KPUT's or KDEL's record (R100, R113). -/
def State.target (s : State) (key : Nat) : Nat :=
  let d := (s.store key).desc
  if d.sidev then key / 64 * 64 + d.side else key

/-! Records (R99, R100). -/

def KRec.pos (r : KRec) : Nat := bits r.info 0 32
def KRec.owner (r : KRec) : Nat := bits r.info 32 32
def KRec.life (r : KRec) : Nat := bits r.info 64 16
def KRec.rgen (r : KRec) : Nat := bits r.info 80 8
def KRec.tomb (r : KRec) : Bool := bit r.info 88
def KRec.dead (r : KRec) : Bool := bit r.info 89
def KRec.cls (r : KRec) : Nat := bits r.info 90 6
def KRec.seqn (r : KRec) : Nat := bits r.info 96 32
def KRec.kill (r : KRec) : KRec := { r with info := setBits r.info 89 1 1 }

/-! Faults of the match words (R380). -/

def exn24 (code : Nat) : Exn := { cause := 0x24, code := BitVec.ofNat 16 code }
/-- The lowest failing CODE of a list in ascending order (R374). -/
def firstCode (l : List (Nat × Bool)) : Option Exn := (l.find? (·.2)).map fun x => exn24 x.1

/-- A word's store: of its own wafer. -/
def State.ownStore (s : State) (c : FmtK) : Nat := storeKey s.cur.node.ctx.die s.cur.node.ctx.wafer c.sel.toNat
def State.notValid (s : State) (key : Nat) : Bool := !(s.store key).desc.v
def State.wrongVc (s : State) (key : Nat) (kvc : BitVec 5) : Bool := (s.store key).desc.kvc != kvc

/-- CODE 0x0001 of cause 0x21: KVC's entry in CELL0 names no format. -/
def State.keyFmtFault (s : State) (key : Nat) : Option Exn :=
  let e := s.keyEnt key
  if (s.store key).desc.v && 18 ≤ fmtOf e then some (fmtExn 1 (s.store key).desc.kvc e) else none

/-- Room and numbers left, counting reservations (R380). -/
def State.reservedIn (s : State) (t : Nat) : Nat := s.mat.reserved.countP fun r => r.1 = t
def State.noRoom (s : State) (key : Nat) (more : Nat) : Bool :=
  let t := s.target key
  s.storeRoom t ≤ (s.store t).desc.nrec + more
def State.noNumber (s : State) (key : Nat) (more : Nat) : Bool :=
  2 ^ 32 - 1 ≤ (s.store key).desc.nseq + more || 65535 ≤ (s.store (s.target key)).desc.nrec + more

/-- A zero token at the issue of a store-class match word (R155). -/
def State.holdPort (s : State) (c : FmtK) (ts : List Tok) (op : PortOp) : Res :=
  .fires (s.hold 127 (tk ts 0).wave (.port c.sel.toNat c.keyvc op)) [outBoth (s.zeroTok ts)]

/-! KDEF (R304, R376, R380). -/

def kdefDesc (b : Beat) (kvc : BitVec 5) : Desc :=
  setBits (BitVec.ofNat 128 (bits b 1 71 * 2 + 1)) 38 5 kvc.toNat &&& BitVec.ofNat 128 (2 ^ 72 - 2 ^ 16 + 1)

/-- Conditions of CODE 0x0002 and 0x0003. -/
def State.kdefCodes (s : State) (key : Nat) (kvc : BitVec 5) (b : Beat) : List (Nat × Bool) :=
  let d := kdefDesc b kvc
  let old := (s.store key).desc
  [(2, bits b 38 5 != kvc.toNat || d.kind = 3 || 5 ≤ d.klc || 63 < d.cell0 + d.ncell ||
      (d.kind != 1 && ((List.range (d.ncell + 1)).map (d.cell0 + ·)).any fun c => s.role (key / 4096) (key / 64 % 64) c != 3) ||
      (d.sidev && (d.side = key % 64 || (s.store (key / 64 * 64 + d.side)).desc.kind != 2)) || (d.kind = 1 && d.lmode)),
   (3, old.v && !bit b 0 && (d.klc != old.klc || d.kind != old.kind || d.cell0 != old.cell0 || d.ncell != old.ncell))]

def execKdef (h : Hd) (c : FmtK) (s : State) : Host.Outcome State Fault Refusal :=
  s.fire h (Slots.of [0] [0]) 127 noPre (fun s ts =>
    match firstCode (s.kdefCodes (s.ownStore c) c.keyvc (tk ts 0).data) with
    | some x => .faults x
    | none => s.holdPort c ts (.kdef (tk ts 0).data))

/-- KDEF at its port. -/
def State.applyKdef (s : State) (key : Nat) (kvc : BitVec 5) (b : Beat) : State :=
  let old := s.store key
  let d := kdefDesc b kvc
  let fresh := !old.desc.v || bit b 0
  let d := if fresh then d else d ||| (old.desc &&& BitVec.ofNat 128 (2 ^ 128 - 2 ^ 72))
  s.setStore key { old with desc := d, recs := if fresh then [] else old.recs }

/-! KPUT (R305). -/

/-- The key or query beat that the node collects next, at the front of slot 0: a beat whose SEQ is beyond the key, else the next by SEQ. -/
def State.nextKeyBeat (s : State) (n : Node) (k : Key) (key : Nat) : Option State :=
  let got := ((s.keptOf n k).map (·.toks.length)).getD 0
  let beyond := s.fab.ostore.find? fun t => t.node = n && t.port = 0 && t.key = k && s.keyBeats key ≤ t.tok.seq.toNat && !t.tok.fl.nil
  s.bySeq n k 0 (match beyond with | some t => t.tok.seq | none => BitVec.ofNat 16 got)

/-- Collect key or query beats at slot 0 in SEQ order; the last beat fires with the other slots `rest`. The form of a beat (CODE 0x0005) and
the codes of `early` are checked as it is collected, those of `late` when the word fires, and the lowest that fails is recorded (R374). -/
def State.collector (s : State) (h : Hd) (key : Nat) (rest comp : List Nat) (early : State → List (Nat × Bool))
    (late : State → List Tok → List (Nat × Bool)) (last : State → List Tok → List Tok → Res) : Host.Outcome State Fault Refusal :=
  let n := s.cur.node
  let k := s.cur.key
  let got := ((s.keptOf n k).map (·.toks)).getD []
  let nb := s.keyBeats key
  match s.nextKeyBeat n k key with
  | none => .next s
  | some s =>
    match s.slotTok n k 0 with
    | none => .next s
    | some t =>
      let all := 0 :: rest
      let bad := nb ≤ t.seq.toNat || t.fl.last != decide (t.seq.toNat + 1 = nb)
      let form := (5, bad)
      let pre := fun (s : State) (_ : List Tok) => s.keyFmtFault key
      if t.fl.nil then
        s.fire h ⟨all, all, [], []⟩ 127 noPre (fun s ts => .fires (s.unkeep n k) [outBoth (nilResult s.cur.word ts)])
      else if t.fl.last && !bad then
        s.fire h ⟨all, all, comp, []⟩ 127 pre (fun s ts =>
          match firstCode (insSort (fun a b => decide (a.1 ≤ b.1)) (early s ++ late s (ts.drop 1))) with
          | some x => .faults x
          | none => last s (got ++ [tk ts 0]) (ts.drop 1))
      else
        s.fire h ⟨[0], all, [0], []⟩ 127 pre (fun s ts =>
          match firstCode (insSort (fun a b => decide (a.1 ≤ b.1)) (form :: (early s).filter fun x => x.1 != 4 && x.1 != 12)) with
          | some x => .faults x
          | none => .fires (s.setKept ⟨n, k, [], got ++ [tk ts 0], []⟩) [])

/-- The key's elements with the lanes beyond NLANE zero (R305), as KVC packs them. -/
def keyData (f : Nat) (t : Tok) : Beat := maskLanes f (validLanes f t) t.data

/-- A descriptor with no free record, or none left to number, stops a KPUT or KDEL. -/
def State.putCodes (s : State) (key : Nat) (kvc : BitVec 5) : List (Nat × Bool) :=
  let r := s.reservedIn (s.target key)
  [(1, s.notValid key), (4, s.noRoom key r), (6, (s.store key).desc.kind = 1), (12, s.noNumber key r), (13, s.wrongVc key kvc)]

/-- Reserve one record of the target store. -/
def State.reserve (s : State) (key : Nat) : State :=
  { s with mat := { s.mat with reserved := s.mat.reserved ++ [(s.target key, s.cur.node, s.cur.key)] } }

def execKput (h : Hd) (c : FmtK) (s : State) : Host.Outcome State Fault Refusal :=
  let key := s.ownStore c
  let n := s.cur.node
  let k := s.cur.key
  s.collector h key [1, 2] [0, 1] (fun s => s.putCodes key c.keyvc) (fun _ _ => []) (fun s beats rest =>
    let f := fmtOf (s.keyEnt key)
    let v := tk rest 1
    (((s.unkeep n k).reserve key)).holdPort c beats
      (.kput (beats.map (keyData f)) ((tk rest 0).data.extractLsb' 0 128) (s.laneData v) v.fl.poi))

/-- Metadata as the store writes it (R100). -/
def freshInfo (d : Desc) (m : BitVec 128) : BitVec 128 :=
  BitVec.ofNat 128 (pack [(0, 32, bits m 0 32), (32, 32, bits m 32 32), (64, 16, bits m 64 16), (80, 8, d.gen),
    (90, 6, bits m 90 6), (96, 32, d.nseq)])
/-- A tombstone's metadata (R113). -/
def tombInfo (d : Desc) (target : Nat) : BitVec 128 :=
  BitVec.ofNat 128 (pack [(0, 32, target), (80, 8, d.gen), (88, 1, 1), (96, 32, d.nseq)])

/-- The cells of a store, in whose banks its records lie. -/
def Desc.cells (d : Desc) : List Nat := (List.range (d.ncell + 1)).map (d.cell0 + ·)
/-- Records written into a store's banks: which of their bytes they fill is open (log entry 60). -/
def Store.putRecs (x : Store) (l : List KRec) : Store :=
  { x with desc := x.desc.setNrec l.length, recs := l, used := x.desc.cells.foldl addNew x.used }

/-- A record enters the target store; its SEQN is the main store's. -/
def State.addRecord (s : State) (key : Nat) (r : KRec) : State :=
  let m := s.store key
  let s := s.setStore key { m with desc := m.desc.setNseq (m.desc.nseq + 1) }
  let t := s.store (s.target key)
  s.setStore (s.target key) (t.putRecs (t.recs ++ [r]))

/-- What KPUT and KDEL meet at the port (R380). -/
def State.portPutCodes (s : State) (key : Nat) (kvc : BitVec 5) : List (Nat × Bool) :=
  [(1, s.notValid key), (4, s.noRoom key 0), (6, (s.store key).desc.kind = 1), (12, s.noNumber key 0), (13, s.wrongVc key kvc)]

/-! KDEL, KGEN, KSID, KFLT (R311, R111, R113). -/

/-- Slot 0's lane 0 is the target. -/
def execKdel (h : Hd) (c : FmtK) (s : State) : Host.Outcome State Fault Refusal :=
  let key := s.ownStore c
  s.fire h (Slots.of [0] [0]) 127 noPre (fun s ts =>
    match firstCode (s.putCodes key c.keyvc) with
    | some x => .faults x
    | none => (s.reserve key).holdPort c ts (.kdel ((tk ts 0).data.extractLsb' 0 32)))

def State.storeCodes (s : State) (key : Nat) (kvc : BitVec 5) : List (Nat × Bool) := [(1, s.notValid key), (13, s.wrongVc key kvc)]

def execKgen (h : Hd) (c : FmtK) (s : State) : Host.Outcome State Fault Refusal :=
  s.fire h Slots.trigger 127 noPre (fun s ts =>
    match firstCode (s.storeCodes (s.ownStore c) c.keyvc) with
    | some x => .faults x
    | none => s.holdPort c ts .kgen)
def execKsid (h : Hd) (c : FmtK) (s : State) : Host.Outcome State Fault Refusal :=
  s.fire h Slots.trigger 127 noPre (fun s ts =>
    match firstCode (s.storeCodes (s.ownStore c) c.keyvc) with
    | some x => .faults x
    | none => s.holdPort c ts .ksid)

/-- KGEN at the port: the store's records and its side store's. -/
def State.applyKgen (s : State) (key : Nat) : State :=
  let g := (s.store key).desc.gen
  let age := fun (r : KRec) => if r.life = 65535 && r.rgen = g then r.kill else r
  let one := fun (s : State) (k : Nat) => let x := s.store k; s.setStore k { x with recs := x.recs.map age }
  let s := one s key
  let s := if s.target key = key then s else one s (s.target key)
  let x := s.store key
  s.setStore key { x with desc := setBits x.desc 72 8 (g + 1) }

def execKflt (h : Hd) (c : FmtK) (s : State) : Host.Outcome State Fault Refusal :=
  s.fire h (Slots.of [0] [0]) 127 noPre (fun s ts =>
    let e := (tk ts 0).data.extractLsb' 0 96
    if c.filt = 0 || bits e 14 18 != 0 || bits e 6 2 != 0 then .faults (exn24 8)
    else .fires (s.hold 127 (tk ts 0).wave (.kflt c.filt.toNat e)) [outBoth (s.zeroTok ts)])
/-! KCNT (R311). -/

/-- A paged query's sequence resolves (CODE 0x0007); its LEN. -/
def State.sequenceLen (s : State) (sq : Nat) : Except Exn Nat × State :=
  match (readSte sq).run' s (s.domain s.portPart).step with
  | (.error x, s) => (.error x, s)
  | (.ok e, s) => (if !e.v || e.psz = 3 then .error (exn24 7) else .ok e.len, s)

/-- Head groups whose budget a query may meet at a store: its present one and those of the KDEFs that wait before it. -/
def State.headsOf (s : State) (key : Nat) : List Nat :=
  (s.store key).desc.hg :: s.mat.portq.filterMap fun r =>
    match r.op with
    | .kdef b => if r.store = key then some (kdefDesc b r.kvc).hg else none
    | _ => none

/-- An operation reaches its store's port (R112): a query reads there its filter entry (R311), the head groups' budgets (R317) and LEN of its
sequence (R306). `loc` is what a fault record says of it (R356). -/
def State.askPort (s : State) (key : Nat) (n : Node) (k : Key) (kvc : BitVec 5) (op : PortOp) (loc : Loc) : State :=
  let (filt, len) := match op with
    | .kqry _ _ _ f ops _ _ _ _ =>
      (Tab.get 0 (filtKey (key / 4096) (key / 64 % 64) f.toNat) s.pl.filt,
       (ops.find? fun o => o.1 = 1).bind fun o => (s.sequenceLen (bits o.2.data 32 32)).1.toOption)
    | _ => (0, none)
  let r : PortReq := { store := key, node := n, key := k, kvc := kvc, op := op, seq := s.mem.nextSeq, loc := loc, filt := filt
                       len := len, heads := (s.headsOf key).map fun g => (g, headGroup s g), scan := none }
  { s with mat := { s.mat with portq := s.mat.portq ++ [r] }, mem := { s.mem with nextSeq := s.mem.nextSeq + 1 } }
/-- The budget of a head group as a query read it. -/
def PortReq.head (r : PortReq) (hg : Nat) : Bool × Nat × Nat := ((r.heads.find? fun x => x.1 = hg).map (·.2)).getD (false, 0, 0)
/-- LEN of a query's sequence as it read it. -/
def PortReq.size (r : PortReq) : Nat := r.len.getD 0

/-- What a record says of the present firing. -/
def State.locHere (s : State) (wave : BitVec 16) : Loc :=
  match s.here with
  | some st => { s.locOf st s.cur.node s.cur.key with wave := wave.toNat }
  | none => { Loc.none with node := s.cur.node, key := s.cur.key, wave := wave.toNat }

/-- The tokens of a firing with their slots, the predicate's among them. -/
def State.opsOf (s : State) (rd : List Nat) (ts : List Tok) : List (Nat × Tok) :=
  rd.zip ts ++ (match s.slotTok s.cur.node s.cur.key 3 with
    | some t => if bits s.cur.word 48 2 = 0 then [] else [(3, t)]
    | none => [])

def execKcnt (h : Hd) (c : FmtK) (s : State) : Host.Outcome State Fault Refusal :=
  let n := s.cur.node
  let k := s.cur.key
  let key := s.ownStore c
  s.fire h Slots.trigger 127 noPre (fun s ts =>
    match firstCode (s.storeCodes key c.keyvc) with
    | some x => .faults x
    | none => .fires (s.askPort key n k c.keyvc (.kcnt (s.opsOf [0] ts)) (s.locHere (tk ts 0).wave)) [])
def State.kcntTok (s : State) (key : Nat) (t : Tok) : Tok :=
  let d := (s.store key).desc
  let side := if d.sidev then (s.store (s.target key)).desc.nrec else 0
  { t with fl := { nil := t.fl.nil, endf := t.fl.endf, last := t.fl.last }, age := 0, vc := d.svc, nlane := 3
           data := if t.fl.nil then 0 else BitVec.ofNat 384 (pack [(0, 32, d.nrec), (32, 32, side), (64, 32, d.nseq), (96, 32, d.gen)]) }

/-! KQRY at its node (R306, R307, R336). -/

/-- Slot 0 of a KMRG or KSMX node of the block is TB's target. -/
def State.mergeFeed (s : State) (h : Hd) : Bool :=
  h.tb != noTarget && bits h.tb 0 2 = 0 &&
    (match s.block s.cur.node.ctx with
     | some b => let op := opcode (b.word (bits h.tb 2 7)); bits h.tb 2 7 < b.words.length && (op = 0xC4 || op = 0xC5)
     | none => false)

/-- The query leaves for its store's port, at once or, when it will change the store, once settled. -/
def State.sendQuery (s : State) (c : FmtK) (h : Hd) (key : Nat) (ops : List (Nat × Tok)) : State :=
  let n := s.cur.node
  let k := s.cur.key
  let words := fun (p : Nat) => match s.latchOf n p (s.store key).desc.kvc with | some x => x.words | none => []
  let qw := words 0
  let kw := words 1
  if (s.store key).desc.lmode && c.mode != 2 then
    { s with mem := { s.mem with
        rmwq := s.mem.rmwq ++ [⟨n, k, ops, 127, s.cur.word, s.mem.nextSeq, qw.length :: (qw ++ kw).map (·.toNat), 0⟩],
        nextSeq := s.mem.nextSeq + 1 } }
  else s.askPort key n k c.keyvc (.kqry c.mode c.score c.k c.filt ops qw kw h.ta h.tb)
    (s.locHere ((ops.head?.map (·.2.wave)).getD 0))

def execKqry (h : Hd) (c : FmtK) (s : State) : Host.Outcome State Fault Refusal :=
  let key := s.ownStore c
  let n := s.cur.node
  let k := s.cur.key
  s.collector h key [1] [0, 1] (fun s => s.storeCodes key c.keyvc)
    (fun s rest =>
      let ctl := tk rest 0
      (if (s.store key).desc.kind = 1 then
         (match (s.sequenceLen (bits ctl.data 32 32)).1 with | .error x => if x.cause = 0x24 then [(7, true)] else [] | .ok _ => [])
       else []) ++
      [(9, bits ctl.data 192 192 != 0 || bits ctl.data 118 10 != 0 || (c.mode = 2 && c.k != 0)), (11, s.mergeFeed h && h.ta != noTarget)])
    (fun s beats rest =>
      let ctl := tk rest 0
      let ops := (beats.map fun t => (0, t)) ++ s.opsOf [1] [ctl]
      match if (s.store key).desc.kind = 1 then s.sequenceLen (bits ctl.data 32 32) else (.ok 0, s) with
      | (.error x, s) => .stops s x
      | (.ok _, s) => .fires ((s.unkeep n k).sendQuery c h key ops) [])

/-- The payload format of a match word. -/
def fmtK (w : BitVec 64) : FmtK :=
  ⟨w.extractLsb' 25 5, w.extractLsb' 19 6, w.extractLsb' 13 6, w.extractLsb' 10 3, w.extractLsb' 8 2, w.extractLsb' 0 8⟩

/-- A KQRY that steps LIFE goes to its port once its instance is settled. -/
def State.performKqry (s : State) (r : Rmw) : Res :=
  let c := fmtK r.word
  let key := storeKey r.node.ctx.die r.node.ctx.wafer c.sel.toNat
  let w := (r.nums.drop 1).map (BitVec.ofNat 32)
  let q := r.nums.headD 0
  .fires (s.askPort key r.node r.key c.keyvc
    (.kqry c.mode c.score c.k c.filt r.ops (w.take q) (w.drop q) (r.word.extractLsb' 39 9) (r.word.extractLsb' 30 9))
    (({ s with cur := { s.cur with node := r.node, key := r.key } } : State).locHere ((r.ops.head?.map (·.2.wave)).getD 0))) []

/-! The scan (R102 to R106, R118, R119). -/

/-- What a scan works with. -/
structure Scan where
  ent : BitVec 32
  kvc : BitVec 5
  kl : Nat
  nl2 : Bool
  qw : List (BitVec 32)
  kw : List (BitVec 32)
  query : List (List Val)
  ctl : Beat
  /-- THR0 (R101), and whether register TREG is used. -/
  thr0 : Option Val
  uses : Bool
  /-- The monitor makes checks: not in SOFT with k = 0 (R106). -/
  watched : Bool
  /-- The number whose k-th best joins θ, 0 for none. -/
  k : Nat
  count : Bool

def Scan.fmt (q : Scan) : Nat := fmtOf q.ent
def Scan.lanes (q : Scan) : Nat := fmtLanes q.fmt

/-- The header words of `n` elements from `base` on. -/
def keyWords (e : BitVec 32) (words : List (BitVec 32)) (base n : Nat) : List (BitVec 32) :=
  (List.range n).map fun i => if hdrmOf e then headerAt e words (base + i) else entryWord e
/-- The checks of a computing slot on those elements of a key or query beat (R376, R377), the first by R374. -/
def keyFault (e : BitVec 32) (vc : BitVec 5) (words : List (BitVec 32)) (base n : Nat) (b : Beat) : Option Exn :=
  let f := fmtOf e
  let ws := keyWords e words base n
  let total := (words.map wordLen).foldl (· + ·) 0
  firstExn [((List.range n).find? fun i => isScaled f && sclOf (ws.getD i 0) = 255).map fun i =>
      if hdrmOf e && base + i < total then fmtExn 3 vc (ws.getD i 0) else fmtExn 2 vc e,
    badQuad f n b, if hdrmOf e then badMaxm f ws else none]
/-- The scaled elements. -/
def keyVals (e : BitVec 32) (words : List (BitVec 32)) (base n : Nat) (b : Beat) : List Val :=
  valsOf (fmtOf e) (keyWords e words base n) b
def decodeKey (e : BitVec 32) (vc : BitVec 5) (words : List (BitVec 32)) (base n : Nat) (b : Beat) : Except Exn (List Val) :=
  match keyFault e vc words base n b with
  | some x => .error x
  | none => .ok (keyVals e words base n b)

/-- The beats of a query with the first element and the number of elements of each. -/
def queryBeats (f kl : Nat) : Nat → List Beat → List (Nat × Nat × Beat)
  | _, [] => []
  | base, b :: t => let n := min (fmtLanes f) (kl - base); (base, n, b) :: queryBeats f kl (base + n) t
/-- The decoded query (R101), or the first of the faults of all its beats (R374). -/
def decodeQuery (e : BitVec 32) (vc : BitVec 5) (words : List (BitVec 32)) (kl : Nat) (beats : List Beat) : Except Exn (List (List Val)) :=
  let l := queryBeats (fmtOf e) kl 0 beats
  match firstExn (l.map fun x => keyFault e vc words x.1 x.2.1 x.2.2) with
  | some x => .error x
  | none => .ok (l.map fun x => keyVals e words x.1 x.2.1 x.2.2)

/-- The value a check takes from the register: none when the epoch is not the latched one or DIR is not 01 (R116, R118). -/
def tregFor (epoch : Nat) (reg : BitVec 64) : Option Val :=
  if tregEpoch reg = epoch && tregDir reg = 1 then some (tregVal reg) else none

/-- θ (R106). -/
def Scan.theta (q : Scan) (reg : Option Val) (kth : Option Val) : Option Val :=
  match q.thr0.toList ++ reg.toList ++ kth.toList with
  | [] => none
  | v :: t => some (t.foldl maxVal v)

/-- The lowest lane over its bound (R378). -/
def Scan.overLane (q : Scan) (words : List (BitVec 32)) (base : Nat) (vs : List Val) : Option Exn :=
  (overBound q.fmt vs ((List.range vs.length).map fun i => headerAt q.ent words (base + i))).map fun i =>
    { cause := 0x22, code := BitVec.ofNat 16 (i * 256 + 3) }

/-- The score of the k-th best so far, once there are k. -/
def Scan.kth (q : Scan) (p : ScanAt) : Option Val := if q.k = 0 then none else (p.hits[q.k - 1]?).map fun x => elemVal 14 x.1

/-- What the monitor finds after a record beat that ends at element `pos`, with `left` beats to come: the scan with what it has read, and θ
and the bounds of R119 when it makes a check. `reg` is the register as it stands. -/
def Scan.look (q : Scan) (p : ScanAt) (reg : BitVec 64) (pos left : Nat) : ScanAt × Option (Val × Val × Val) :=
  let rest := q.kl - pos
  match q.watched && p.checking, pairBlocks (blocksOf q.ent q.qw 0 pos rest) (blocksOf q.ent q.kw 0 pos rest) with
  | true, some rem =>
    let v := if q.uses then tregFor p.epoch reg else none
    let p := if q.uses then { p with last := some reg, checking := v.isSome } else p
    (p, match p.checking, q.theta v (q.kth p) with
        | true, some th => if usable th then (monitor q.nl2 (elemVal 14 p.acc) rem left).map fun b => (th, b) else none
        | _, _ => none)
  | _, _ => (p, none)
/-- A record beat under the monitor: an element over its bound (R378), an abandonment, or the scan as it goes on. The last beat of a record has
its elements checked, and its completed score is no partial result that could be abandoned (log entry 184). -/
def Scan.check (q : Scan) (p : ScanAt) (reg : BitVec 64) (base left : Nat) (qv kv : List Val) : Except Exn (Option ScanAt) :=
  let x := q.look p reg (base + qv.length) left
  let on := if left = 0 then p else x.1
  match x.2 with
  | none => .ok (some on)
  | some (th, b) =>
    match firstExn [q.overLane q.qw base qv, q.overLane q.kw base kv] with
    | some x => .error x
    | none => if left != 0 && (abandons 5 th b).isSome then .ok none else .ok (some on)

/-- R103's position test: sink S, window W. -/
def inWindow (pos p sink w : Nat) : Bool := pos < sink || (decide ((p : Int) - w < pos) && pos ≤ p)

/-- A filter entry's test (R104). -/
def passes (e : BitVec 96) (r : KRec) : Bool :=
  bits e 32 32 ≤ r.owner && r.owner ≤ bits e 64 32 && r.cls &&& bits e 0 6 = bits e 8 6

/-- A completed score that counts: not NaN, at least THR0, and in COUNT mode at least the register's value at the record's last check, or as it
stands when no check was made (R103, R109). -/
def Scan.scored (q : Scan) (p : ScanAt) (reg : BitVec 64) : Bool :=
  let v := elemVal 14 p.acc
  let r := p.last.getD reg
  !v.isNaN && (match q.thr0 with | some t => !t.isNaN && 0 ≤ cmpVal v t | none => true) &&
    !(q.count && q.uses && tregDir r = 1 && ((tregVal r).isNaN || cmpVal v (tregVal r) < 0))

/-- R105 within one store. -/
def hitLe (a b : Nat × Nat × KRec) : Bool :=
  let c := cmpVal (elemVal 14 a.1) (elemVal 14 b.1)
  0 < c || (c = 0 && a.2.2.seqn ≤ b.2.2.seqn)

/-! The records a query meets (R103, R113, R337; R140, R142 for paged stores). -/

/-- A stored value as a scan reads it: its beat, whether that is poisoned, and whether it comes from a page with C = 1 (R168). -/
structure Stored where
  beat : Beat := 0
  poi : Bool := false
  secret : Bool := false

/-- A record to be scanned: the reads of its key beats, its metadata once those are read, and its value. -/
structure Cand where
  /-- It is known, before its key is read, not to be eligible. -/
  out : Bool
  read : Nat → Port Beat
  rcd : Port (KRec × Bool)
  value : Port Stored

/-- The answer that stands for RETRY (R393). -/
def retryMark : Exn := { cause := 0, code := 0 }

/-- A beat of a pool page as a scan reads it: poison asks for regeneration (R392). -/
def scanBeat (page owner hg j npos va : Nat) : Port Stored := do
  let a ← portAcc va false
  let s ← getState
  match s.readHome a 48 with
  | (none, _) => failPort (memExn 0x36 2 (BitVec.ofNat 64 va) a.addr)
  | (some b, s) =>
    putState s
    if b.poi then do
      let r ← regenerate page owner hg j npos
      failPort (if r then retryMark else memExn 0x34 0 (BitVec.ofNat 64 va) a.addr)
    else pure { beat := beatOf b.bytes, secret := a.conf }

/-- Sixteen bytes across the beats of a slot. -/
def metaOf (a b : Beat) (off : Nat) : BitVec 128 := BitVec.ofNat 128 ((a.toNat + b.toNat * 2 ^ 384) / 2 ^ (8 * off))

/-- The metadata of a slot, OWNER as the querying sequence (R142); `beat` reads a beat of the slot. -/
def slotInfo (q : Scan) (sq va : Nat) (beat : Nat → Port Beat) : Port (BitVec 128) := do
  let off := q.kl * fmtBits q.fmt / 8
  let b0 ← beat (va + off / 48 * 48)
  let b1 ← (if off % 48 ≤ 32 then pure 0 else beat (va + (off / 48 + 1) * 48) : Port Beat)
  pure (setBits (metaOf b0 b1 (off % 48)) 32 32 sq)

/-- Bytes of a page as they stand, for a look that is no read. -/
def peekBeat (va : Nat) : Port Beat := do
  let a ← portAcc va false
  let s ← getState
  pure (((s.readHome a 48).1.map fun b => beatOf b.bytes).getD 0)

/-- The SEQN that a paged position names when it holds a tombstone. Which records a tombstone names is a matter of what the store holds, so
this look finds no error and asks for nothing (log entry 153). -/
def State.namedAt (s : State) (q : Scan) (sq hg pos : Nat) : Option Nat :=
  let look : Port (Option Nat) := do
    match ← resolvePos sq hg pos with
    | none => pure none
    | some (_, va, _, _) => do
      let r : KRec := ⟨[], ← slotInfo q sq va peekBeat, 0, false⟩
      pure (if r.tomb then some r.pos else none)
  match (look.run' s (s.domain s.portPart).step).1 with
  | .ok r => r
  | .error _ => none

/-- Records of a store's side store, which stand as its own (R113). -/
def State.sideRecs (s : State) (key : Nat) : List KRec :=
  if (s.store key).desc.sidev then (s.store (s.target key)).recs else []

/-- SEQNs that tombstones of a store name, those of its side store and, in a paged store, of the positions scanned and of earlier folds. -/
def State.named (s : State) (key : Nat) (q : Scan) (len : Nat) : List Nat :=
  let x := s.store key
  ((x.recs ++ s.sideRecs key).filter KRec.tomb).map KRec.pos ++ x.gone ++
    (if x.desc.kind = 1 then (List.range len).filterMap fun p => s.namedAt q (bits q.ctl 32 32) x.desc.hg p else [])

/-- The tests of R103 that a record's metadata decides; the side records of a paged store take those of the paged store (log entry 166). -/
def State.eligible (s : State) (key : Nat) (q : Scan) (r : PortReq) (filt : BitVec 8) (x : KRec) : Bool :=
  let d := (s.store key).desc
  let p := bits q.ctl 0 32
  !x.tomb && !(s.named key q r.size).contains x.seqn && !x.dead && !(d.lmode && x.life = 65535 && x.rgen != d.gen) &&
    (filt = 0 || passes r.filt x) &&
    (if d.kind = 1 then
       let g := r.head d.hg
       x.owner = bits q.ctl 32 32 && (if g.1 then inWindow x.pos p g.2.1 g.2.2 else x.pos ≤ p)
     else bit q.ctl 116 || inWindow x.pos p (bits q.ctl 96 16) (bits q.ctl 64 32))

/-- A record in the store's cells. -/
def State.residentCand (s : State) (key : Nat) (q : Scan) (r : PortReq) (filt : BitVec 8) (x : KRec) : Cand :=
  let ok := s.eligible key q r filt x
  { out := !ok, read := fun j => pure (x.key.getD j 0), rcd := pure (x, ok), value := pure { beat := x.val, poi := x.poi } }

/-- The record at a paged position; no page, no record. Its metadata and value are read only once its key is (R122). -/
def pagedCand (key pos : Nat) (q : Scan) (r : PortReq) (filt : BitVec 8) : Port Cand := do
  let s ← getState
  let hg := (s.store key).desc.hg
  let sq := bits q.ctl 32 32
  match ← resolvePos sq hg pos with
  | none => pure { out := true, read := fun _ => pure 0, rcd := pure (⟨[], 0, 0, false⟩, false), value := pure {} }
  | some (page, va, e, owner) => do
    let d ← readDesc page
    if bit d 16 then failPort retryMark
    else
      let j := pos / e.npos
      let beat := scanBeat page owner hg j e.npos
      let data := fun (va : Nat) => (do let b ← beat va; pure b.beat : Port Beat)
      pure { out := false, read := fun i => data (va + 48 * i)
             rcd := do
               let info ← slotInfo q sq va data
               let s ← getState
               let x : KRec := ⟨[], info, 0, false⟩
               pure (x, s.eligible key q r filt x)
             value := do let s ← getState; beat (va + rbOf s * 48) }

/-- Positions of the sequence that a query scans: none but in a paged store. -/
def State.paged (s : State) (key : Nat) (r : PortReq) : Nat := if (s.store key).desc.kind = 1 then r.size else 0
/-- Records the scan meets, and the one at a place: the sequence's positions, then the main store's in order, then the side store's (R337). -/
def State.scanSize (s : State) (key : Nat) (r : PortReq) : Nat :=
  s.paged key r + (s.store key).recs.length + (s.sideRecs key).length
def candAt (key i : Nat) (q : Scan) (r : PortReq) (filt : BitVec 8) : Port Cand := do
  let s ← getState
  let n := s.paged key r
  if i < n then pagedCand key i q r filt
  else pure (s.residentCand key q r filt (((s.store key).recs ++ s.sideRecs key).getD (i - n) ⟨[], 0, 0, false⟩))

/-- One step of a scan: a record passed over, or one key beat of it added and checked (R102, R118). The score's SAT is 0 (log entry 160). -/
def Scan.step (q : Scan) (key : Nat) (r : PortReq) (filt : BitVec 8) (p : ScanAt) : Port ScanAt := do
  let c ← candAt key p.pos q r filt
  let s ← getState
  let reg := s.treg (key / 4096) (key / 64 % 64) (bits q.ctl 112 3)
  let next : ScanAt := { p with pos := p.pos + 1, beat := 0, acc := 0, checking := true, last := none }
  match c.out, q.query[p.beat]? with
  | false, some qv => do
    let p := if p.beat = 0 then { p with epoch := tregEpoch reg, acc := 0, checking := true, last := none } else p
    let base := p.beat * q.lanes
    let b ← c.read p.beat
    match decodeKey q.ent q.kvc q.kw base qv.length b with
    | .error x => failPort x
    | .ok kv =>
      let p := { p with
        beat := p.beat + 1
        acc := macStep 14 false p.acc ((qv.zip kv).map fun x => if q.nl2 then nl2Term x.1 x.2 else mulVal x.1 x.2) }
      match q.check p reg base (q.query.length - p.beat) qv kv with
      | .error x => failPort x
      | .ok none => pure next
      | .ok (some p) =>
        if q.query.length ≤ p.beat then do
          let (x, ok) ← c.rcd
          pure (if ok && q.scored p reg then { next with hits := insSorted hitLe (p.acc, p.pos, x) p.hits } else next)
        else pure p
  | _, _ => pure next

/-! Results (R107 to R110). -/

/-- A store's token. -/
def State.storeTok (s : State) (key : Nat) (t : Tok) (vc : BitVec 5) (seq : Nat) (data : Beat) : Tok :=
  { wave := t.wave, seq := BitVec.ofNat 16 seq, vc := vc, nlane := 0, data := data, src := s.gid key + 1 }
def fullLanes (e : BitVec 32) : BitVec 7 := if 18 ≤ fmtOf e then 0 else allLanes (fmtOf e)

/-- The score token's payload (R107). -/
def scorePayload (rank gid : Nat) (x : Nat × Nat × KRec) : Beat :=
  BitVec.ofNat 384 (pack [(192, 8, rank), (160, 32, gid), (128, 32, x.2.2.seqn), (96, 32, x.2.2.owner), (64, 32, x.2.2.pos), (0, 48, x.1)])

/-- END with the count, or NIL with COUNT 0. -/
def endTok (t : Tok) (n : Nat) : Tok :=
  { t with seq := BitVec.ofNat 16 n, nlane := 0, data := BitVec.ofNat 384 n, fl := { endf := n != 0, nil := n = 0 } }

/-- One step of LIFE (R110). -/
def KRec.step (r : KRec) : KRec :=
  if r.life = 0 || r.life = 65535 then r else if r.life = 1 then r.kill else { r with info := setBits r.info 64 16 (r.life - 1) }
/-- The record at a place of the scan takes a step of LIFE. -/
def State.stepLife (s : State) (key : Nat) (x : Nat × Nat × KRec) : State :=
  let m := s.store key
  let age := fun (r : KRec) => if r = x.2.2 then r.step else r
  if x.2.1 < m.recs.length then s.setStore key { m with recs := upd age x.2.1 m.recs }
  else if m.desc.sidev then
    let y := s.store (s.target key)
    s.setStore (s.target key) { y with recs := upd age (x.2.1 - m.recs.length) y.recs }
  else s
/-- LIFE steps of the records used. -/
def State.stepLives (s : State) (key : Nat) (used : List (Nat × Nat × KRec)) : State :=
  let d := (s.store key).desc
  if !d.lmode || d.kind = 1 then s else used.foldl (fun s x => s.stepLife key x) s

def mapPort {α β : Type} (f : α → Port β) : List α → Port (List β)
  | [] => pure []
  | x :: t => do let a ← f x; let r ← mapPort f t; pure (a :: r)

/-! SOFT (R108). -/

def r32 (v : Val) : Val := floatVal 11 (encodeFloat 11 .rne false v)
def exp32 (v : Val) : Val := r32 (expVal v)

/-- m, l and acc. -/
structure Soft where
  m : Val
  l : Val
  acc : List Val

def Soft.zero (lanes : Nat) : Soft := ⟨.inf true, .fin false 0 0, List.replicate lanes (.fin false 0 0)⟩
def Soft.add (x : Soft) (tau score : Val) (v : List Val) : Soft :=
  let z := r32 (mulVal tau score)
  let m2 := maxVal x.m z
  let a := exp32 (r32 (sumVals .rne [x.m, m2.neg]))
  let b := exp32 (r32 (sumVals .rne [z, m2.neg]))
  ⟨m2, r32 (sumVals .rne [r32 (mulVal x.l a), b]),
   (List.range x.acc.length).map fun i =>
     r32 (sumVals .rne [r32 (mulVal (x.acc.getD i .nan) a), r32 (mulVal b (v.getD i (.fin false 0 0)))])⟩

def code32 (v : Val) : Nat := encodeFloat 11 .rne false v
/-- acc as FP32 beats, and the statistics payload. -/
def Soft.beats (x : Soft) : List Beat :=
  (List.range ((x.acc.length + 11) / 12)).map fun j => packLanes 11 (((x.acc.drop (12 * j)).take 12).map code32)
def statsPayload (m l count : Nat) : Beat := BitVec.ofNat 384 (pack [(0, 32, m), (32, 32, l), (64, 32, count)])

/-- The acc beats and the statistics token of a SOFT result (their NLANE: log entry 162); NIL when nothing counted. -/
def softOuts (t : Tok) (beats : List Beat) (m l count : Nat) : List Out :=
  let nil := count = 0
  let n := beats.length
  (List.range n).map (fun i => outA { t with
      seq := BitVec.ofNat 16 i, nlane := 11, data := if nil then 0 else beats.getD i 0, fl := { nil := nil, last := i + 1 = n } }) ++
  [outB { t with seq := 0, nlane := 2, data := statsPayload (if nil then 0xFF800000 else m) (if nil then 0 else l) count, fl := { nil := nil } }]

/-! A query at its port (R112). -/

/-- What the query's node emits and what the store keeps. -/
structure Answer where
  outs : List Out
  used : List (Nat × Nat × KRec)
  feed : Option (List Beat × List Nat)

/-- Lanes of a stored value under the entry of VVC that the scan read (R102, R108). -/
def valueLanes (e : BitVec 32) (b : Beat) : List Val :=
  valsOf (fmtOf e) (List.replicate (fmtLanes (fmtOf e)) (entryWord e)) b
/-- The checks of a SOFT query's stored values (R376, R377), then a poisoned one (R384, log entry 152). -/
def valueFault (e : BitVec 32) (vc : BitVec 5) (vals : List Stored) : Option Exn :=
  let f := fmtOf e
  (firstExn ((if 18 ≤ f then some (fmtExn 1 vc e) else none) ::
    (if !vals.isEmpty && isScaled f && scaleOf e = 255 then some (fmtExn 2 vc e) else none) ::
    vals.map fun v => badQuad f (fmtLanes f) v.beat)).or
  (if vals.any (·.poi) then some { cause := 0x34, code := 0 } else none)

/-- A value token (R107, R82). -/
def State.valueTok (s : State) (key : Nat) (t : Tok) (vent : BitVec 32) (i : Nat) (v : Stored) : Tok :=
  let x := { s.storeTok key t (s.store key).desc.vvc i v.beat with nlane := fullLanes vent, fl := { poi := v.poi } }
  { x with fl := crumbFlags (fmtOf vent) x }

/-- HARD: ranks, END or NIL (R107; their NLANE: log entry 161); in merge feed the values stay in the buffer (R307). -/
def State.hardAnswer (s : State) (key : Nat) (t : Tok) (feed : Bool) (vent : BitVec 32) (hits : List (Nat × Nat × KRec))
    (vals : List Stored) : Answer :=
  let d := (s.store key).desc
  let n := hits.length
  let outs := (List.range n).flatMap fun i =>
    match hits[i]? with
    | none => []
    | some x =>
      (if feed then [] else [outA (s.valueTok key t vent i (vals.getD i {}))]) ++
      [outB { s.storeTok key t d.svc i (scorePayload i (s.gid key) x) with nlane := fullLanes (s.storeEnt key d.svc) }]
  ⟨outs ++ [outBoth (endTok (s.storeTok key t d.svc n 0) n)], hits,
   if feed then some (vals.map (·.beat), b2n (vals.any (·.secret)) :: vals.map fun x => b2n x.poi) else none⟩

/-- SOFT (R108, R307). -/
def State.softAnswer (s : State) (key : Nat) (t : Tok) (feed : Bool) (tau : Val) (vent : BitVec 32) (hits : List (Nat × Nat × KRec))
    (vals : List Stored) : Answer :=
  let d := (s.store key).desc
  let lanes := fmtLanes (fmtOf vent)
  let x := (hits.zip vals).foldl (fun (x : Soft) p => x.add tau (elemVal 14 p.1.1) (valueLanes vent p.2.beat)) (Soft.zero lanes)
  let base := s.storeTok key t d.svc 0 0
  let n := hits.length
  if feed then
    ⟨[outB { base with data := BitVec.ofNat 384 (pack [(0, 23, s.gid key), (32, 32, n)]), fl := { nil := n = 0 } }], hits,
     some (x.beats, [b2n (vals.any (·.secret)), code32 x.m, code32 x.l, n, lanes])⟩
  else ⟨softOuts base x.beats (code32 x.m) (code32 x.l) n, hits, none⟩

/-- A scan about to begin: the entries of KVC and VVC are read now (R102). -/
def State.startScan (s : State) (key : Nat) : ScanAt :=
  ⟨s.keyEnt key, s.storeEnt key (s.store key).desc.vvc, 0, 0, 0, 0, true, none, []⟩

/-- What a scan works with, from the query and the entry it read. With HDRM = 0 no header word bounds a block (R336). -/
def State.openScan (s : State) (key : Nat) (p : ScanAt) (mode : BitVec 2) (score : BitVec 3) (k : BitVec 6) (ops : List (Nat × Tok))
    (qw kw : List (BitVec 32)) : Except Exn Scan :=
  let d := (s.store key).desc
  let e := p.ent
  let beats := (ops.filter fun o => o.1 = 0).map (·.2)
  let ctl := ((ops.find? fun o => o.1 = 1).map fun o => o.2.data).getD 0
  if d.v && 18 ≤ fmtOf e then .error (fmtExn 1 d.kvc e) else
  match decodeQuery e d.kvc qw d.kl (beats.map (keyData (fmtOf e))) with
  | .error x => .error x
  | .ok query =>
    if beats.length != beatsOfKey e d.kl then .error (exn24 5) else
    let (qw, kw) := if hdrmOf e then (qw, kw) else ([], [])
    let all := if k = 0 then 64 else k.toNat
    .ok { ent := e, kvc := d.kvc, kl := d.kl, nl2 := score = 1, qw := qw, kw := kw, query := query, ctl := ctl
          thr0 := if bit ctl 117 then some (floatVal 11 (bits ctl 128 32)) else none, uses := bit ctl 115
          watched := !(mode = 1 && k = 0), k := if mode = 2 || (mode = 1 && k = 0) then 0 else all, count := mode = 2 }

/-- The answer of a scan that has met every record. Values are read only when a value beat or a buffer takes them (R306); SOFT computes on
them, and a poisoned one stops it (R384, log entry 152). A COUNT token has NLANE 0 (log entry 163). -/
def State.scanAnswer (s : State) (mode : BitVec 2) (t : Tok) (feed taken : Bool) (q : Scan) (r : PortReq) (filt : BitVec 8) (p : ScanAt) :
    Port Answer := do
  let key := r.store
  let d := (s.store key).desc
  if q.count then
    let n := p.hits.length
    pure ⟨[outA { s.storeTok key t d.svc 0 (BitVec.ofNat 384 n) with fl := { nil := n = 0 } }], [], none⟩
  else do
    let best := if q.k = 0 then insSort (fun a b => decide (a.2.2.seqn ≤ b.2.2.seqn)) p.hits else p.hits.take q.k
    let read := fun (x : Nat × Nat × KRec) => (do let c ← candAt key x.2.1 q r filt; c.value : Port Stored)
    let vals ← (if taken || feed then mapPort read best else pure (best.map fun _ => {}) : Port (List Stored))
    if mode = 1 then
      match valueFault p.vent d.vvc vals with
      | some x => failPort x
      | none => pure (s.softAnswer key t feed (floatVal 11 (bits q.ctl 160 32)) p.vent best vals)
    else pure (s.hardAnswer key t feed p.vent best vals)

/-- An exact fault of a word found at its port: its node has its operands back (R353). -/
def State.portFault (s : State) (n : Node) (k : Key) (ops : List (Nat × Tok)) (x : Exn) : State :=
  (s.restore n k ops).takeFault n k ((ops.head?.map fun o => o.2.wave).getD 0) (ops.map (·.1)) x

/-- The answer leaves for the query's node; LIFE steps and the buffer are the store's. -/
def State.answerQuery (s : State) (r : PortReq) (mode : BitVec 2) (a : Answer) : State :=
  let key := r.store
  let s := s.stepLives key a.used
  let s := if (s.store key).desc.lmode && mode != 2 then
      s.onStrand r.node.ctx.die ((s.strandOf r.node.ctx).map (·.task) |>.getD 0)
        fun st => st.onInst r.node.ctx r.key fun x => { x with rmw := true }
    else s
  let s := match a.feed with
    | none => s
    | some f => let x := s.store key; s.setStore key { x with feed := some (r.node, r.key, f.1, f.2) }
  s.respond r.node r.key a.outs false

/-- KQRY at its port: one step of its scan, or its answer. -/
def State.applyKqry (s : State) (r : PortReq) (mode : BitVec 2) (score : BitVec 3) (k : BitVec 6) (filt : BitVec 8)
    (ops : List (Nat × Tok)) (qw kw : List (BitVec 32)) (ta tb : BitVec 9) : State :=
  let key := r.store
  let t := (ops.head?.map (·.2)).getD {}
  let feed := mode != 2 && ({ s with cur := { s.cur with node := r.node } }).mergeFeed ⟨0, 0, ta, tb⟩
  let fails := fun (s : State) (x : Exn) =>
    if x = retryMark then
      s.respond r.node r.key [outBoth { s.storeTok key t (s.store key).desc.svc 0 0 with fl := { retry := true } }] false
    else s.portFault r.node r.key ops x
  let p := r.scan.getD (s.startScan key)
  let codes := if r.scan.isNone then (7, (s.store key).desc.kind = 1 && r.len.isNone) :: s.storeCodes key r.kvc else []
  match s.openScan key p mode score k ops qw kw, firstCode (insSort (fun a b => decide (a.1 ≤ b.1)) codes) with
  | .error x, some y => s.portFault r.node r.key ops (if y.rank < x.rank then y else x)
  | .error x, none => s.portFault r.node r.key ops x
  | .ok _, some x => s.portFault r.node r.key ops x
  | .ok q, none =>
    if p.pos < s.scanSize key r then
      match (q.step key r filt p).run' s (s.stepAt r.node) with
      | (.error x, t) => if x = aheadMark then { s with mat := { s.mat with portq := { r with scan := some p } :: s.mat.portq } } else fails t x
      | (.ok p, s) => { s with mat := { s.mat with portq := { r with scan := some p } :: s.mat.portq } }
    else
      match (s.scanAnswer mode t feed (ta != noTarget) q r filt p).run' s (s.stepAt r.node) with
      | (.error x, t) => if x = aheadMark then { s with mat := { s.mat with portq := { r with scan := some p } :: s.mat.portq } } else fails t x
      | (.ok a, s) => s.answerQuery r mode a

/-! One operation at a port (R112, R380). -/

/-- Partition of the strand of a location, live or ended (R352). -/
def State.partOf (s : State) (l : Loc) : Nat :=
  match s.strand l.die l.task with
  | some st => st.part
  | none => bits (Tab.get 0 (taskKey l.die l.task) s.sch.tasks) 34 6

/-- A store-class operation that fails at its port is dropped with an asynchronous fault, whose record says where the operation came from
(R356). -/
def State.portFailure (s : State) (r : PortReq) (cause : BitVec 8) (code detail : Nat) : State :=
  s.report { r.loc with cause := cause, code := 0x8000 + code, detail := detail } (s.partOf r.loc) .only

def State.unreserve (s : State) (r : PortReq) : State :=
  { s with mat := { s.mat with reserved := dropFirst (fun x => x.2.1 = r.node && x.2.2 = r.key) s.mat.reserved } }

/-- A store-class operation, with the codes it must not meet. -/
def State.storeOp (s : State) (r : PortReq) (codes : List (Nat × Bool)) (f : State → State) : State :=
  match firstCode codes with
  | some x => s.portFailure r 0x24 x.code.toNat 0
  | none => f s

/-- The fold of a store (R113). A paged store takes its side store's live records beside its sequences, and marks the SEQNs that the removed
tombstones name (log entry 154). -/
def State.foldStore (s : State) (key : Nat) : State :=
  let m := s.store key
  let side := s.target key
  let extra := if side = key then [] else (s.store side).recs
  let all := m.recs ++ extra
  let named := (all.filter KRec.tomb).map KRec.pos
  let keep := insSort (fun a b => decide (a.seqn ≤ b.seqn)) (all.filter fun r => !r.tomb && !r.dead && !named.contains r.seqn)
  let s := if side = key then s else let x := s.store side; s.setStore side { x with desc := x.desc.setNrec 0, recs := [] }
  s.setStore key { m.putRecs keep with gone := if m.desc.kind = 1 then m.gone ++ named else m.gone }

/-- Folds that the KSIDs of a strand have asked for reach their stores' ports (R112, R113). -/
def State.askFolds (s : State) (st : Strand) : State :=
  let who := taskKey st.die st.task
  let n : Node := ⟨⟨st.die, st.lead, st.slots.headD 0⟩, 0⟩
  (s.mat.stores.filter fun e => e.2.fold.contains who).foldl (fun (s : State) e =>
    (s.setStore e.1 { s.store e.1 with fold := (s.store e.1).fold.filter (· != who) }).askPort e.1 n ⟨0, 0, 0⟩ 0 (.fold who)
      { Loc.none with die := st.die, task := st.task }) s

def State.applyPort (s : State) (r : PortReq) : State :=
  let key := r.store
  let d := (s.store key).desc
  match r.op with
  | .kdef b =>
    let e := s.vcEntry (key / 4096) (key / 64 % 64) (kdefDesc b r.kvc).cell0 r.kvc
    if !macFmt (fmtOf e) then s.portFailure r 0x21 5 (e.toNat + r.kvc.toNat * 2 ^ 32)
    else s.storeOp r (s.kdefCodes key r.kvc b) fun s => s.applyKdef key r.kvc b
  | .kput ks m v poi =>
    let s := s.unreserve r
    s.storeOp r (s.portPutCodes key r.kvc) fun s => s.addRecord key ⟨ks, freshInfo d m, v, poi⟩
  | .kdel t =>
    let s := s.unreserve r
    s.storeOp r (s.portPutCodes key r.kvc) fun s => s.addRecord key ⟨[], tombInfo d t.toNat, 0, false⟩
  | .kgen => s.storeOp r (s.storeCodes key r.kvc) fun s => s.applyKgen key
  | .ksid => s.storeOp r (s.storeCodes key r.kvc) fun s =>
      s.setStore key { s.store key with fold := addNew (s.store key).fold (taskKey r.loc.die r.loc.task) }
  | .fold _ => s.foldStore key
  | .kcnt ops =>
    match firstCode (s.storeCodes key r.kvc) with
    | some x => s.portFault r.node r.key ops x
    | none => s.respond r.node r.key [outBoth (s.kcntTok key ((ops.head?.map (·.2)).getD {}))] false
  | .kqry mode score k filt ops qw kw ta tb => s.applyKqry r mode score k filt ops qw kw ta tb

/-! KMRG (R309, R114). -/

def mergeNin (b : Beat) : Nat := bits b 380 4
def mergeIds (b : Beat) : List Nat := (List.range (mergeNin b + 1)).map fun j => bits b (23 * j) 23

/-- Does score token a rank before b (R105)? -/
def scoreBefore (a b : Tok) : Bool :=
  let c := cmpVal (elemVal 14 (bits a.data 0 48)) (elemVal 14 (bits b.data 0 48))
  let q := fun (t : Tok) => bits t.data 128 32
  let g := fun (t : Tok) => bits t.data 160 23
  0 < c || (c = 0 && (q a < q b || (q a = q b && g a < g b)))

/-- What a merge node keeps: control beat; for KMRG the candidates, best first; for KSMX the ready tokens; the last score token
of each store (after the control beat); the number of inputs finished, the finished mark, whether one was RETRY, and the stores
that have finished. -/
structure Merge where
  ctl : Tok
  last : List Tok
  cands : List Tok
  fin : Nat
  mark : Bool
  retry : Bool
  done : List Nat

def Merge.ofKept (k : Kept) : Merge :=
  ⟨k.ctl.headD {}, k.ctl.drop 1, k.toks, k.nums.getD 0 0, k.nums.getD 1 0 = 1, k.nums.getD 2 0 = 1, k.nums.drop 3⟩
def Merge.kept (n : Node) (k : Key) (m : Merge) : Kept :=
  ⟨n, k, m.ctl :: m.last, m.cands, [m.fin, b2n m.mark, b2n m.retry] ++ m.done⟩
def Merge.open (ctl : Tok) : Merge := ⟨ctl, [], [], 0, false, false, []⟩
def Merge.ids (m : Merge) : List Nat := mergeIds m.ctl.data

/-- Are the listed ids distinct? -/
def distinct : List Nat → Bool
  | [] => true
  | x :: t => !t.contains x && distinct t

/-- A token that the merge may not take (CODE 0x000A): after the end, from a store not listed or already finished. -/
def Merge.refuses (m : Merge) (g : Option Nat) : Bool :=
  m.mark || !distinct m.ids || (match g with | some g => !m.ids.contains g || m.done.contains g | none => false) ||
    (mergeNin m.ctl.data + 1 ≤ m.fin)

def Tok.from (t : Tok) : Option Nat := if t.src = 0 then none else some (t.src - 1)

/-- The firing of a merge node: the control beat with its first token; a NIL control beat cancels that firing (R303). -/
def State.mergeFire (s : State) (h : Hd) (body : State → Merge → Tok → Res) : Host.Outcome State Fault Refusal :=
  match s.keptOf s.cur.node s.cur.key with
  | none => s.fire h ⟨[0, 1], [0, 1], [1], [1]⟩ 127 noPre (fun s ts => body s (Merge.open (tk ts 1)) (tk ts 0))
  | some k0 => s.fire h ⟨[0], [0, 1], [], []⟩ 127 noPre (fun s ts => body s (Merge.ofKept k0) (tk ts 0))

/-! Stores of other modules (R309, R166): requests and answers on the remote-operator binding for the pair. -/

def gidModule (g : Nat) : BitVec 8 := BitVec.ofNat 8 (g / 2 ^ 15)
/-- The partition of a node's strand. -/
def State.partAt (s : State) (n : Node) : Nat := ((s.strandOf n.ctx).map (·.part)).getD 0
/-- The lane group that reaches a store from a node. -/
def State.gidBinding (s : State) (n : Node) (g : Nat) : Option Nat := s.binding 0 (s.partAt n) n.ctx.die (gidModule g) (g / 2 ^ 12 % 8)
def State.toStore (s : State) (n : Node) (g : Nat) (b : FlitBody) : State :=
  match s.gidBinding n g with
  | some lg => s.sendFlit lg b false
  | none => s

/-- An instance as a message names it. -/
def Key.code (k : Key) : Nat := k.lvl.toNat * 1024 + k.tag.toNat * 4 + k.gen.toNat
/-- The result that a store's buffer holds for an instance (R307). -/
def State.feedFor (s : State) (key inst : Nat) : Option (List Beat × List Nat) :=
  ((s.store key).feed.filter fun f => f.2.1.code = inst).map fun f => f.2.2
/-- A store's buffer is released, if it is held for that instance. -/
def State.releaseFeed (s : State) (key inst : Nat) : State :=
  if (s.feedFor key inst).isSome then s.setStore key { s.store key with feed := none } else s

/-- Whether a store of this module holds its buffer for an instance of a node's own strand. -/
def State.ownFeed (s : State) (n : Node) (key : Nat) : Bool :=
  (s.store key).feed.any fun f => (s.strandOf n.ctx).any fun st => st.has f.1.ctx
/-- The buffers that the listed stores hold for the node's instance are released. -/
def State.releaseFeeds (s : State) (n : Node) (k : Key) (m : Merge) : State :=
  m.ids.foldl (fun s g => match s.ofGid g with
    | some key => if s.ownFeed n key then s.releaseFeed key k.code else s
    | none => s.toStore n g (.unfeed g k.code)) s

/-- What a store answers to a fetch: whether a page with C = 1 gave some of it (R168), and a value beat with its VC, NLANE, poison and crumb
flags (R82), or the whole SOFT result; none when the buffer lacks it. -/
def State.feedAnswer (s : State) (key inst : Nat) (rank : Option Nat) : Option (List Beat × List Nat) :=
  let d := (s.store key).desc
  let e := s.storeEnt key d.vvc
  match s.feedFor key inst, rank with
  | some (beats, nums), some i =>
    (beats[i]?).map fun b =>
      let fl := crumbFlags (fmtOf e) { nlane := fullLanes e, data := b, fl := { poi := nums.getD (i + 1) 0 = 1 } }
      ([b], [nums.headD 0, d.vvc.toNat, (fullLanes e).toNat, b2n fl.poi, b2n fl.crb, b2n fl.cside])
  | some x, none => some x
  | none, _ => none

/-- What a listed store holds for a merge: its own module's store answers at once, another's has answered or not yet (none). -/
def State.fetched (s : State) (n : Node) (k : Key) (fs : List Fetch) (g : Nat) (rank : Option Nat) : Option (List Beat × List Nat) :=
  match s.ofGid g with
  | some key => if s.ownFeed n key then s.feedAnswer key k.code rank else none
  | none => ((fs.find? fun f => f.gid = g && f.rank = rank).bind (·.res)).join

/-- One RETRY token in place of a merge's result (R393). -/
def retryOuts (t : Tok) : List Out := [outBoth { t with fl := { retry := true }, data := 0, seq := 0, nlane := 0, age := 0 }]

/-- Offers of the k-th best to every listed store's wafer, here or on another module (R309). -/
def State.publish (s : State) (m : Merge) (c : Nat) : State :=
  if !bit m.ctl.data 379 then s else
  m.ids.foldl (fun s g =>
    let l := g % 2 ^ 15
    let s := s.queueOffer (l / 4096) (l / 64 % 64) (bits m.ctl.data 376 3) (BitVec.ofNat 48 c)
    match s.ofGid g with
    | some _ => s
    | none => { s with mat := { s.mat with offers := upd (fun o => { o with store := some g }) (s.mat.offers.length - 1) s.mat.offers } }) s

/-- Winner i: its value beat to TA, its score token to TB; none when its buffer lacks the rank. -/
def State.winner (s : State) (n : Node) (k : Key) (fs : List Fetch) (i : Nat) (t : Tok) : Option (List Out) :=
  (s.fetched n k fs (bits t.data 160 23) (some (bits t.data 192 8))).map fun x =>
    let f := fun (j : Nat) => x.2.getD j 0
    [outA { wave := t.wave, seq := BitVec.ofNat 16 i, vc := BitVec.ofNat 5 (f 1), nlane := BitVec.ofNat 7 (f 2), data := x.1.headD 0
            fl := { poi := f 3 = 1, crb := f 4 = 1, cside := f 5 = 1 } },
     outB { t with seq := BitVec.ofNat 16 i, data := setBits t.data 192 8 i, fl := {}, src := 0, age := 0 }]

def State.winners (s : State) (n : Node) (k : Key) (fs : List Fetch) : Nat → List Tok → Option (List Out)
  | _, [] => some []
  | i, t :: r => match s.winner n k fs i t, s.winners n k fs (i + 1) r with | some a, some b => some (a ++ b) | _, _ => none

/-- The results of a KMRG whose inputs have all finished (R309); none when a fetched rank is absent from its buffer. -/
def State.kmrgOuts (s : State) (n : Node) (k : Key) (m : Merge) (t : Tok) (fs : List Fetch) : Option (List Out) :=
  (s.winners n k fs 0 m.cands).map fun outs => outs ++ [outBoth { endTok t m.cands.length with src := 0, age := 0 }]

/-! KSMX (R310, R115). -/

/-- The merge of the partials, in ascending store id. -/
def softMerge (lanes : Nat) (parts : List (List Beat × List Nat)) : Soft × Nat :=
  let stat := fun (p : List Beat × List Nat) (i : Nat) => p.2.getD (i + 1) 0
  let ms := parts.map fun p => floatVal 11 (stat p 0)
  let m := match ms with | [] => .inf true | v :: t => t.foldl maxVal v
  let x := parts.foldl (fun (x : Soft) p =>
    let a := exp32 (r32 (sumVals .rne [floatVal 11 (stat p 0), m.neg]))
    let lane := fun (i : Nat) => floatVal 11 (laneCode 11 (p.1.getD (i / 12) 0) (i % 12))
    ⟨m, r32 (sumVals .rne [x.l, r32 (mulVal (floatVal 11 (stat p 1)) a)]),
     (List.range lanes).map fun i => r32 (sumVals .rne [x.acc.getD i .nan, r32 (mulVal (lane i) a)])⟩) { Soft.zero lanes with m := m }
  (x, (parts.map fun p => stat p 2).foldl (· + ·) 0)

/-- Stores that a KSMX reads in full: those whose ready token is not NIL, in ascending id; with none, one store gives the lanes of the NIL form. -/
def Merge.parts (m : Merge) : List Nat :=
  let ids := insSort (fun a b => decide (a ≤ b)) (m.cands.map fun t => bits t.data 0 23)
  if ids.isEmpty then m.ids.take 1 else ids

/-- The results of a KSMX whose inputs have all come: the lanes are those of the partials, a lane that one lacks adding nothing
(log entry 155). -/
def State.ksmxOuts (s : State) (n : Node) (k : Key) (m : Merge) (t : Tok) (fs : List Fetch) : Option (List Out) :=
  let got := m.parts.map fun g => s.fetched n k fs g none
  let parts := got.filterMap id
  if m.cands.isEmpty then
    let lanes := (parts.map fun p => p.2.getD 4 12).foldl max 1
    some (softOuts { t with src := 0, age := 0 } (Soft.zero lanes).beats 0 0 0)
  else if got.any (·.isNone) then none
  else
    let (x, count) := softMerge ((parts.map fun p => p.2.getD 4 12).foldl max 0) parts
    some (softOuts { t with src := 0, age := 0 } x.beats (code32 x.m) (code32 x.l) count)

/-! A merge that is complete: at once, or when the last fetch from another module is answered. -/

/-- Fetches from other modules: each winner's value, or each partial. -/
def State.fetches (s : State) (kmrg : Bool) (m : Merge) : List (Nat × Option Nat) :=
  (if kmrg then m.cands.map fun t => (bits t.data 160 23, some (bits t.data 192 8)) else m.parts.map fun g => (g, none)).filter
    fun x => (s.ofGid x.1).isNone

def State.mergeOuts (s : State) (n : Node) (k : Key) (kmrg : Bool) (m : Merge) (t : Tok) (fs : List Fetch) : Option (List Out) :=
  if m.retry then some (retryOuts t) else if kmrg then s.kmrgOuts n k m t fs else s.ksmxOuts n k m t fs

/-- Requests leave for the other modules' stores; the merge waits for their answers. -/
def State.startFetch (s : State) (n : Node) (k : Key) (t : Tok) (before : List Kept) (l : List (Nat × Option Nat)) : State :=
  let fs := (List.range l.length).map fun i => let x := l.getD i (0, none); Fetch.mk (s.pod.nextRid + i) x.1 x.2 none
  let s := fs.foldl (fun s f => s.toStore n f.gid (.fetch f.rid f.gid k.code f.rank)) s
  { s with mat := { s.mat with merging := s.mat.merging ++ [⟨n, k, t, before, fs⟩] }
           pod := { s.pod with nextRid := s.pod.nextRid + l.length } }

/-- The last input has come (`m` with its mark): results at once, or fetches first; a store whose pair has no binding is 0x40 (log entry 186). -/
def State.mergeEnds (s : State) (kmrg : Bool) (m : Merge) (t : Tok) : Res :=
  let n := s.cur.node
  let k := s.cur.key
  let l := if m.retry then [] else s.fetches kmrg m
  match l.find? fun x => (s.gidBinding n x.1).isNone with
  | some x =>
    let d := x.1 / 2 ^ 12 % 8
    .faults (noBinding 0 { hmod := gidModule x.1, hdie := BitVec.ofNat 3 d } (s.lostBinding 0 (s.partAt n) n.ctx.die (gidModule x.1) d))
  | none =>
    if !l.isEmpty then .fires ((s.startFetch n k t (s.keptOf n k).toList l).setKept (m.kept n k)) []
    else match s.mergeOuts n k kmrg m t [] with
      | none => .faults (exn24 11)
      | some outs => .fires ((s.releaseFeeds n k m).setKept (m.kept n k)) outs

/-- An answer to a fetch comes; with the last one the merge's results leave, or its last token goes back and faults. -/
def State.fetchCame (s : State) (rid : Nat) (res : Option (List Beat × List Nat)) : State :=
  match s.mat.merging.find? fun x => x.fetches.any fun f => f.rid = rid with
  | none => s
  | some x =>
    let fs := x.fetches.map fun f => if f.rid = rid then { f with res := some res } else f
    let rest := s.mat.merging.filter fun y => !(y.node = x.node && y.key = x.key)
    if fs.any (·.res.isNone) then { s with mat := { s.mat with merging := rest ++ [{ x with fetches := fs }] } }
    else
      let s := { s with mat := { s.mat with merging := rest } }
      match s.keptOf x.node x.key with
      | none => s
      | some k =>
        let m := Merge.ofKept k
        match s.mergeOuts x.node x.key (opcode (s.wordAt x.node) = 0xC4) m x.trig fs with
        | some outs => (s.releaseFeeds x.node x.key m).respond x.node x.key outs false
        | none =>
          let s := s.unkeep x.node x.key
          let first := x.before.isEmpty
          let s := x.before.foldl (fun s k => s.setKept k) s
          s.portFault x.node x.key ((0, x.trig) :: if first then [(1, m.ctl)] else []) (exn24 11)

def kmrgBody (k : Nat) (s : State) (m : Merge) (t : Tok) : Res :=
  let n := s.cur.node
  let key := s.cur.key
  let score := !(t.fl.endf || t.fl.nil || t.fl.retry)
  let g := if score then some (bits t.data 160 23) else t.from
  let prev := m.last.find? fun x => bits x.data 160 23 = bits t.data 160 23
  if m.refuses g || (score && (match prev with | some p => scoreBefore t p | none => false)) then .faults (exn24 10)
  else if score then
    let c := { t with fl := {} }
    let new := (insSorted (fun a b => !scoreBefore b a) c m.cands).take k
    let kth := fun (l : List Tok) => (l[k - 1]?).map fun x => bits x.data 0 48
    let s := match kth m.cands, kth new with
      | none, some v => s.publish m v
      | some o, some v => if cmpVal (elemVal 14 o) (elemVal 14 v) = 0 then s else s.publish m v
      | _, none => s
    let last := c :: m.last.filter fun x => bits x.data 160 23 != bits t.data 160 23
    .fires (s.setKept ({ m with cands := new, last := last }.kept n key)) []
  else
    let m := { m with fin := m.fin + 1, retry := m.retry || t.fl.retry, done := m.done ++ t.from.toList }
    if m.fin ≤ mergeNin m.ctl.data then .fires (s.setKept (m.kept n key)) []
    else s.mergeEnds true { m with mark := true } t

def execKmrg (h : Hd) (c : FmtK) (s : State) : Host.Outcome State Fault Refusal :=
  s.mergeFire h (kmrgBody (if c.k = 0 then 64 else c.k.toNat))

def ksmxBody (s : State) (m : Merge) (t : Tok) : Res :=
  let n := s.cur.node
  let key := s.cur.key
  let g := if t.fl.retry || t.fl.nil then (match t.from with | some g => g | none => bits t.data 0 23) else bits t.data 0 23
  if m.refuses (some g) then .faults (exn24 10)
  else
    let m := { m with fin := m.fin + 1, retry := m.retry || t.fl.retry, done := m.done ++ [g]
                      cands := if t.fl.nil || t.fl.retry then m.cands else m.cands ++ [t] }
    if m.fin ≤ mergeNin m.ctl.data then .fires (s.setKept (m.kept n key)) []
    else s.mergeEnds false { m with mark := true } t

def execKsmx (h : Hd) (_c : FmtK) (s : State) : Host.Outcome State Fault Refusal := s.mergeFire h ksmxBody

end Sys2Proof.Machine
end

