-- ==== Sys2Proof/Machine/Commit.lean ====
section
/-! DEFINITION. Instances and tags (R28 to R39, R222 to R227, R292): INSTANCE_COMMIT, RETURN_TAIL_END, GENERATION_ADVANCE,
TAG_GRANT, SETTLED_RMW_PERFORM (R30) and YLD_RELEASE (R324). An event whose condition does not hold changes nothing. -/

namespace Sys2Proof.Machine

def Who.ctx (u : Who) : Ctx := ⟨u.die, u.wafer, u.slot⟩
def Who.key (u : Who) : Key := ⟨u.lvl, u.tag, u.gen⟩

/-! Complete (R31). -/

/-- A token of the instance is somewhere, or an answer to it is outstanding. -/
def State.hasToken (s : State) (c : Ctx) (k : Key) : Bool :=
  let hit := fun (n : Node) (j : Key) => decide (n.ctx = c ∧ j = k)
  let tok := fun (t : LTok) => hit t.node t.key
  s.fab.latch.any (fun x => hit x.node x.key) || s.fab.net.any (fun x => tok x.tok) || s.fab.part.any tok || s.fab.ostore.any tok ||
  s.fab.mrgo.any (fun m => m.win.any tok) || s.fab.yielded.any (fun y => hit y.node y.key) ||
  s.mem.resp.any (fun r => hit r.node r.key) || s.mem.rmwq.any (fun r => hit r.node r.key) ||
  s.mat.portq.any (fun q => q.op.unreleased && hit q.node q.key) || s.mat.merging.any (fun x => hit x.node x.key) ||
  s.pod.sent.any (fun x => x.kind != 0 && hit x.node x.key) || s.pod.remotes.any (fun r => r.kind != 0 && hit r.node r.key) ||
  s.strands.any (fun st => st.steals.any tok)

/-- A read walk that this instance armed still has beats to deliver into the context. -/
def State.streamsTo (s : State) (c : Ctx) (k : Key) : Bool :=
  s.eng.streams.any fun e => e.1 / 16 = waferKey c.die c.wafer && e.2.armed && !e.2.fin && !bit e.2.desc 236 &&
    e.2.key = some k && e.2.slot = c.slot && (!e.2.stop || !e.2.returns.isEmpty)

def State.complete (s : State) (st : Strand) (x : Inst) : Bool :=
  match s.block x.ctx with
  | none => false
  | some b =>
    !s.hasToken x.ctx x.key && !s.streamsTo x.ctx x.key && !(st.reqs.any fun r => r.node.ctx = x.ctx && r.key = x.key) &&
    (x.key.lvl.toNat != b.lvl || (List.range b.nmem).all x.issued.contains) && s.contKnown st x.key

/-- R32, R227, R353: it may commit; not in the cycle in which a fault of its strand takes effect. An instance with a GLAZE waits until the module has reached its strand's step (R170). -/
def State.mayCommit (s : State) (st : Strand) (x : Inst) : Bool :=
  !x.tail && st.liveAt x.ctx x.key && !st.frozen && (match st.mode with | .phase _ => true | _ => false) &&
  s.complete st x && st.oldest x.key && s.parentSettled st x.key &&
  !(s.flt.regs.any fun r => r.node.ctx = x.ctx && r.key = x.key) && !s.mustFreeze st &&
  (!(x.held.any fun h => match h.eff with | .glaze _ => true | _ => false) || st.step = (s.domain st.part).step)

/-! Releasing held effects (R30, R158). -/

/-- An FNC before a held effect in its instance's memory sequence holds it back (R158). -/
def fencedBy (held : List Held) (h : Held) : Bool :=
  h.msq != 127 && held.any fun f => decide (f.msq < h.msq) && (match f.eff with | .fnc .. => true | _ => false)
def State.pendFenced (s : State) (p : Pend) : Bool :=
  p.msq != 127 && s.mem.pend.any fun f => f.node.ctx = p.node.ctx && f.key = p.key && decide (f.msq < p.msq) &&
    (match f.eff with | .fnc .. => true | _ => false)

/-- The strand's step for a write: a GLAZE of the same instance that comes after it does not count yet (R170, R173). -/
def State.stepFor (s : State) (st : Strand) (p : Pend) : BitVec 32 :=
  st.step - BitVec.ofNat 32 (st.glz.countP fun g => match g.who with
    | some (n, k, _) => n.ctx = p.node.ctx && k = p.key && p.msq != 127 && decide (p.msq < bits (s.wordAt n) 18 7)
    | none => false)
/-- A GLAZE of the same instance that comes before the effect has not advanced the strand's step: it waits behind an FNC (R158), or for
the module to reach the step (R173). -/
def State.glazeFirst (s : State) (p : Pend) : Bool :=
  p.msq != 127 && s.mem.pend.any fun g => g.node.ctx = p.node.ctx && g.key = p.key && decide (g.msq < p.msq) &&
    (match g.eff with | .glaze _ => true | _ => false)

def Eff.meets (a b : Eff) : Bool := let t := b.touches; a.touches.any t.contains
/-- One of these issued through the same port, and to the same address (R157). -/
def Pend.behind (p : Pend) (l : List Pend) : Bool := l.any fun q => samePort q.node p.node && q.eff.meets p.eff
/-- A read-modify-write that issued before the effect at the same port, and acts on one of its bytes, is to perform first (R157). One of a
frozen strand performs nothing, and is not waited for. -/
def State.rmwFirst (s : State) (p : Pend) : Bool :=
  !p.eff.touches.isEmpty && s.mem.rmwq.any fun r => samePort r.node p.node && !(r.node.ctx = p.node.ctx && r.key = p.key) &&
    r.issued.any (· < p.seq) && (s.strandOf r.node.ctx).any (fun st => !st.frozen) &&
    (match s.rmwTarget r with | some (a, n) => s.meetsAcc p.eff a n | none => false)
/-- A step-shared write may be numbered and sent now (R157, R172): `l` are the effects before it. -/
def State.maySend (s : State) (p : Pend) (l : List Pend) : Bool :=
  !s.glazeFirst p && s.mayRank p.part p.node && !p.behind l && !s.rmwFirst p

/-- Instances of a list hold such effects that issued before the release number `top` was given. -/
def Strand.heldBy (st : Strand) (l : List (Ctx × Key)) (top : Nat) (f : Eff → Bool) : Bool :=
  st.insts.any fun x => l.contains (x.ctx, x.key) && x.held.any fun h => decide (h.iss ≤ top) && f h.eff
def Eff.isShared : Eff → Bool
  | .shared .. => true
  | .rst .. => true
  | _ => false
/-- Engine requests, launches and records closed: they follow every store (R158). -/
def Eff.follows : Eff → Bool
  | .engine .. => true
  | .qfnc _ => true
  | .dcnt .. => true
  | .launch .. => true
  | .resm .. => true
  | _ => false

/-- A released effect that stays where it is while its strand fires nothing (R71, R354): a fence for a write of an uncommitted instance, a GLAZE
that waits for the module's step, what comes behind one of these, and an engine's descriptor behind one that is pending. -/
def State.holdsOn (s : State) (st : Strand) (p : Pend) : Bool :=
  let first := fun (p : Pend) => match p.eff with
    | .fnc _ _ before => st.heldBy before p.seq Eff.isWrite
    | .glaze _ => true
    | .sarm .. => true
    | _ => false
  let waits := fun (e : Eff) => match e with
    -- only FNC holds back an ordinary store or ENQ (R158): it performs though a GLAZE before it waits
    | .store .. => false
    | .enq .. => false
    | _ => true
  first p || p.msq != 127 && s.mem.pend.any fun f => f.node.ctx = p.node.ctx && f.key = p.key && decide (f.msq < p.msq) && first f &&
    (waits p.eff || (match f.eff with | .fnc .. => true | _ => false))
def State.stays (s : State) (st : Strand) (p : Pend) : Bool :=
  s.holdsOn st p || p.eff.follows && s.mem.pend.any fun q => q.die = p.die && q.task = p.task && q.eff.isWrite && s.holdsOn st q
/-- A released effect of a saved strand: it waits for the restore. -/
def State.parked (s : State) (p : Pend) : Bool := s.saved.any fun v => v.strand.is p.die p.task && p.ended.isNone

/-- Instances, but for the one named, whose commit buffers hold writes (R159, R173). -/
def Strand.writersBut (st : Strand) (c : Ctx) (k : Key) : List (Ctx × Key) :=
  (st.insts.filter fun x => !(x.ctx = c && x.key = k) && x.held.any fun h => h.eff.isWrite).map fun x => (x.ctx, x.key)

/-- A step-shared write is numbered and sent (R172), in the step of its strand, or in the one its strand ended in. -/
def State.sendPend (s : State) (p : Pend) : State :=
  let step := match p.ended, s.strand p.die p.task with
    | none, some st => s.stepFor st p
    | e, _ => e.getD 0
  match p.eff with
  | .shared a d m f poi => s.sendRecord p.part step p.node.ctx.die 0 a d m f poi 0 ⟨0, p.node, p.key, {}, {}, false, p.seq⟩
  | .rst a d m f poi tok => s.sendRecord p.part step p.node.ctx.die 0 a d m f poi 0 ⟨1, p.node, p.key, tok, {}, true, p.seq⟩
  | _ => s

/-- A GLAZE counts: the strand's step advances, and its contribution waits (R173). -/
def State.countGlaze (s : State) (st : Strand) (p : Pend) (tok : Tok) : State :=
  s.setStrand { st with glz := st.glz ++ [⟨some (p.node, p.key, tok), st.step, p.seq, st.writersBut p.node.ctx p.key⟩], step := st.step + 1 }

/-- An effect leaves its commit buffer: a step-shared write is sent, a GLAZE counts, an append goes to the sequence port, as soon as it
may; every other effect, and what has to wait, waits to perform. -/
def State.letGo (s : State) (p : Pend) : State :=
  let wait := fun (p : Pend) => { s with mem := { s.mem with pend := s.mem.pend ++ [p] } }
  match p.eff, (if p.ended.isSome then none else s.strand p.die p.task) with
  | .shared .., _ => if s.maySend p s.mem.pend then s.sendPend p else wait p
  | .rst .., _ => if s.maySend p s.mem.pend then s.sendPend p else wait p
  | .fnc c t _, some st => wait { p with eff := .fnc c t (st.writersBut p.node.ctx p.key) }
  | .glaze tok, some st => if st.step = (s.domain st.part).step && !s.glazeFirst p then s.countGlaze st p tok else wait p
  | .spap op, st =>
    let step := match st with | some st => s.stepFor st p | none => p.ended.getD 0
    { s with pages := { s.pages with seqq := s.pages.seqq ++ [⟨p.node, p.key, p.task, op, step, p.seq, false, p.loc⟩] } }
  | _, _ => wait p

/-- Release of a memory, engine or scheduler effect. -/
def State.releaseEff (s : State) (die task : Nat) (x : Inst) (held : List Held) (h : Held) : State :=
  let st := s.strand die task
  let p : Pend := ⟨die, task, ⟨x.ctx, h.index⟩, x.key, h.msq, h.wave, s.mem.nextSeq, false, (st.map (·.part)).getD 0,
    (st.map (·.wafers)).getD [], none,
    match st with
    | some st => { s.locOf st ⟨x.ctx, h.index⟩ x.key with wave := h.wave.toNat }
    | none => Loc.none,
    h.eff⟩
  let s := { s with mem := { s.mem with nextSeq := s.mem.nextSeq + 1 } }
  let fence := match h.eff with | .fnc .. => true | _ => false
  if fencedBy held h && !fence then { s with mem := { s.mem with pend := s.mem.pend ++ [p] } } else s.letGo p

/-- Younger instances of the block of a context (R37). -/
def Strand.youngerHere (st : Strand) (c : Ctx) (k : Key) : List Key :=
  (st.younger k).filter fun j => (st.inst c j).isSome || (match st.tagRec j with | some t => t.home = c | none => false)

/-- WRSR reaches its register (R117). -/
def written (old : BitVec 64) (v : Word) : BitVec 64 :=
  BitVec.ofNat 64 (pack [(56, 8, bits old 56 8 + 1), (48, 2, bits v 48 2), (0, 48, bits v 0 48)])

def State.setVc (s : State) (die wafer : Nat) (cells : List Nat) (vc : Nat) (e : BitVec 32) : State :=
  { s with pl := { s.pl with vcs := cells.foldl (fun t c => Tab.put 0x03F80000 (cellKey die wafer c * 32 + vc) e t) s.pl.vcs } }

/-- SARM takes effect: its wafer's engine is armed, and S_e keeps the descriptor (R289, R333). -/
def State.sarm (s : State) (die task : Nat) (n : Node) (k : Key) (e : Nat) (d : BitVec 256) : State :=
  (s.onStrand die task fun st => { st with sd := Tab.put 0 e d st.sd }).armStream n.ctx.die n.ctx.wafer e d k n.ctx.slot task

/-- Release of one held effect. `x` is the instance, `held` all it holds. -/
def State.release1 (s : State) (die task : Nat) (x : Inst) (held : List Held) (h : Held) : State :=
  let n : Node := ⟨x.ctx, h.index⟩
  match h.eff with
  | .carry r v => s.setCarry die task r v
  | .leave toks => toks.foldl (fun (s : State) t =>
      ({ s with fab := { s.fab with latch := s.fab.latch ++ [⟨n, t.key, t.tok, [(t.node.index, t.port)]⟩] } } : State).enter t) s
  | .exit e p =>
    match s.strand die task with
    | none => s
    | some st =>
      (s.setStrand { st with exits := st.exits ++ [(st.local x.ctx.wafer, e, p)] }).kill die task (st.youngerHere x.ctx x.key)
  | .tagf l =>
    match s.strand die task with
    | none => s
    | some st =>
      (s.setStrand (st.setLevel l { st.level l with adv := true, free := true, closed := true, tagf := some ⟨n, x.key, h.wave, 0, false⟩ })).kill die task (st.younger x.key)
  | .eosd e => s.setStream x.ctx.die x.ctx.wafer e (endWalk (s.stream x.ctx.die x.ctx.wafer e))
  | .vcset i v => s.setVc x.ctx.die x.ctx.wafer (if bit i 5 then List.range 64 else [n.cell]) (bits i 0 5) v
  | .wrsr t v =>
    { s with pl := { s.pl with thr := Tab.put 0 (thrKey x.ctx.die x.ctx.wafer t) (written (s.treg x.ctx.die x.ctx.wafer t) v) s.pl.thr } }
  | .offer d w t v => { s with mat := { s.mat with offers := s.mat.offers ++ [⟨d, w, t, v, none, die, task, none⟩] } }
  | .cpri p all => s.writePrio x.ctx p all
  | .done dc => s.onStrand die task fun st => { st with done := st.done.or (some dc) }
  | .kflt f e => { s with pl := { s.pl with filt := Tab.put 0 (filtKey x.ctx.die x.ctx.wafer f) e s.pl.filt } }
  | .port sel kvc op =>
    let l : Loc := match s.strand die task with | some st => s.locOf st n x.key | none => Loc.none
    s.askPort (storeKey x.ctx.die x.ctx.wafer sel) n x.key kvc op { l with wave := h.wave.toNat }
  | .sarm e d =>
    if (s.stream x.ctx.die x.ctx.wafer e).pending.isSome then s.releaseEff die task x held h else s.sarm die task n x.key e d
  | _ => s.releaseEff die task x held h

/-- Effects in ascending index; GLAZEs first, in memory-sequence order: what the others leave for depends on the step they have advanced
(R170); then what goes through the memory ports, by cell (R172) and for each cell as it issued (R157); appends last, in memory-sequence order
(R314). -/
def ordered (held : List Held) : List Held :=
  let g := fun (h : Held) => match h.eff with | .glaze _ => true | _ => false
  let a := fun (h : Held) => match h.eff with | .spap _ => true | _ => false
  let w := fun (h : Held) => !h.eff.touches.isEmpty
  let byMsq := insSort (fun x y => decide (x.msq ≤ y.msq))
  byMsq (held.filter g) ++ insSort (fun x y => decide (x.index ≤ y.index)) (held.filter fun h => !g h && !a h && !w h) ++
    insSort (fun x y => decide (x.index / 2 ≤ y.index / 2)) (held.filter w) ++ byMsq (held.filter a)
def State.releaseAll (s : State) (die task : Nat) (x : Inst) : State :=
  (ordered x.held).foldl (fun s h => s.release1 die task x x.held h) s

/-- Late tokens still due at commit (R292): one word, one due, however many tokens it emits. -/
def lateDue (held : List Held) : Nat :=
  held.countP fun h => match h.eff with
    | .fnc .. => true
    | .dfnc .. => true
    | .glaze _ => true
    | .rst .. => true
    | .engine _ (.gath ..) => true
    | .engine _ (.coll ..) => true
    | _ => false

/-- A late word has emitted its last token. -/
def State.lateDone (s : State) (n : Node) (k : Key) : State :=
  match s.strandOf n.ctx with
  | none => s
  | some st => s.setStrand (st.onInst n.ctx k fun x => { x with due := x.due - 1 })

/-! Freeing a level (R226, R292). -/

/-- A committed TAGF returns the level's tags once its generation has advanced and no tail of the level is open. -/
def Strand.freeLevel (st : Strand) (l : Nat) : Strand :=
  let x := st.level l
  if x.free && !x.adv && !(st.insts.any fun i => i.tail && i.key.lvl.toNat = l) then st.setLevel l { x with free := false, tags := [] }
  else st

/-- The instance has committed: its record goes, or stays as a return tail. -/
def Strand.finish (st : Strand) (x : Inst) (since : Nat) : Strand :=
  let due := lateDue x.held
  let insts : List Inst := if due = 0 then st.insts.filter fun y => !(y.ctx = x.ctx && y.key = x.key)
    else st.insts.map fun y => if y.ctx = x.ctx && y.key = x.key then { y with tail := true, since := since, due := due, held := [] } else y
  let st : Strand := { st with insts := insts }
  if st.l0 = some x.key then
    let ds := addNew st.l0done x.ctx.wafer
    let st := { st with l0done := ds }
    if st.wafers.all ds.contains then st.onTag x.key fun t => { t with gone := true } else st
  else st.onTag x.key fun t => { t with gone := true }

/-- The instances on whose behalf an instance was allocated have a committed descendant (R358). -/
def Strand.markAncestors (st : Strand) : Nat → Key → Strand
  | 0, _ => st
  | f + 1, k =>
    match (st.tagRec k).bind (·.parent) with
    | none => st
    | some p =>
      let mark := fun (x : Inst) => if x.key = p then { x with rmw := true } else x
      ({ st with insts := st.insts.map mark } : Strand).markAncestors f p

/-- What nodes keep for an instance goes with it; a return tail keeps it (R292). -/
def State.dropKept (s : State) (c : Ctx) (k : Key) : State :=
  { s with fab := { s.fab with kept := s.fab.kept.filter fun y => !(y.node.ctx = c && y.key = k) } }

/-- A read-modify-write whose instance is settled and has not been seen so before. -/
def State.newlySettled (s : State) (r : Rmw) : Bool :=
  r.since = 0 && (match s.strandOf r.node.ctx with | some st => s.settled st r.key | none => false)
/-- Read-modify-writes whose instances are settled now issue at their ports, in front of everything released from now on (R157). -/
def State.seeSettled (s : State) : State :=
  if !s.mem.rmwq.any s.newlySettled then s else
  { s with mem := { s.mem with
      rmwq := s.mem.rmwq.map fun r => if s.newlySettled r then { r with since := s.mem.nextSeq + 1 } else r
      nextSeq := s.mem.nextSeq + 1 } }

/-- INSTANCE_COMMIT (R32, R35, R37, R226): the held effects leave together; a second TAGF of an entry faults instead. -/
def State.commit (s : State) (die task : Nat) (x : Inst) : State :=
  match s.strand die task with
  | none => s
  | some st =>
    let bad := x.held.find? fun h => match h.eff with | .tagf l => (st.level l).closed | _ => false
    match bad with
    | some h => s.takeFault ⟨x.ctx, h.index⟩ x.key h.wave [] (illegal 0x0C 8)
    | none =>
      let exits := match s.block x.ctx with
        | some b => b.loop && b.lvl = x.key.lvl.toNat && ((st.tagRec x.key).bind (·.cont)) = some false
        | none => false
      let s := s.seeSettled.releaseAll die task x
      let s := s.onStrand die task fun st => (st.markAncestors 8 x.key).finish x s.mem.nextSeq
      let s := if lateDue x.held = 0 then s.dropKept x.ctx x.key else s
      let s := if exits then
          (s.kill die task (st.younger x.key)).onStrand die task fun st =>
            st.setLevel x.key.lvl.toNat { st.level x.key.lvl.toNat with adv := true }
        else s
      s.dropStale die task

def execInstanceCommit (u : Who) (s : State) : Host.Outcome State Fault Refusal :=
  match s.strandOf (Who.ctx u) with
  | none => .next s
  | some st =>
    match st.inst (Who.ctx u) (Who.key u) with
    | none => .next s
    | some x => if s.mayCommit st x then .next (s.commit st.die st.task x) else .next s

/-- RETURN_TAIL_END (R292). -/
def execReturnTailEnd (u : Who) (s : State) : Host.Outcome State Fault Refusal :=
  match s.strandOf (Who.ctx u) with
  | none => .next s
  | some st =>
    match st.inst (Who.ctx u) (Who.key u) with
    | none => .next s
    | some x =>
      if !x.tail || x.due != 0 || st.frozen || s.hasToken x.ctx x.key || (st.reqs.any fun r => r.node.ctx = x.ctx && r.key = x.key) ||
          (s.flt.regs.any fun r => r.node.ctx = x.ctx && r.key = x.key) then .next s
      else
        let s := (s.releaseAll st.die st.task x).dropKept x.ctx x.key
        let s := s.onStrand st.die st.task fun st =>
          ({ st with insts := st.insts.filter fun y => !(y.ctx = x.ctx && y.key = x.key) }).freeLevel x.key.lvl.toNat
        .next (s.dropStale st.die st.task)

/-! GENERATION_ADVANCE (R35, R36). -/

/-- A token that carries a generation of a level of the strand is in flight, or one that an answer will bring. -/
def State.inFlight (s : State) (st : Strand) (l : Nat) (g : BitVec 2) : Bool :=
  let hit := fun (n : Node) (j : Key) => st.has n.ctx && j.lvl.toNat = l && j.gen = g
  let tok := fun (t : LTok) => hit t.node t.key
  s.fab.latch.any (fun x => hit x.node x.key) || s.fab.net.any (fun x => tok x.tok) || s.fab.part.any tok || s.fab.ostore.any tok ||
  s.fab.mrgo.any (fun m => m.win.any tok) || s.fab.yielded.any (fun y => hit y.node y.key) ||
  s.mem.resp.any (fun r => hit r.node r.key) || s.pod.remotes.any (fun r => r.kind != 0 && hit r.node r.key) ||
  s.pod.sent.any (fun x => x.kind != 0 && hit x.node x.key) || s.mem.rmwq.any (fun r => hit r.node r.key) ||
  s.eng.rows.any (fun r => hit r.node r.key) || s.mat.portq.any (fun q => q.op.unreleased && hit q.node q.key) ||
  s.mat.merging.any (fun x => hit x.node x.key) || s.strands.any (fun y => y.steals.any tok) ||
  (st.insts.any fun x => x.tail && x.key.lvl.toNat = l && x.key.gen = g) ||
  (s.eng.streams.any fun e => e.1 / 1024 = st.die && st.wafers.contains (e.1 / 16 % 64) && !e.2.returns.isEmpty && e.2.task = st.task &&
    (match e.2.key with | some j => j.lvl.toNat = l && j.gen = g | none => false))

/-- The level's generation advances when no token of the next one is in flight; the killed tags return to the pool. -/
def State.advance (s : State) (st : Strand) (l : Nat) : State :=
  let x := st.level l
  let st := (st.setLevel l { x with gen := x.gen + 1, adv := false, tagf := none, tags := x.tags.filter fun t => !t.dead }).freeLevel l
  let s := (s.setStrand st).dropStale st.die st.task
  match st.mode with
  | .phase _ => s
  | _ => if st.l0.isNone then s.renew st.die st.task else s

def execGenerationAdvance (die task lvl : Nat) (s : State) : Host.Outcome State Fault Refusal :=
  match s.strand die task with
  | none => .next s
  | some st =>
    if st.frozen || 8 ≤ lvl || !(st.level lvl).adv || s.inFlight st lvl ((st.level lvl).gen + 1) then .next s else .next (s.advance st lvl)

/-! TAG_GRANT (R38 to R40, R222). -/

/-- Frames of a level in frame mode (R40). -/
def frames (ninst : Nat) : Nat := min 256 (2 ^ 20 / (ninst * 256))

/-- Frames of a level in frame mode (R40, R222): those of its smallest pool, when the blocks of the level have FRAME = 1 in the phase
that runs in a slot. -/
def State.levelFrames (s : State) (st : Strand) (slot l : Nat) : Option Nat :=
  match st.wafers.filterMap fun w => (s.block ⟨st.die, w, slot⟩).filter fun b => b.frame && b.lvl = l with
  | [] => none
  | b :: bs => some ((bs.map fun x => frames x.ninst).foldl min (frames b.ninst))
/-- Tags or frames of a level. -/
def State.levelRoom (s : State) (st : Strand) (slot l : Nat) : Nat := (s.levelFrames st slot l).getD 256

/-- The request served next: the enclosing tag's age, then arrival. -/
def Strand.nextReq (st : Strand) (l : Nat) : Option TagReq :=
  let rank := fun (r : TagReq) => match r.parent with | some p => st.order p | none => 0
  (insSort (fun a b => decide (rank a ≤ rank b)) (st.reqs.filter fun r => r.lvl.toNat = l)).head?

/-- R39: the request is made on behalf of the oldest live tag of the enclosing level, or of the sequencer. -/
def Strand.senior (st : Strand) (r : TagReq) : Bool :=
  match r.parent with
  | none => true
  | some p => st.oldest p
/-- Tags in use; a committed instance's tag is free again once its tail has ended. -/
def Strand.inUse (st : Strand) (l : Nat) : List TagRec :=
  (st.level l).tags.filter fun t => !t.gone || st.tailOpen ⟨BitVec.ofNat 3 l, t.tag, t.gen⟩ || t.dead

/-- May the request be granted, and by the reserve? -/
def Strand.grantable (st : Strand) (r : TagReq) (room : Nat) : Option Bool :=
  let used := st.inUse r.lvl.toNat
  if (used.filter fun t => !t.reserve).length < room - 1 then some false
  else if st.senior r && !(used.any (·.reserve)) then some true
  else none

/-- Grant the request at a free tag: the tag token leaves, and the level's first wave and merge windows start anew when the
grant opens an entry (R43, R226). -/
def State.grant (s : State) (st : Strand) (r : TagReq) (reserve : Bool) (room : Nat) : State :=
  let l := r.lvl.toNat
  let used := (st.inUse l).map fun t => t.tag.toNat
  let pool := (List.range room).filter fun t => !used.contains t
  let tag := BitVec.ofNat 8 (pool.getD (s.pick pool.length) 0)
  let x := st.level l
  let enters := match r.parent with | some p => p.lvl.toNat + 1 = l | none => l = 0
  let opens := enters && (x.closed || x.tags.isEmpty)
  let frm := (s.levelFrames st r.node.ctx.slot l).isSome
  let tags := (x.tags.filter fun t => t.tag != tag) ++ [⟨tag, x.gen, r.parent, frm, none, reserve, false, false, r.node.ctx⟩]
  let x := { x with tags := tags, closed := if opens then false else x.closed, w0 := if opens then none else x.w0
                    first := if opens then some ⟨r.lvl, tag, x.gen⟩ else x.first }
  let st := { st.setLevel l x with reqs := dropFirst (fun q => q = r) st.reqs }
  let st := (st.touch r.node.ctx r.key r.trig.wave).onInst r.node.ctx r.key fun y => { y with granted := y.granted ++ [⟨r.lvl, tag, x.gen⟩] }
  let s := (s.spent).setStrand st
  let s := if opens then { s with fab := { s.fab with mrgo := s.fab.mrgo.filter fun m => !(st.has m.node.ctx && m.lvl = r.lvl) } } else s
  let t := { r.trig with fl := { joinFlags [r.trig] with nil := false }, data := tagToken frm l x.gen tag, age := 0 }
  s.emit r.node r.key (Hd.ofWord (s.wordAt r.node)) [outBoth t]

def execTagGrant (die task lvl : Nat) (s : State) : Host.Outcome State Fault Refusal :=
  match s.strand die task with
  | none => .next s
  | some st =>
    match st.nextReq lvl with
    | none => .next s
    | some r =>
      if (s.block r.node.ctx).isNone || st.frozen || st.saving || (st.level lvl).free || !s.latchEmpty r.node then .next s else
      let room := s.levelRoom st r.node.ctx.slot lvl
      match st.grantable r room with
      | none => .next s
      | some reserve => .next (s.grant st r reserve room)

/-! SETTLED_RMW_PERFORM (R30). -/

/-- What each read-modify-write word does when it performs. -/
def State.performRmw (s : State) (r : Rmw) : Res :=
  match opcode r.word with
  | 0x87 => s.performAtomic r
  | 0x88 => s.performAtomic r
  | 0x89 => s.performAtomic r
  | 0x8B => s.performDeq r
  | 0x8F => s.performRdci r
  | 0x93 => s.performSnap r
  | 0xD9 => s.performRemote r
  | 0xDA => s.performRemote r
  | 0xA7 => s.performMlds r
  | 0xA8 => s.performMswp r
  | 0xA9 => s.performMctl r
  | 0xAC => s.performMclr r
  | 0xB0 => s.performVdcl r
  | 0xC2 => s.performKqry r
  | 0xD2 => s.performSpfk r
  | 0xD3 => s.performSprl r
  | _ => .waits

/-- Words that R30 classes as read-modify-write for RERUN (R358). -/
def countsAsRmw (op : Nat) : Bool := [0x87, 0x88, 0x89, 0x8B, 0x93, 0xD9, 0xDA, 0xD2, 0xD3].contains op

def State.dropRmw (s : State) (r : Rmw) : State :=
  { s with mem := { s.mem with rmwq := dropFirst (fun x => x.seq = r.seq) s.mem.rmwq } }

/-- The word faults exactly: its node has its operands back (R353, R382). -/
def State.rmwFault (s : State) (r : Rmw) (x : Exn) : State :=
  ((s.dropRmw r).restore r.node r.key r.ops).takeFault r.node r.key ((r.ops.head?.map fun o => o.2.wave).getD 0) (r.ops.map (·.1)) x

def execSettledRmwPerform (n : Nat) (s : State) : Host.Outcome State Fault Refusal :=
  match s.mem.rmwq[n]? with
  | none => .next s
  | some r =>
    match s.strandOf r.node.ctx with
    | none => .next s
    | some st =>
      if st.frozen || !st.live r.key || !s.settled st r.key then .next s else
      match ({ s with cur := ⟨r.node, r.key, r.word, st.die, st.task⟩ } : State).performRmw r with
      | .waits => .next s
      | .faults x => .next (s.rmwFault r x)
      | .stops t x => .next (t.rmwFault r x)
      | .fires t outs =>
        let t := t.dropRmw r
        let t := if countsAsRmw (opcode r.word) then t.markRmw r.node r.key 0 else t
        .next (if outs.isEmpty then t else t.respond r.node r.key outs false)

/-- YLD_RELEASE (R324): the token passes on once its cycles are over. -/
def execYldRelease (n : Nat) (s : State) : Host.Outcome State Fault Refusal :=
  match s.fab.yielded[n]? with
  | none => .next s
  | some y =>
    let out := { s with fab := { s.fab with yielded := drop1 n s.fab.yielded } }
    match s.strandOf y.node.ctx with
    | none => .next out
    | some st =>
      if !st.liveAt y.node.ctx y.key then .next out
      else if y.left != 0 || !s.latchEmpty y.node || st.frozen || st.saving then .next s
      else .next (out.emit y.node y.key (Hd.ofWord (s.wordAt y.node)) [outBoth y.tok])

end Sys2Proof.Machine
end

