-- ==== Sys2Proof/Machine/Loader.lean ====
section
/-! DEFINITION. The end of a phase (R37, R53, R113, R228, R328) and the two-phase load (R64 to R66, R126, R361 to R365, R373,
R406): PHASE_END, CONFIG_LOAD, CONFIG_FLIP, ISOLATION_GATE_TIMEOUT. -/

namespace Sys2Proof.Machine

/-! PHASE_END (R37). -/

/-- Every block has committed an EXIT, no tail is open, no operation of the strand waits at a store's port, and no fault of it takes
effect (R353). -/
def State.phaseOver (s : State) (st : Strand) : Bool :=
  (match st.mode with | .phase _ => true | _ => false) && !st.frozen && !s.mustFreeze st &&
  ((List.range st.wafers.length).all fun w => st.exits.any fun e => e.1 = w) && !(st.insts.any (·.tail)) &&
  !(s.mat.portq.any fun q => st.has q.node.ctx && !q.op.unreleased)

/-- KSIDs of the strand have asked for folds (R113). -/
def State.foldsAsked (s : State) (st : Strand) : Bool := s.mat.stores.any fun e => e.2.fold.contains (taskKey st.die st.task)

/-- Every instance still live. -/
def Strand.liveKeys (st : Strand) : List Key :=
  (List.range 8).flatMap fun l => ((st.level l).tags.filter fun t => !t.dead && !t.gone).map fun t => ⟨BitVec.ofNat 3 l, t.tag, t.gen⟩

/-- What the sequencer does after the phase: the exit number's entry names a slot to go on in, or it continues (R53, R228, R332). -/
def State.takeExit (s : State) (st : Strand) : Strand :=
  let x := (st.exits.find? fun e => e.1 = 0).getD (0, 0, none)
  let e := Tab.get 0 x.2.1.toNat st.exitMap
  let j := bits e 0 2
  let q := Tab.put 0 15 (x.2.1.zeroExtend 64) st.q
  let back := { st with mode := .run, sqpc := st.sqpc + 8, q := match x.2.2 with | some p => Tab.put 0 14 p q | none => q }
  match bit e 3, x.2.2 with
  | true, some p => { st with mode := .load j p }
  | true, none =>
    if s.holdsAny st j then
      { st with mode := .load j (match s.block ⟨st.die, st.lead, st.slotOf j⟩ with | some b => b.cfg | none => 0) }
    else back
  | false, _ => back

/-- The phase ends: every live instance is killed; a DONE that has committed ends the strand (R328). -/
def State.endPhase (s : State) (die task : Nat) : State :=
  match s.strand die task with
  | none => s
  | some st =>
    let s := s.kill die task st.liveKeys
    match s.strand die task with
    | none => s
    | some st =>
      let next := if st.done.isSome then { st with mode := .ended } else s.takeExit st
      let s := s.setStrand { next with l0 := none, l0done := [], exits := [] }
      let s := { s with fab := { s.fab with mrgo := s.fab.mrgo.filter fun m => !st.has m.node.ctx } }
      (s.dropStale die task).renew die task

def execPhaseEnd (die task : Nat) (s : State) : Host.Outcome State Fault Refusal :=
  match s.strand die task with
  | none => .next s
  | some st =>
    if st.mode = .ended && s.drained st then .next (s.endStrand die task (st.done.getD none))
    else if !s.phaseOver st then .next s
    else if s.foldsAsked st then .next ((s.kill die task st.liveKeys).askFolds st)
    else .next (s.endPhase die task)

/-! Reading an image (R64, R202, R364). -/

/-- What reading bytes of an image answers. -/
inductive Fetched where
  | ok (v : Nat) (s : State)
  | fails (cause : Nat) (va : Word) (s : State)
  | waits

/-- `n` bytes of an image, through the wafer that the block is written to. -/
def State.fetchBytes (s : State) (st : Strand) (w : Nat) (va : Word) (n : Nat) : Fetched :=
  if s.walkWaits st.die w st va then .waits else
  match s.translate st.die w st.part st.stamp va false with
  | (.error x, s) => .fails x.cause.toNat va s
  | (.ok a, s) =>
    if s.ahead st a then .waits else
    match s.accFault a n with
    | some c => .fails c.toNat va (s.findErrors (s.secsOf a n))
    | none =>
      match s.readHome a n with
      | (none, s) => .fails 0x36 va s
      | (some b, s) => if b.poi then .fails 0x34 va s else .ok (leNat b.bytes) s

/-- The words of a block, in order. -/
def State.fetchWords (s : State) (st : Strand) (w : Nat) (va : Word) (acc : List (BitVec 64)) : Nat → Except (Option (Nat × Word)) (List (BitVec 64)) × State
  | 0 => (.ok acc, s)
  | n + 1 =>
    match s.fetchBytes st w va 8 with
    | .ok v s => s.fetchWords st w (va + 8) (acc ++ [BitVec.ofNat 64 v]) n
    | .fails c va s => (.error (some (c, va)), s)
    | .waits => (.error none, s)

/-- The next 64-byte boundary. -/
def align64 (va : Word) : Word := (va + 63) &&& ~~~(63 : Word)

/-- What reading a whole image answers: its blocks; a failing cause, its local wafer and address; or that it waits. -/
inductive Image where
  | blocks (bs : List Block)
  | fails (cause wafer : Nat) (va : Word)
  | waits

def State.fetchImage (s : State) (st : Strand) (cfg va : Word) (i : Nat) (acc : List Block) : List Nat → Image × State
  | [] => (.blocks acc, s)
  | w :: ws =>
    match s.fetchBytes st w va 8 with
    | .waits => (.waits, s)
    | .fails c va s => (.fails c i va, s)
    | .ok lo s =>
      match s.fetchBytes st w (va + 8) 8 with
      | .waits => (.waits, s)
      | .fails c va s => (.fails c i va, s)
      | .ok hi s =>
        let hdr := BitVec.ofNat 128 (lo + hi * 2 ^ 64)
        let n := bits hdr 109 7 + 1
        match s.fetchWords st w (va + 16) [] n with
        | (.error none, s) => (.waits, s)
        | (.error (some (c, va)), s) => (.fails c i va, s)
        | (.ok words, s) =>
          s.fetchImage st cfg (align64 (va + BitVec.ofNat 64 (16 + 8 * n))) (i + 1) (acc ++ [⟨hdr, words, cfg, va⟩]) ws

/-- The image at an address for the strand's set. -/
def State.readImage (s : State) (st : Strand) (cfg : Word) : Image × State :=
  if bits cfg 0 6 != 0 then (.fails 0xFF 0 cfg, s) else s.fetchImage st cfg cfg 0 [] st.wafers

/-! The loader's checks (R361, R406). -/

/-- One bit of the CRC of R203. -/
def crcBit (c : Nat) (b : Bool) : Nat := let x := c * 2 % 65536; if (32768 ≤ c) != b then x ^^^ 0x1021 else x
def crcByte (c : Nat) (b : Byte) : Nat := [7, 6, 5, 4, 3, 2, 1, 0].foldl (fun c i => crcBit c (b.getLsbD i)) c
def crc16 (bs : List Byte) : Nat := bs.foldl crcByte 0xFFFF
def Block.bytes (b : Block) : List Byte := b.words.flatMap fun w => leBytes 8 w.toNat

/-- Registers that the block's words of an opcode name. -/
def Block.names (b : Block) (op : Nat) : List Nat := (b.words.filter fun w => opcode w = op).map fun w => bits w 0 5
/-- MSQ numbers in use. -/
def Block.msqs (b : Block) : List Nat := ((b.words.filter fun w => formatM (opcode w)).map fun w => bits w 18 7).filter (· != 127)

/-- The lowest failing CODE of a header, 0 for none. -/
def Block.headerCode (b : Block) : Nat :=
  let exits := (b.words.filter fun w => opcode w = 0x10 || opcode w = 0x11).map fun w => bits w 27 3
  let m := b.msqs
  if bits b.hdr 120 8 != 0xB7 || bits b.hdr 116 4 != 1 || bits b.hdr 24 5 != 0 then 1
  else if 61 < b.cb then 2
  else if b.frame && b.syst then 3
  else if exits.isEmpty || exits.any fun e => bits b.hdr 106 3 < e then 4
  else if m.length != b.nmem || !((List.range b.nmem).all m.contains) then 5
  else if !((List.range 32).all fun k => b.krd k = (b.names 0x12).contains k && b.kwr k = (b.names 0x13).contains k) then 6
  else if crc16 b.bytes != bits b.hdr 0 16 then 7
  else 0

/-- Words that list KEYVC, other than KDEF (R303). -/
def listsKeyvc (op : Nat) : Bool := [0xC1, 0xC2, 0xC3, 0xC6, 0xC7, 0xC9].contains op
def wordSel (w : BitVec 64) : Nat := bits w 19 6
def wordKeyvc (w : BitVec 64) : BitVec 5 := w.extractLsb' 25 5

/-- KEYVC against the wafer's descriptor, or a KDEF of the same block (R361). -/
def keyvcOk (d : Desc) (b : Block) (w : BitVec 64) : Bool :=
  let defs := b.words.filter fun x => opcode x = 0xC0 && wordSel x = wordSel w
  (d.v && d.kvc = wordKeyvc w) || (defs.any fun x => wordKeyvc x = wordKeyvc w) || (!d.v && defs.isEmpty)

/-- Conditions of a word that its block decides (R406), and OFF13 = 0 in space 101 (R274, log entry 181). -/
def Block.wordOk (b : Block) (w : BitVec 64) : Bool :=
  let op := opcode w
  let l := bits w 0 3
  if formatM op && bits w 13 3 = 5 && bits w 0 13 != 0 then false
  else if op = 0x0B then l = b.lvl || l = b.lvl + 1
  else if op = 0x0C then l = b.lvl
  else if op = 0x0D then !(bit w 0 && b.lvl = 0)
  else if 0xA7 ≤ op && op ≤ 0xAC then b.syst
  else if op = 0xB0 then !bit w 3 || b.syst
  else true

/-- The failing codes of one word. `again`: an earlier steal-form SPLT stands in the configuration. -/
def wordCodes (d : Desc) (b : Block) (again : Bool) (w : BitVec 64) : List Nat :=
  let h := Hd.ofWord w
  let op := opcode w
  (if 0xF0 ≤ op then [0x10] else match decodeWord w with | .error e => [e.code.toNat] | .ok _ => []) ++
  (if b.wordOk w && !(again && op = 0xE8 && !bit w 21) then [] else [0x12]) ++
  (if ((targetsOf h (outBoth {})).any fun t => b.ninst ≤ t.1) then [0x14] else []) ++
  (if listsKeyvc op && !keyvcOk d b w then [0x15] else [])

/-- Failing words of a block as (index, lowest CODE). -/
def wordFaults (d : Nat → Desc) (b : Block) : Bool → Nat → List (BitVec 64) → List (Nat × Nat)
  | _, _, [] => []
  | again, i, w :: ws =>
    let c := wordCodes (d (wordSel w)) b again w
    (match c with | [] => [] | x :: xs => [(i, xs.foldl min x)]) ++
      wordFaults d b (again || (opcode w = 0xE8 && !bit w 21)) (i + 1) ws

def Block.steals (b : Block) : Bool := b.words.any fun w => opcode w = 0xE8 && !bit w 21

/-- Failing elements of an image: local wafer, and each failing index with its CODE; a failing header blocks every node. -/
def State.imageFaults (s : State) (st : Strand) : Bool → Nat → List Block → List (Nat × List (Nat × Nat) × Bool)
  | _, _, [] => []
  | again, i, b :: bs =>
    let rest := s.imageFaults st (again || b.steals) (i + 1) bs
    if b.headerCode != 0 then (i, [(0, b.headerCode)], true) :: rest
    else
      match wordFaults (fun sel => (s.store (storeKey st.die (st.wafers.getD i 0) sel)).desc) b again 0 b.words with
      | [] => rest
      | l => (i, l, false) :: rest

/-! CONFIG_LOAD (R64, R362, R363). -/

/-- The launch fault of a load: the sequencer stays in its QCFG (R363). -/
def State.loadFault (s : State) (st : Strand) (j : Nat) (cfg : Word) (l : Loc) : State :=
  let s := s.onStrand st.die st.task fun x => { x with mode := .failed j cfg }
  s.report { l with die := st.die, task := st.task, cfg := cfg, sqpc := st.sqpc, step := st.step.toNat } st.part (.image st.die st.task)

def State.setShadow (s : State) (c : Ctx) (b : Option Block) (blocked : List Nat) : State :=
  s.setCtx c { s.ctxAt c with shadow := b, blocked := blocked }

/-- DETAIL of cause 0x10: the wafers that hold a BLOCKED element, and those of the named one. -/
def State.blockedDetail (s : State) (st : Strand) (j w : Nat) : Nat :=
  let mask := fun (l : List Nat) => l.foldl (fun a i => a + 2 ^ i) 0
  let held := fun (w : Nat) => (s.ctxAt ⟨st.die, st.wafers.getD w 0, st.slotOf j⟩).blocked
  pack [(128, 64, mask ((List.range st.wafers.length).filter fun w => !(held w).isEmpty)), (0, 128, mask (held w))]

/-- Failing elements enter BLOCKED, which is cleared when the slot next passes phase one; the record names the first (R362). Each entry:
local wafer, failing indices with their CODE, and whether the header fails, which blocks every node of the block. -/
def State.blockImage (s : State) (st : Strand) (j : Nat) (cfg : Word) (bs : List Block) (bad : List (Nat × List (Nat × Nat) × Bool)) : State :=
  let blockOf := fun (w : Nat) => (bs[w]?).getD ⟨0, [], 0, 0⟩
  let idx := fun (x : Nat × List (Nat × Nat) × Bool) => if x.2.2 then List.range (blockOf x.1).ninst else x.2.1.map (·.1)
  let ctx := fun (w : Nat) => Ctx.mk st.die (st.wafers.getD w 0) (st.slotOf j)
  let s := bad.foldl (fun (s : State) x => s.setShadow (ctx x.1) bs[x.1]? ((idx x).foldl addNew (s.ctxAt (ctx x.1)).blocked)) s
  match bad with
  | [] => s
  | x :: _ =>
    let f := x.2.1.headD (0, 0)
    let b := blockOf x.1
    s.loadFault st j cfg {
      kind := 2, cause := 0x10, code := f.2, node := ⟨ctx x.1, f.1⟩, hdr := b.hdr
      word := if x.2.2 then 0 else b.word f.1
      detail := s.blockedDetail st j x.1 }

/-- The shadow slot is left invalid (R364, R373). -/
def State.dropShadows (s : State) (st : Strand) (j : Nat) : State :=
  (st.ctxs j).foldl (fun (s : State) c => s.setShadow c none (s.ctxAt c).blocked) s

/-- The running digest of the partition's images on the die (R349). -/
def State.measure (s : State) (st : Strand) (bs : List Block) : State :=
  let k := handlerKey st.die st.part
  let img := bs.flatMap fun b => leBytes 16 b.hdr.toNat ++ b.bytes
  let d := Config.shake (Tab.get 0 k s.host.digests) (leBytes 64 (Config.imageDigest img).toNat)
  { s with host := { s.host with digests := Tab.put 0 k d s.host.digests } }

/-- Phase one: the shadow copies are written and checked; a slot that holds the image starts its phase at once. -/
def State.load (s : State) (st : Strand) (j : Nat) (cfg : Word) : State :=
  if s.holdsImage st j cfg then s.startPhase st.die st.task j else
  match s.readImage st cfg with
  | (.waits, _) => s
  | (.fails c w va, s) =>
    let s := s.dropShadows st j
    s.loadFault st j cfg { kind := 2, cause := 0x11, code := w * 256 + c, addr := va, node := ⟨⟨st.die, st.wafers.getD w 0, st.slotOf j⟩, 0⟩ }
  | (.blocks bs, s) =>
    let bad := s.imageFaults st false 0 bs
    let s := ((st.ctxs j).zip bs).foldl (fun (s : State) x =>
      s.setShadow x.1 (some x.2) (if bad.isEmpty then [] else (s.ctxAt x.1).blocked)) s
    if !bad.isEmpty then s.blockImage st j cfg bs bad
    else (s.measure st bs).onStrand st.die st.task fun x => { x with mode := .loaded j cfg }

/-- The load of a QCFG, a GO or a BRB waits for the drain of R156 and for the coming phase's level-0 instance. -/
def execConfigLoad (die task : Nat) (s : State) : Host.Outcome State Fault Refusal :=
  match s.strand die task with
  | none => .next s
  | some st =>
    match st.mode with
    | .load j cfg => if !s.drained st || st.l0.isNone || st.frozen || st.saving then .next s else .next (s.load st j cfg)
    | _ => .next s

/-! CONFIG_FLIP (R65, R126). -/

/-- A token in flight with this context (residue). -/
def State.residue (s : State) (c : Ctx) : Bool :=
  let tok := fun (t : LTok) => decide (t.node.ctx = c)
  s.fab.latch.any (fun x => x.node.ctx = c) || s.fab.net.any (fun x => tok x.tok) || s.fab.part.any tok || s.fab.ostore.any tok ||
  s.fab.mrgo.any (fun m => m.win.any tok) || s.fab.yielded.any (fun y => y.node.ctx = c) || s.mem.resp.any (fun r => r.node.ctx = c)

/-- Role map and INTLV that a block latches (R126). -/
def State.newRoles (s : State) (die w cb : Nat) : BitVec 129 :=
  BitVec.ofNat 129 (pack [(0, 64, (s.const die w cb).toNat), (64, 64, (s.const die w (cb + 1)).toNat), (128, 1, b2n (bit (s.const die w (cb + 2)) 0))])
def State.rolesOf (s : State) (die w : Nat) : BitVec 129 := Tab.get 0 (waferKey die w) s.pl.roles

/-- Cells whose role, or the wafer's interleaving, differs. -/
def roleChanges (a b : BitVec 129) : List Nat :=
  (List.range 64).filter fun c => bits a (2 * c) 2 != bits b (2 * c) 2 || bit a 128 != bit b 128

/-- A changing cell still has a store of its port to perform. -/
def State.portStores (s : State) (die w : Nat) (cells : List Nat) : Bool :=
  s.mem.pend.any fun p => p.node.ctx.die = die && p.node.ctx.wafer = w && cells.contains p.node.cell &&
    (match p.eff with | .store .. => true | .enq .. => true | _ => false)

/-- Another context of the wafer holds an active configuration. -/
def State.othersActive (s : State) (c : Ctx) : Bool :=
  (List.range 4).any fun x => x != c.slot && (s.block ⟨c.die, c.wafer, x⟩).isSome

/-- The map that the shadow of a context brings. -/
def State.shadowRoles (s : State) (c : Ctx) : BitVec 129 :=
  match (s.ctxAt c).shadow with
  | some b => s.newRoles c.die c.wafer b.cb
  | none => s.rolesOf c.die c.wafer

/-- A bank that leaves the FIFO or cache role, or has taken records, keeps bytes whose places no rule gives (R126; log entry 60): free
values. -/
def State.freeBank (s : State) (die w cell : Nat) : State :=
  let bytes := (List.range Config.bankBytes).map fun i => BitVec.ofNat 8 (Config.free (s.ctr + i))
  { s with ctr := s.ctr + Config.bankBytes, mem := { s.mem with bank := memWrite s.mem.bank (bankKey die w cell 0) bytes } }

/-- What a bank holds, by offset. -/
def State.bankCells (s : State) (die w cell : Nat) : List Host.Cell :=
  (s.mem.bank.filter fun b => b.1 / Config.bankBytes = cellKey die w cell).map fun b => (b.1 % Config.bankBytes, b.2)
/-- A record whose bytes have been written over: a free value. -/
def KRec.overwritten (r : KRec) (seed : Nat) : KRec :=
  let n := r.key.length
  { key := (List.range n).map fun i => BitVec.ofNat 384 (Config.free (seed + i)), info := BitVec.ofNat 128 (Config.free (seed + n)),
    val := BitVec.ofNat 384 (Config.free (seed + n + 1)), poi := Config.free (seed + n + 2) % 2 = 1 }
def State.setStores (s : State) (t : Tab Store) : State := { s with mat := { s.mat with stores := t } }
/-- A bank leaves the match-store role: its bytes stand; what they are is open once a record was written among them. Every store whose
records lie there keeps what it then holds. -/
def State.leaveStore (s : State) (die w cell : Nat) : State :=
  let mine := fun (e : Nat × Store) => decide (e.1 / 64 = waferKey die w)
  let s := if s.mat.stores.any fun e => mine e && e.2.used.contains cell then s.freeBank die w cell else s
  s.setStores (s.mat.stores.map fun e => if !mine e then e else
    (e.1, { e.2 with used := e.2.used.filter (· != cell),
                     left := if e.2.desc.cells.contains cell then Tab.ins cell (s.bankCells die w cell) e.2.left else e.2.left }))
/-- A bank enters the match-store role with its bytes: records of a store whose bytes have been written over since are free values. -/
def State.rejoinStore (s : State) (die w cell : Nat) : State :=
  let same := fun (x : Store) => Tab.get [] cell x.left = s.bankCells die w cell
  (s.mat.stores.filter fun e => e.1 / 64 = waferKey die w && (Tab.find cell e.2.left).isSome).foldl (fun s e =>
    let x := { e.2 with left := Tab.del cell e.2.left }
    let n := x.recs.foldl (fun a r => a + r.key.length + 3) 0
    if same e.2 then s.setStores (Tab.put {} e.1 x s.mat.stores) else
    let recs := (List.range x.recs.length).zip x.recs |>.map fun y => y.2.overwritten (s.ctr + n * y.1)
    { s with ctr := s.ctr + n * n }.setStores (Tab.put {} e.1 { x with recs := recs } s.mat.stores)) s
/-- A bank's role changes: it enters the FIFO or cache role empty, and any other with the bytes it holds (R126). -/
def State.changeRole (s : State) (die w : Nat) (old new : BitVec 129) (cell : Nat) : State :=
  let was := bits old (2 * cell) 2
  let is := bits new (2 * cell) 2
  if was = is then s else
  let s := if was = 3 then s.leaveStore die w cell else if was = 0 then s else s.freeBank die w cell
  if is = 3 then s.rejoinStore die w cell else s

/-- One wafer flips: its map is latched. -/
def State.flip1 (s : State) (c : Ctx) : State :=
  let new := s.shadowRoles c
  let old := s.rolesOf c.die c.wafer
  let x := s.ctxAt c
  let s := s.setCtx c { x with active := x.shadow, shadow := none, blocked := [] }
  let caches := (List.range 64).any fun i => bits new (2 * i) 2 != bits old (2 * i) 2 && (bits new (2 * i) 2 = 2 || bits old (2 * i) 2 = 2)
  let s := (List.range 64).foldl (fun s i => s.changeRole c.die c.wafer old new i) s
  { s with pl := { s.pl with roles := Tab.put 0 (waferKey c.die c.wafer) new s.pl.roles },
           mem := { s.mem with copies := if caches then s.mem.copies.filter fun y => !(y.die = c.die && y.wafer = some c.wafer) else s.mem.copies } }

def State.mayFlip (s : State) (st : Strand) (j : Nat) : Bool :=
  !(st.ctxs j).any fun c => s.residue c || s.portStores c.die c.wafer (roleChanges (s.rolesOf c.die c.wafer) (s.shadowRoles c))

/-- Contexts whose new block would change a map that another active configuration of the wafer relies on (R126). -/
def State.clashes (s : State) (st : Strand) (j : Nat) : List Ctx :=
  (st.ctxs j).filter fun c => s.othersActive c && s.shadowRoles c != s.rolesOf c.die c.wafer

/-- CODE 0x0008: the headers fail at the flip, and every node of their blocks is BLOCKED (R361, R362). -/
def State.blockAtFlip (s : State) (st : Strand) (j : Nat) (cfg : Word) (clash : List Ctx) : State :=
  let bs := (st.ctxs j).map fun c => ((s.ctxAt c).shadow).getD ⟨0, [], 0, 0⟩
  s.blockImage st j cfg bs (clash.map fun c => (st.local c.wafer, [(0, 8)], true))

/-- A set of 1 to 16 wafers flips at once; a larger one first sets its pending pointers, its gates closed (R65, R66). -/
def State.flip (s : State) (st : Strand) (j : Nat) (cfg : Word) : State :=
  if st.wafers.length ≤ 16 then ((st.ctxs j).foldl State.flip1 s).startPhase st.die st.task j
  else s.setStrand { st with mode := .flipping j cfg [] 0 }

/-- Wafers of a set whose pending pointers are set, 16 more in each cycle, and that have not acknowledged (R65). -/
def Strand.unacked (st : Strand) (acked : List Nat) (age : Nat) : List Nat :=
  (st.wafers.take (16 * (age + 1))).filter fun w => !acked.contains w

/-- One wafer of those acknowledges, which one is free; once all have, all flip, unless 1,024 cycles have passed first (R373). -/
def State.flipOn (s : State) (st : Strand) (j : Nat) (cfg : Word) (acked : List Nat) (age : Nat) : State :=
  if st.wafers.all acked.contains then
    (if s.mayFlip st j then ((st.ctxs j).foldl State.flip1 s).startPhase st.die st.task j else s)
  else if 1024 ≤ age then s
  else
    let l := st.unacked acked age
    match l[s.pick l.length]? with
    | none => s
    | some w => s.spent.setStrand { st with mode := .flipping j cfg (acked ++ [w]) age }

def execConfigFlip (die task : Nat) (s : State) : Host.Outcome State Fault Refusal :=
  match s.strand die task with
  | none => .next s
  | some st =>
    if st.frozen || st.saving then .next s else
    match st.mode with
    | .loaded j cfg =>
      if !(s.clashes st j).isEmpty then .next (s.blockAtFlip st j cfg (s.clashes st j))
      else if s.mayFlip st j then .next (s.flip st j cfg) else .next s
    | .flipping j cfg acked age =>
      if !(s.clashes st j).isEmpty then .next (s.blockAtFlip st j cfg (s.clashes st j)) else .next (s.flipOn st j cfg acked age)
    | _ => .next s

/-- R373: wafer `w`, the first in set order, has not acknowledged its pending pointer within 1,024 cycles of the first gate closing. -/
def execIsolationGateTimeout (die task w : Nat) (s : State) : Host.Outcome State Fault Refusal :=
  match s.strand die task with
  | none => .next s
  | some st =>
    match st.mode with
    | .flipping j cfg acked age =>
      if age < 1024 || (st.wafers.find? fun x => !acked.contains x) != some w || st.frozen || st.saving then .next s else
      .next ((s.dropShadows st j).loadFault st j cfg { kind := 1, cause := 0x16, node := ⟨⟨die, w, st.slotOf j⟩, 0⟩ })
    | _ => .next s

end Sys2Proof.Machine
end

