-- ==== Sys2Proof/Machine/Fetch.lean ====
section
/-! DEFINITION. Fetching an instruction's bytes: a node's word from its active block (R17, R197), a sequencer word at SQPC
(R205), and the sequencer fault of a word that cannot run (R412). -/

namespace Sys2Proof.Machine

/-- The eight bytes of a node's word, in address order; none when the context holds no such node. -/
def State.nodeBytes (s : State) (n : Node) : Option (List Byte) :=
  match s.block n.ctx with
  | none => none
  | some b => if n.index < b.words.length then some (leBytes 8 (b.word n.index).toNat) else none

/-- The sequencer stops at its word with cause 0x18 (R412): the strand waits for the record to be closed. The record names the first slot
of the lead wafer and the image there (log entry 158). -/
def State.seqFault (s : State) (st : Strand) (code : Nat) (addr : Word) (detail : Nat) (word : BitVec 64) : State :=
  let c : Ctx := ⟨st.die, st.lead, st.slots.headD 0⟩
  let s := s.onStrand st.die st.task fun x => { x with mode := .faulted }
  s.report { kind := 3, cause := 0x18, code := code, addr := addr, detail := detail, die := st.die, task := st.task,
             sqpc := st.sqpc, step := st.step.toNat, node := ⟨c, 0⟩, word := word
             cfg := match s.block c with | some b => b.cfg | none => 0 } st.part
    (.sequencer st.die st.task)

/-- What fetching a sequencer word answers. -/
inductive SeqFetch where
  | idle
  | bytes (bs : List Byte) (s : State)
  | stops (s : State)

/-- The word at SQPC, translated for the strand's partition through its lead wafer; a failure is CODE 0x0005 (R412). -/
def State.seqBytes (s : State) (die task : Nat) : SeqFetch :=
  match s.strand die task with
  | none => .idle
  | some st =>
    if st.mode != .run || st.saving || st.frozen || s.walkWaits die st.lead st st.sqpc then .idle else
    match s.translate die st.lead st.part st.stamp st.sqpc false with
    | (.error x, s) => .stops (s.seqFault st 5 st.sqpc x.cause.toNat 0)
    | (.ok a, s) =>
      if s.ahead st a then .idle else
      let secs := sectorsOf (s.home a.base) (s.home a.addr) 8
      match s.sectorFault secs with
      | some c => .stops ((s.findErrors secs).seqFault st 5 st.sqpc c.toNat 0)
      | none =>
        match s.readHome a 8 with
        | (some b, s) => .bytes b.bytes s
        | (none, s) => .stops (s.seqFault st 5 st.sqpc 0x36 0)

/-- The word's opcode is a sequencer opcode (R200, R412). -/
def isSeqOpcode (bs : List Byte) : Bool := let op := (bs.getD 7 0).toNat; 0xF0 ≤ op && op ≤ 0xF9

end Sys2Proof.Machine
end

