-- ==== Sys2Proof/Machine/Sequencer.lean ====
section
/-! DEFINITION. Sequencer words, opcodes 0xF0 to 0xF9 (R330 to R334, R412), and the expiry of QWAIT. -/

namespace Sys2Proof.Machine

/-! Registers (R206, R330). -/

def State.readReg (s : State) (st : Strand) (r : Nat) : Word :=
  if r < 0x10 then Tab.get 0 r st.q
  else if r < 0x20 then (Tab.get 0 (r - 0x10) st.i).zeroExtend 64
  else if r < 0x40 then Tab.get 0 (r - 0x20) st.k
  else s.const st.die st.lead (r - 0x40)

/-- A constants-plane word of every wafer of the set (R67, R330). -/
def State.setConst (s : State) (die i : Nat) (v : Word) (ws : List Nat) : State :=
  { s with pl := { s.pl with consts := ws.foldl (fun t w => Tab.put 0 (waferKey die w * 64 + i) v t) s.pl.consts } }

def State.writeReg (s : State) (st : Strand) (r : Nat) (v : Word) : State :=
  if r < 0x10 then s.onStrand st.die st.task fun x => { x with q := Tab.put 0 r v x.q }
  else if r < 0x20 then s.onStrand st.die st.task fun x => { x with i := Tab.put 0 (r - 0x10) (v.setWidth 32) x.i }
  else if r < 0x40 then s.setCarry st.die st.task (r - 0x20) v
  else s.setConst st.die (r - 0x40) v st.wafers

/-- The strand whose sequencer executes; it does nothing while the sequencer is elsewhere. -/
def State.onSeq (s : State) (f : Strand → State) : Host.Outcome State Fault Refusal :=
  match s.strand s.cur.die s.cur.task with
  | none => .next s
  | some st => if st.mode != .run || st.saving || st.frozen then .next s else .next (f st)

def State.seqNext (s : State) (st : Strand) : State := s.onStrand st.die st.task fun x => { x with sqpc := x.sqpc + 8 }
/-- A branch target, and the label of a QCFG: the word's address plus IMM32 × 8 (R205). -/
def label (pc : Word) (imm : BitVec 32) : Word := pc + (imm.signExtend 64 <<< 3)
def State.seqBranch (s : State) (st : Strand) (imm : BitVec 32) : State :=
  s.onStrand st.die st.task fun x => { x with sqpc := label x.sqpc imm }

/-- v: DB's register, or the sign-extended immediate. -/
def State.seqOperand (s : State) (st : Strand) (q : SeqW) : Word :=
  if q.imb then q.imm.signExtend 64 else s.readReg st q.db.toNat

/-! QCFG (R332, R51). -/

/-- A configuration waits for the drain (R156) and for the coming phase's level-0 instance (R37). -/
def State.qcfg (s : State) (q : SeqW) (cfg : Strand → Word) : Host.Outcome State Fault Refusal :=
  s.onSeq fun st =>
    let j := bits q.fn 0 2
    if st.slots.length ≤ j then s.seqFault st 6 0 0 s.cur.word
    else if !s.drained st || st.l0.isNone then s
    else s.enterSlot st.die st.task j (cfg st)

def execQcfgLabel (q : SeqW) (s : State) : Host.Outcome State Fault Refusal := s.qcfg q fun st => label st.sqpc q.imm
def execQcfgRegister (q : SeqW) (s : State) : Host.Outcome State Fault Refusal :=
  s.qcfg q fun st => s.readReg st q.da.toNat

/-! QLOOP, QBR, QSET, QADD (R331). -/

def execQloop (q : SeqW) (s : State) : Host.Outcome State Fault Refusal :=
  s.onSeq fun st =>
    let r := q.da.toNat
    let v := s.readReg st r
    if v = 0 then s.seqNext st
    else
      let s' := s.writeReg st r (v - 1)
      if v - 1 = 0 then s'.seqNext st else s'.seqBranch st q.imm

/-- QBR's condition: DA against DB as S64, or always. -/
def qbrTaken (fn : Nat) (a b : Word) : Bool :=
  fn = 6 || cond fn (if a.toInt < b.toInt then -1 else if a.toInt = b.toInt then 0 else 1)
def execQbr (q : SeqW) (s : State) : Host.Outcome State Fault Refusal :=
  s.onSeq fun st =>
    if qbrTaken q.fn.toNat (s.readReg st q.da.toNat) (s.readReg st q.db.toNat) then s.seqBranch st q.imm else s.seqNext st

def execQset (q : SeqW) (s : State) : Host.Outcome State Fault Refusal :=
  s.onSeq fun st => (s.writeReg st q.da.toNat (s.seqOperand st q)).seqNext st
def execQadd (q : SeqW) (s : State) : Host.Outcome State Fault Refusal :=
  s.onSeq fun st => (s.writeReg st q.da.toNat (s.readReg st q.da.toNat + s.seqOperand st q)).seqNext st

/-! QARM (R333). -/

/-- Arm engine e of every wafer of the set with the descriptor, which S_e keeps. A pending descriptor, and a coming phase whose
level-0 instance is not granted yet, hold the sequencer (R149); a reserved SPC or bit is CODE 0x0003 (R412). -/
def State.qarm (s : State) (st : Strand) (e : Nat) (d : BitVec 256) : State :=
  if !goodDesc d then s.seqFault st 3 0 0 s.cur.word else
  match st.l0 with
  | none => s
  | some k =>
    if s.streamPending st e then s else
    let s := s.onStrand st.die st.task fun x => { x with sd := Tab.put 0 e d x.sd }
    (st.wafers.foldl (fun s w => s.armStream st.die w e d k 4 st.task) s).seqNext st

def withBase (d : BitVec 256) (v : Word) : BitVec 256 := setBits d 0 64 v.toNat
def execQarmRegister (q : SeqW) (s : State) : Host.Outcome State Fault Refusal :=
  s.onSeq fun st =>
    let e := bits q.da 0 4
    s.qarm st e (withBase (Tab.get 0 e st.sd) (s.readReg st q.db.toNat))
/-- Constants-plane words c to c + 3 of the lead wafer. -/
def State.constDesc (s : State) (st : Strand) (c : Nat) : BitVec 256 :=
  s.const st.die st.lead (c + 3) ++ s.const st.die st.lead (c + 2) ++ s.const st.die st.lead (c + 1) ++ s.const st.die st.lead c
def execQarmConstants (q : SeqW) (s : State) : Host.Outcome State Fault Refusal :=
  s.onSeq fun st => s.qarm st (bits q.da 0 4) (s.constDesc st (bits q.imm 0 6))
def execQarmKeep (q : SeqW) (s : State) : Host.Outcome State Fault Refusal :=
  s.onSeq fun st => s.qarm st (bits q.da 0 4) (Tab.get 0 (bits q.da 0 4) st.sd)

/-! QWAIT (R331). -/

def execQwaitStream (q : SeqW) (s : State) : Host.Outcome State Fault Refusal :=
  s.onSeq fun st =>
    if st.wafers.all fun w => let x := s.stream st.die w (bits q.da 0 4); !x.armed || x.fin then s.seqNext st else s
def execQwaitCycles (q : SeqW) (s : State) : Host.Outcome State Fault Refusal :=
  s.onSeq fun st => s.setStrand { st with mode := .cycles q.imm.toNat }
/-- The cycles of a QWAIT have passed. -/
def execQwaitExpiry (die task : Nat) (s : State) : Host.Outcome State Fault Refusal :=
  match s.strand die task with
  | none => .next s
  | some st =>
    if st.mode = .cycles 0 && !st.saving && !st.frozen then .next (s.setStrand { st with mode := .run, sqpc := st.sqpc + 8 })
    else .next s

/-! QEND, QPRD, QGLZ (R328, R331, R334). -/

/-- No phase runs at a sequencer word, so the strand ends as soon as its writes have performed. -/
def execQend (_q : SeqW) (s : State) : Host.Outcome State Fault Refusal :=
  s.onSeq fun st => if s.drained st then s.endStrand st.die st.task none else s

def execQprd (q : SeqW) (s : State) : Host.Outcome State Fault Refusal :=
  s.onSeq fun st =>
    let v : BitVec 4 := q.imm.extractLsb' 8 4
    if bit v 3 && st.slots.length ≤ bits v 0 2 then s.seqFault st 6 0 0 s.cur.word
    else (s.onStrand st.die st.task fun x => { x with exitMap := Tab.put 0 (bits q.imm 0 3) v x.exitMap }).seqNext st

/-- The sequencer's contribution to the glaze of the strand's step; it waits while that glaze is ahead of the module's (R173). -/
def State.qglz (s : State) (st : Strand) (f : Strand → Strand) : State :=
  if st.step != (s.domain st.part).step then s
  else s.setStrand (f { st with glz := st.glz ++ [⟨none, st.step, s.mem.nextSeq, []⟩], step := st.step + 1 })
def execQglzWait (q : SeqW) (s : State) : Host.Outcome State Fault Refusal :=
  s.onSeq fun st => s.qglz st fun x => { x with mode := .glaze q.da.toNat }
def execQglzNowait (_q : SeqW) (s : State) : Host.Outcome State Fault Refusal :=
  s.onSeq fun st => s.qglz st fun x => { x with sqpc := x.sqpc + 8 }

end Sys2Proof.Machine
end

