-- ==== Sys2Proof/Machine/Sched.lean ====
section
/-! DEFINITION. Placing strands (R60 to R63, R366), saving and restoring them (R71 to R73, R371, R372), and changes of priority (R70):
ALLOCATOR_PLACE, STRAND_SAVE, STRAND_RESTORE, PRIORITY_CHANGE_ARRIVAL. An event whose condition does not hold changes nothing. -/

namespace Sys2Proof.Machine

/-! Sets of wafers (R61). -/

/-- Wafer i of the snake order. -/
def snake (i : Nat) : Nat := i / 8 * 8 + (if i / 8 % 2 = 0 then i % 8 else 7 - i % 8)
/-- The side of a square set. -/
def sideOf (n : Nat) : Option Nat := (List.range 9).find? fun r => 1 ≤ r && r * r = n
/-- Every set of a shape, lowest lead wafer first. -/
def shapes (n : Nat) (square : Bool) : List (List Nat) :=
  let all := if square then
      match sideOf n with
      | none => []
      | some r => (List.range (9 - r)).flatMap fun y => (List.range (9 - r)).map fun x =>
          (List.range n).map fun i => (y + i / r) * 8 + (x + i % r)
    else (List.range (65 - n)).map fun f => (List.range n).map fun i => snake (f + i)
  insSort (fun a b => decide (a.headD 0 ≤ b.headD 0)) all

/-- What a set must offer: die, partition, wafers, shape, slots. -/
structure Want where
  die : Nat
  part : Nat
  wafers : Nat
  square : Bool
  slots : Nat

def State.slotTaken (s : State) (die w x : Nat) : Bool := s.strands.any (·.has ⟨die, w, x⟩)
def State.waferEmpty (s : State) (die w : Nat) : Bool := !(s.strands.any fun st => st.die = die && st.wafers.contains w)
/-- Sets in the partition's WMASK. -/
def State.sets (s : State) (u : Want) : List (List Nat) :=
  (shapes u.wafers u.square).filter fun c => c.all (s.inMask u.part u.die)
/-- Slot sets of a size. -/
def slotSets (n : Nat) : List (List Nat) :=
  ((List.range 16).map fun m => (List.range 4).filter m.testBit).filter fun x => x.length = n
/-- Slot sets that are free on every wafer of a set. -/
def State.freeSlots (s : State) (u : Want) (c : List Nat) : List (List Nat) :=
  (slotSets u.slots).filter fun x => c.all fun w => x.all fun i => !s.slotTaken u.die w i

/-- Role maps that a restored strand brings do not differ from the one of another active configuration of their wafer (R126). -/
def State.rolesFit (s : State) (roles : List (BitVec 129)) (die : Nat) (c : List Nat) (others : List Strand) : Bool :=
  (List.range c.length).all fun i =>
    let w := c.getD i 0
    !(others.any fun st => st.die = die && st.wafers.contains w && st.slots.any fun x => (s.block ⟨die, w, x⟩).isSome) ||
      (match roles[i]? with | some m => m = s.rolesOf die w | none => true)
def State.fits (s : State) (v : Option Saved) (die : Nat) (c : List Nat) : Bool :=
  match v with
  | none => true
  | some v => s.rolesFit (v.wafers.map (·.roles)) die c s.strands

/-- The qualifying set with the lowest lead wafer outside the wafers `bar`; which of its free slots are taken is free. -/
def State.place (s : State) (u : Want) (v : Option Saved) (bar : List Nat) : Option (List Nat × List Nat) :=
  ((s.sets u).find? fun c => !(s.freeSlots u c).isEmpty && !(c.any bar.contains) && s.fits v u.die c).map fun c =>
    let l := s.freeSlots u c
    (c, l.getD (s.pick l.length) [])

/-! Ready records (R60, R62, R366). -/

/-- A record of a die in the order the allocator considers them: by priority, then by age. -/
def State.waiting (s : State) (die : Nat) : List Ready :=
  insSort (fun a b => decide (b.prio.toNat ≤ a.prio.toNat)) ((s.sch.ready.filter fun r => r.1 = die).map (·.2))
def State.savedOf (s : State) (die task : Nat) : Option Saved := s.saved.find? fun v => v.strand.is die task
/-- A record that may be placed: its task has no live strand, and it is the task's oldest; or its strand is saved and waits for
no record to be closed. -/
def State.mayPlace (s : State) (die : Nat) (r : Ready) : Bool :=
  (s.strand die r.task).isNone &&
  (if r.restore then (match s.savedOf die r.task with | some v => !v.broken | none => false)
   else (s.savedOf die r.task).isNone &&
     ((s.sch.ready.find? fun x => x.1 = die && x.2.task = r.task && !x.2.restore).map (·.2)) = some r)

def State.wantOf (s : State) (die : Nat) (r : Ready) : Want :=
  match r.restore, s.savedOf die r.task with
  | true, some v => ⟨die, v.strand.part, v.strand.wafers.length, v.strand.square, v.strand.slots.length⟩
  | _, _ =>
    let e := s.taskEntry die r.task
    ⟨die, entPart e, entWafers e, entSquare e, entSlots e⟩

/-- CODE of cause 0x14, 0 for none; a restore is of a strand whose shape was checked at its launch. -/
def State.launchCode (s : State) (die : Nat) (r : Ready) : Nat :=
  let e := s.taskEntry die r.task
  let u := s.wantOf die r
  if !bit e 0 then 1
  else if u.square && (sideOf u.wafers).isNone then 2
  else if !bit (s.partEntry u.part) 0 then 3
  else if (s.sets u).isEmpty then 4
  else if bits (entSave e) 0 16 != 0 then 5
  else 0

/-! Plans (R62, R63). -/

/-- A strand that holds slots. -/
def Strand.spot (st : Strand) : List Nat × List Nat := (st.wafers, st.slots)
/-- Two positions share a slot of a wafer. -/
def overlaps (a b : List Nat × List Nat) : Bool := a.1.any b.1.contains && a.2.any b.2.contains

def State.prioOf (s : State) (st : Strand) : BitVec 4 := (s.ctxAt ((st.allCtxs).headD ⟨0, 0, 0⟩)).prio
/-- A strand that the allocator may move: it has a save area and is not in the middle of a load. -/
def State.movable (s : State) (st : Strand) : Bool :=
  entSave (s.taskEntry st.die st.task) != 0 &&
  (match st.mode with | .load .. => false | .loaded .. => false | .flipping .. => false | .ended => false | _ => true)
def State.mayMove (s : State) (prio : Nat) (st : Strand) : Bool := s.movable st && decide ((s.prioOf st).toNat ≤ prio)
def State.mayEvictStrand (s : State) (prio : Nat) (st : Strand) : Bool := s.movable st && decide ((s.prioOf st).toNat < prio)
def wantStrand (st : Strand) : Want := ⟨st.die, st.part, st.wafers.length, st.square, st.slots.length⟩

/-- Positions a strand may be moved to that overlap none of `taken`; `fixed` strands stay on the die. -/
def State.homes (s : State) (st : Strand) (fixed : List Strand) (taken : List (List Nat × List Nat)) : List (List Nat × List Nat) :=
  let u := wantStrand st
  ((s.sets u).filter fun c => s.rolesFit (st.wafers.map (s.rolesOf st.die)) st.die c fixed).flatMap fun c =>
    ((slotSets u.slots).map fun x => (c, x)).filter fun p => !taken.any (overlaps p)

/-- Where each of the strands goes so that none overlaps another or `taken`: it stays, or it moves, or, when `evict` allows it and its
priority is lower than the record's, it leaves. Answers the moves and the evicted strands. -/
def State.arrange (s : State) (prio : Nat) (evict : Bool) (fixed : List Strand) :
    List Strand → List (List Nat × List Nat) → Option (List (Nat × List Nat × List Nat) × List Nat)
  | [], _ => some ([], [])
  | st :: rest, taken =>
    match (if taken.any (overlaps st.spot) then none else s.arrange prio evict fixed rest (st.spot :: taken)) with
    | some a => some a
    | none =>
      match (s.homes st fixed taken).findSome? fun p =>
        (s.arrange prio evict fixed rest (p :: taken)).map fun a => ((st.task, p) :: a.1, a.2) with
      | some a => some a
      | none =>
        if evict && s.mayEvictStrand prio st then (s.arrange prio evict fixed rest taken).map fun a => (a.1, st.task :: a.2) else none

/-- Plans that free a set for a record, by compaction only or by evictions too. -/
def State.plansBy (s : State) (die : Nat) (r : Ready) (evict : Bool) : List Plan :=
  let u := s.wantOf die r
  let v := if r.restore then s.savedOf die r.task else none
  let here := s.strands.filter fun st => st.die = die
  let fixed := here.filter fun st => !s.mayMove r.prio.toNat st
  let loose := here.filter fun st => s.mayMove r.prio.toNat st
  ((s.sets u).flatMap fun c => (slotSets u.slots).map fun x => (c, x)).filterMap fun p =>
    if fixed.any (fun st => overlaps p st.spot) || !s.rolesFit ((v.map fun v => v.wafers.map (·.roles)).getD []) die p.1 fixed then none else
    (s.arrange r.prio.toNat evict fixed loose (p :: fixed.map Strand.spot)).map fun a =>
      { task := r.task, prio := r.prio.toNat, wafers := p.1, slots := p.2
        cleared := (loose.filter fun st => a.1.any (fun m => m.1 = st.task) || a.2.contains st.task).flatMap (·.wafers)
        moves := a.1, evicts := a.2, waits := true }
/-- A compaction where one suffices (R63). -/
def State.plansFor (s : State) (die : Nat) (r : Ready) : List Plan :=
  match s.plansBy die r false with
  | [] => s.plansBy die r true
  | l => l

/-- Records for which no set of their shape qualifies, in the allocator's order. -/
def State.blocked (s : State) (die : Nat) : List Ready :=
  ((s.waiting die).filter (s.mayPlace die)).filter fun r => s.launchCode die r = 0 &&
    (s.place (s.wantOf die r) (if r.restore then s.savedOf die r.task else none) []).isNone

/-- The die's plan still does what it was made for: its record waits, and what it has yet to move or evict may be, and would do. -/
def State.planStands (s : State) (die : Nat) (p : Plan) : Bool :=
  !p.waits ||
  ((s.blocked die).any fun r => r.task = p.task && r.prio.toNat = p.prio) &&
  (s.strands.filter fun st => st.die = die).all fun st =>
    if p.moves.any (fun m => m.1 = st.task) then st.saving || s.mayMove p.prio st
    else if p.evicts.contains st.task then st.saving || s.mayEvictStrand p.prio st
    else !overlaps (p.wafers, p.slots) st.spot && !p.moves.any fun m => overlaps m.2 st.spot
/-- Keep the plan that stands, unless a blocked record that the allocator considers before its own has one; or make one for the first
record that has one (which one is free). -/
def State.plan (s : State) (die : Nat) : State :=
  let old := (Tab.find die s.sch.plans).filter (s.planStands die)
  let before := (s.blocked die).takeWhile fun r => !old.any fun p => p.waits && r.task = p.task
  match before.findSome? fun r => match s.plansFor die r with | [] => none | l => some l with
  | none => if old.isSome then s else { s with sch := { s.sch with plans := Tab.del die s.sch.plans } }
  | some l =>
    match l[s.pick l.length]? with
    | some p => { s.spent with sch := { s.sch with plans := Tab.ins die p s.sch.plans } }
    | none => s
/-- The plan moves or evicts the strand. -/
def State.planned (s : State) (st : Strand) : Bool :=
  (Tab.find st.die s.sch.plans).any fun p => p.waits && (p.evicts.contains st.task || p.moves.any fun m => m.1 = st.task)

/-- Where the plan puts a record: the strand it moves, or the record it is for. -/
def Plan.goal (p : Plan) (r : Ready) : Option (List Nat × List Nat) :=
  if r.restore then (p.moves.find? fun m => m.1 = r.task).map (·.2) else none
/-- Wafers the plan keeps from a record: those it touches, from one of lower priority or a strand that it moves (R62). -/
def State.barred (s : State) (die : Nat) (r : Ready) : List Nat :=
  match Tab.find die s.sch.plans with
  | some p =>
    if r.task = p.task && p.waits then []
    else if r.prio.toNat < p.prio || (p.goal r).isSome then p.wafers ++ p.cleared ++ p.moves.flatMap (·.2.1)
    else []
  | none => []

/-- What the allocator does next on a die. -/
inductive Placing where
  | discard (r : Ready) (code : Nat)
  | onto (r : Ready) (wafers slots : List Nat)

/-- A position whose slots are free and which the strand's role maps fit. -/
def State.vacant (s : State) (v : Option Saved) (die : Nat) (p : List Nat × List Nat) : Bool :=
  p.1.all (fun w => p.2.all fun x => !s.slotTaken die w x) && s.fits v die p.1

def State.nextPlace (s : State) (die : Nat) : Option Placing :=
  if s.pod.fenced || !bit s.host.ready die then none else
  ((s.waiting die).filter (s.mayPlace die)).findSome? fun r =>
    let code := s.launchCode die r
    if code != 0 then some (.discard r code)
    else
      let v := if r.restore then s.savedOf die r.task else none
      let goal := ((Tab.find die s.sch.plans).bind fun p => p.goal r).filter (s.vacant v die)
      (goal.or (s.place (s.wantOf die r) v (s.barred die r))).map fun p => .onto r p.1 p.2

/-- A record leaves. The plan made for it saves no more strands, and ends when those it moved are back. -/
def State.takeRecord (s : State) (die : Nat) (r : Ready) : State :=
  let gone := fun (t : Nat) => (s.strand die t).any fun st => !st.saving
  let next := fun (p : Plan) =>
    let waits := p.waits && !(r.task = p.task)
    { p with waits := waits, moves := p.moves.filter fun m => !(r.restore && m.1 = r.task) && (waits || !gone m.1) }
  let plans := match (Tab.find die s.sch.plans).map next with
    | some p => if !p.waits && p.moves.isEmpty then Tab.del die s.sch.plans else Tab.ins die p s.sch.plans
    | none => s.sch.plans
  ({ s with sch := { s.sch with ready := dropFirst (fun x => x.1 = die && x.2 = r) s.sch.ready, plans := plans } }).recordFreed

/-- R67: the constants of a wafer that held no strand are cleared. -/
def State.clearConsts (s : State) (die : Nat) (ws : List Nat) : State :=
  { s with pl := { s.pl with consts := s.pl.consts.filter fun e =>
      !(ws.any fun w => e.1 / 64 = waferKey die w && s.waferEmpty die w) } }
def State.setPrios (s : State) (cs : List (Ctx × BitVec 4)) : State :=
  cs.foldl (fun (s : State) c => s.setCtx c.1 { s.ctxAt c.1 with prio := c.2 }) s

/-- A new strand (R50). -/
def State.newStrand (s : State) (die : Nat) (r : Ready) (ws slots : List Nat) : Strand :=
  let e := s.taskEntry die r.task
  { die := die, task := r.task, part := entPart e, wafers := ws, slots := slots, square := entSquare e, sqpc := entSqpc e,
    q := [], i := [], sd := [], k := (List.range 7).foldl (fun t i => Tab.put 0 i (r.ops.getD i 0) t) [], exitMap := [],
    mode := .run, l0 := none, l0done := [], levels := List.replicate 8 Level.fresh, insts := [], reqs := [], exits := [],
    done := none, frozen := false, saving := false, steals := [], claims := [], step := (s.domain (entPart e)).step,
    fault := r.fault, stamp := s.mem.clock + 1, glz := [] }

def State.placeNew (s : State) (die : Nat) (r : Ready) (ws slots : List Nat) : State :=
  let st := s.newStrand die r ws slots
  let s := (s.spent.clearConsts die ws).setPrios (st.allCtxs.map fun c => (c, r.prio))
  let s := { s with strands := s.strands ++ [st], mem := { s.mem with clock := s.mem.clock + 1 } }
  (s.takeRecord die r).renew die r.task

/-- A plan for a record that no set fits comes before any record of lower priority is placed (R62). A restore is made by STRAND_RESTORE; a restore record that can never be placed goes, and its strand stays saved (log entry 167). -/
def execAllocatorPlace (die : Nat) (s : State) : Host.Outcome State Fault Refusal :=
  let s := s.plan die
  match s.nextPlace die with
  | none => .next s
  | some (.discard r code) =>
    .next ((s.takeRecord die r).report { kind := 2, cause := 0x14, code := code, die := die, task := r.task }
      (entPart (s.taskEntry die r.task)) (.launch die r.task))
  | some (.onto r ws slots) => if r.restore then .next s else .next (s.placeNew die r ws slots)

/-! Moving a strand's names: contexts, wafers, banks. -/

/-- From one set to another; a parked set has a die of its own. -/
structure Move where
  oldDie : Nat
  oldW : List Nat
  oldS : List Nat
  newDie : Nat
  newW : List Nat
  newS : List Nat

def Move.has (m : Move) (die w : Nat) : Bool := die = m.oldDie && m.oldW.contains w
def Move.waferOf (m : Move) (w : Nat) : Nat := m.newW.getD (m.oldW.findIdx (· == w)) 0
def Move.slotOf (m : Move) (x : Nat) : Nat := m.newS.getD (m.oldS.findIdx (· == x)) 0
def Move.ctx (m : Move) (c : Ctx) : Ctx :=
  if m.has c.die c.wafer && m.oldS.contains c.slot then ⟨m.newDie, m.waferOf c.wafer, m.slotOf c.slot⟩ else c
def Move.node (m : Move) (n : Node) : Node := { n with ctx := m.ctx n.ctx }
def Move.tok (m : Move) (t : LTok) : LTok := { t with node := m.node t.node }
/-- A byte's key of a bank. -/
def Move.bank (m : Move) (k : Nat) : Nat :=
  let w := k / (64 * Config.bankBytes)
  if m.has (w / 64) (w % 64) then
    waferKey m.newDie (m.waferOf (w % 64)) * (64 * Config.bankBytes) + k % (64 * Config.bankBytes)
  else k
def Move.acc (m : Move) (a : Acc) : Acc := if a.bank then { a with addr := m.bank a.addr } else a
def Move.eff (m : Move) : Eff → Eff
  | .store a bs poi whole => .store (m.acc a) (if a.bank then bs.map fun b => (m.bank b.1, b.2) else bs) poi whole
  | .enq a d poi => .enq (m.acc a) d poi
  | .leave toks => .leave (toks.map m.tok)
  | .offer d w t v => if m.has d w then .offer m.newDie (m.waferOf w) t v else .offer d w t v
  | .fnc c t l => .fnc c t (l.map fun x => (m.ctx x.1, x.2))
  | e => e
def Move.inst (m : Move) (x : Inst) : Inst :=
  { x with ctx := m.ctx x.ctx, held := x.held.map fun h => { h with eff := m.eff h.eff }, entered := x.entered.map m.tok,
           beats := x.beats.map fun b => (m.tok b.1, b.2) }
def Move.strand (m : Move) (st : Strand) : Strand :=
  { st with
    wafers := m.newW
    slots := m.newS
    l0done := st.l0done.map m.waferOf
    levels := st.levels.map fun l => { l with tagf := l.tagf.map fun x => { x with node := m.node x.node }, tags := l.tags.map fun t => { t with home := m.ctx t.home } }
    insts := st.insts.map m.inst
    reqs := st.reqs.map fun r => { r with node := m.node r.node }
    claims := st.claims.map m.node
    glz := st.glz.map fun g => { g with who := g.who.map fun x => (m.node x.1, x.2), before := g.before.map fun x => (m.ctx x.1, x.2) } }
def Move.subject (m : Move) : Subject → Subject
  | .exact d t n k => .exact d t (m.node n) k
  | x => x

def Move.offer (m : Move) (o : Offer) : Offer :=
  let o := { o with who := o.who.map fun x => (m.node x.1, x.2) }
  if m.has o.die o.wafer then { o with die := m.newDie, wafer := m.waferOf o.wafer } else o

/-- A released effect that stays (R71). -/
def Move.pend (m : Move) (p : Pend) : Pend :=
  if m.has p.node.ctx.die p.node.ctx.wafer && m.oldS.contains p.node.ctx.slot then
    { p with node := m.node p.node, wafers := m.newW, loc := { p.loc with node := m.node p.loc.node }, eff := m.eff p.eff }
  else p

/-- Names in the tables that are not part of an image. -/
def State.moveShared (s : State) (m : Move) : State :=
  { s with
    pages := { s.pages with pinned := s.pages.pinned.map (fun p => (p.1, m.node p.2.1, p.2.2)),
                            taken := s.pages.taken.map fun t => (t.1, m.node t.2.1, t.2.2) },
    mat := { s.mat with offers := s.mat.offers.map m.offer },
    mem := { s.mem with pend := s.mem.pend.map m.pend },
    pod := { s.pod with domains := s.pod.domains.map fun d =>
      (d.1, { d.2 with contrib := d.2.contrib.map fun c => (c.1, c.2.1, c.2.2.map fun x => (m.node x.1, x.2)) }) },
    flt := { s.flt with opened := s.flt.opened.map (fun o => { o with subject := m.subject o.subject }),
                        rings := s.flt.rings.map fun r => r.map m.node } }

/-! Wafer images. -/

def slice {α : Type} (n base : Nat) (t : Tab α) : Tab α := (t.filter fun e => e.1 / n = base).map fun e => (e.1 % n, e.2)
/-- The entries of a base replaced; the keys stay in order. -/
def splice {α : Type} (n base : Nat) (new t : Tab α) : Tab α :=
  (t.filter fun e => e.1 / n < base) ++ (new.map fun e => (base * n + e.1, e.2)) ++ t.filter fun e => base < e.1 / n

def State.waferImage (s : State) (st : Strand) (w : Nat) : WaferImage :=
  let b := waferKey st.die w
  let t := Tab.get {} b s.tiles
  { roles := s.rolesOf st.die w, bank := slice (64 * Config.bankBytes) b s.mem.bank, consts := slice 64 b s.pl.consts,
    vcs := slice 2048 b s.pl.vcs, thr := slice 8 b s.pl.thr, filt := slice 256 b s.pl.filt, stores := slice 64 b s.mat.stores,
    tile := { t with tags := t.tags.filter (fun g => st.slots.contains g.slot), decls := t.decls.filter fun d => st.slots.contains d.1 },
    streams := (slice 16 b s.eng.streams).filter fun e => e.2.task = st.task }
def Move.feed (m : Move) (x : Store) : Store := { x with feed := x.feed.map fun f => (m.node f.1, f.2) }
def Move.tile (m : Move) (t : Tile) : Tile :=
  { t with tags := t.tags.map (fun g => { g with slot := m.slotOf g.slot }), decls := t.decls.map fun d => (m.slotOf d.1, d.2) }
def Move.stream (m : Move) (x : Stream) : Stream :=
  { x with slot := if x.slot = 4 then 4 else m.slotOf x.slot, pending := x.pending.map fun p => (p.1, p.2.1, if p.2.2.1 = 4 then 4 else m.slotOf p.2.2.1, p.2.2.2) }
def Move.image (m : Move) (x : WaferImage) : WaferImage :=
  { x with stores := x.stores.map fun e => (e.1, m.feed e.2), tile := m.tile x.tile, streams := x.streams.map fun e => (e.1, m.stream e.2) }

/-- Entries put over those of a table. -/
def layOver {α : Type} (new t : Tab α) : Tab α := new.foldl (fun t e => Tab.ins e.1 e.2 t) t
/-- What a wafer is to hold: the image; on a wafer that holds another strand, the image over what stands there, which stays where the image
holds zero (log entry 62). -/
def merge {α : Type} (shared : Bool) (n b : Nat) (new t : Tab α) : Tab α :=
  if shared then layOver (new.map fun e => (b * n + e.1, e.2)) t else splice n b new t
def Tile.merge (shared : Bool) (new t : Tile) : Tile :=
  if shared then
    { plane := layOver new.plane t.plane, shadow := layOver new.shadow t.shadow, accf := t.accf || new.accf,
      tags := t.tags ++ new.tags, decls := t.decls ++ new.decls }
  else new

/-- An image written into a wafer. -/
def State.putImage (s : State) (die w : Nat) (x : WaferImage) : State :=
  let b := waferKey die w
  let own := fun (e : Nat × Stream) => let y := Tab.get {} (b * 16 + e.1) s.eng.streams; !(y.armed || y.pending.isSome)
  let sh := !s.waferEmpty die w
  { s with
    pl := { s.pl with roles := Tab.put 0 b x.roles s.pl.roles, consts := merge sh 64 b x.consts s.pl.consts,
                      vcs := merge sh 2048 b x.vcs s.pl.vcs, thr := merge sh 8 b x.thr s.pl.thr, filt := merge sh 256 b x.filt s.pl.filt },
    mem := { s.mem with bank := merge sh (64 * Config.bankBytes) b x.bank s.mem.bank },
    mat := { s.mat with stores := merge sh 64 b x.stores s.mat.stores },
    tiles := Tab.put {} b (Tile.merge sh x.tile (Tab.get {} b s.tiles)) s.tiles,
    eng := { s.eng with streams := (x.streams.filter own).foldl (fun t e => Tab.put {} (b * 16 + e.1) e.2 t) s.eng.streams } }

/-! STRAND_SAVE (R62, R63, R71, R72, R371). -/

def State.engineBusy (s : State) (st : Strand) : Bool :=
  (s.eng.queues.any fun q => q.2.any fun e => match e with | .op _ _ _ _ _ l _ _ _ _ => st.has l.node.ctx | _ => false) ||
  (s.eng.rows.any fun r => st.has r.node.ctx) || (s.eng.colls.any fun c => c.own.isSome && st.has c.node.ctx)
/-- Nothing of the strand is on its way (R71), and no record of it waits to be written. -/
def State.quiet (s : State) (st : Strand) : Bool :=
  let own := fun (t : LTok) => st.has t.node.ctx
  !(s.fab.net.any fun x => own x.tok) && !(s.mem.resp.any fun r => st.has r.node.ctx) && !(s.mem.pend.any fun p => p.die = st.die && p.task = st.task && !s.stays st p) &&
  s.drained st && !(s.pod.remotes.any fun r => st.has r.node.ctx) && !(s.strands.any fun x => x.steals.any own) &&
  !s.engineBusy st && (st.glz.all fun g => st.heldBy g.before g.seq Eff.isShared) && !(s.sch.prioq.any fun p => p.ctxs.any st.has) &&
  !(s.mat.merging.any fun x => st.has x.node.ctx) &&
  !(s.flt.reqs.any fun r => r.subject.owner = some (st.die, st.task)) &&
  !(s.eng.streams.any fun e => e.1 / 1024 = st.die && st.wafers.contains (e.1 / 16 % 64) && e.2.task = st.task &&
    (!e.2.returns.isEmpty || e.2.stuck.isSome))

/-- 64 KiB pages of the save area (R72). -/
def savePages (st : Strand) (save : Word) : List Word :=
  (List.range (72 * st.wafers.length)).map fun i => save + BitVec.ofNat 64 (65536 * i)
/-- A page of the area goes on where the last run ends, or begins a run of its own. -/
def addRun (a : Acc) : List (Acc × Nat) → List (Acc × Nat)
  | (b, n) :: t => if b.base = a.base && b.addr + n = a.addr then (b, n + 65536) :: t else (a, 65536) :: (b, n) :: t
  | [] => [(a, 65536)]
/-- The area as runs of physical bytes, or its first page that cannot be reached and the cause. -/
def State.saveRuns (s : State) (st : Strand) (w : Nat) (write : Bool) : List (Acc × Nat) → List Word → Except (Word × BitVec 8) (List (Acc × Nat))
  | l, [] => .ok l.reverse
  | l, p :: ps =>
    match (s.translate st.die w st.part st.stamp p write).1 with
    | .error x => .error (p, x.cause)
    | .ok a => s.saveRuns st w write (addRun a l) ps
def State.saveArea (s : State) (st : Strand) : List Word := savePages st (entSave (s.taskEntry st.die st.task))
/-- The area's memory, or that of the tables which place it, is not usable yet (R350). -/
def State.saveWaits (s : State) (st : Strand) (w : Nat) : Bool :=
  (s.saveArea st).any (s.walkWaits st.die w st) ||
  (match s.saveRuns st w false [] (s.saveArea st) with | .ok l => l.any fun r => !s.memReady r.1 | .error _ => false)

/-- Bytes of an image from offset `o` on (log entry 62): its layout is the device's own, so they are free values. -/
def imageBytes (seed o n : Nat) : List Byte := (List.range n).map fun i => BitVec.ofNat 8 (Config.free (seed + o + i))
/-- The image written into its area; an access whose bytes are not all written stops it. -/
def State.writeRuns (s : State) (st : Strand) (seed : Nat) : Nat → List (Acc × Nat) → Except (Word × BitVec 8) State
  | _, [] => .ok s
  | o, (a, n) :: t =>
    let bs := at_ a (imageBytes seed o n)
    if s.writeDrops a bs then .error (a.va, if a.hmod != s.module then 0x31 else if a.cv then 0x36 else 0x34)
    else (s.writeHome st.die st.lead a bs false).writeRuns st seed (o + n) t

/-- What reading an image answers (R372): it is there, a read of it fails, or its bytes are not those of the save. -/
inductive ImageRead where
  | good | unreadable | altered
deriving DecidableEq, Repr
def State.readRuns (s : State) (seed : Nat) : Nat → List (Acc × Nat) → ImageRead × State
  | _, [] => (.good, s)
  | o, (a, n) :: t =>
    if (s.accFault a n).isSome then (.unreadable, s.findErrors (s.secsOf a n)) else
    match s.readRun a n with
    | (none, s) => (.unreadable, s)
    | (some b, s) => if b != imageBytes seed o n then (.altered, s) else s.readRuns seed (o + n) t
def State.readImageArea (s : State) (st : Strand) (w seed : Nat) : ImageRead × State :=
  match s.saveRuns st w false [] (s.saveArea st) with
  | .error _ => (.unreadable, s)
  | .ok l => s.readRuns seed 0 l

def Strand.park (st : Strand) : Move :=
  ⟨st.die, st.wafers, st.slots, parkDie st.die st.task, List.range st.wafers.length, List.range st.slots.length⟩

/-- The image of a strand, under its parked names. -/
def State.imageOf (s : State) (st : Strand) (seed : Nat) : Saved :=
  let m := st.park
  let own := fun (c : Ctx) => st.has c
  { strand := { m.strand st with saving := false }
    latch := (s.fab.latch.filter fun x => own x.node.ctx).map fun x => { x with node := m.node x.node }
    part := (s.fab.part.filter fun t => own t.node.ctx).map m.tok
    ostore := (s.fab.ostore.filter fun t => own t.node.ctx).map m.tok
    hlatch := (s.fab.hlatch.filter fun x => own x.node.ctx).map fun x => { x with node := m.node x.node }
    kept := (s.fab.kept.filter fun x => own x.node.ctx).map fun x => { x with node := m.node x.node }
    mrgo := (s.fab.mrgo.filter fun x => own x.node.ctx).map fun x => { x with node := m.node x.node, win := x.win.map m.tok }
    yielded := (s.fab.yielded.filter fun x => own x.node.ctx).map fun x => { x with node := m.node x.node }
    rmwq := (s.mem.rmwq.filter fun x => own x.node.ctx).map fun x => { x with node := m.node x.node }
    blocks := st.allCtxs.map fun c => (m.waferOf c.wafer, m.slotOf c.slot, s.ctxAt c)
    wafers := st.wafers.map fun w => m.image (s.waferImage st w)
    regs := (s.flt.regs.filter fun r => own r.node.ctx).map fun r => { r with node := m.node r.node }
    reserved := (s.mat.reserved.filter fun r => own r.2.1.ctx).map fun r => (m.waferOf (r.1 / 64 % 64), r.1 % 64, m.node r.2.1, r.2.2)
    later := [], seed := seed, broken := false }

/-- A save that cannot be written is abandoned, and the plan with it (R371). -/
def State.failSave (s : State) (st : Strand) (va : Word) (cause : BitVec 8) : State :=
  let s := s.setStrand { st with saving := false }
  let s := { s with sch := { s.sch with plans := Tab.del st.die s.sch.plans } }
  s.report { kind := 1, cause := 0x15, code := 1, addr := va, die := st.die, task := st.task, sqpc := st.sqpc, step := st.step.toNat,
             detail := cause.toNat } st.part .only

/-- The save ends: the image is written, and the strand leaves its wafers, with a restore record at its own priority (R63, R71). -/
def State.finishSave (s : State) (st : Strand) : State :=
  match s.saveRuns st st.lead true [] (s.saveArea st) with
  | .error (va, c) => s.failSave st va c
  | .ok runs =>
    let seed := s.ctr
    match ({ s with ctr := s.ctr + 72 * 65536 * st.wafers.length } : State).writeRuns st seed 0 runs with
    | .error (va, c) => s.failSave st va c
    | .ok t =>
      let v := t.imageOf st seed
      let r : Ready := ⟨st.task, s.prioOf st, [], true, st.fault⟩
      let t := (t.moveShared st.park).removeStrand st (ends := false)
      ({ t with saved := t.saved ++ [v] } : State).queueReady st.die r

/-- Begin a save that a plan needs; end it once nothing of the strand is on its way. -/
def execStrandSave (die task : Nat) (s : State) : Host.Outcome State Fault Refusal :=
  match s.strand die task with
  | none => .next s
  | some st =>
    if st.saving then (if s.quiet st && !s.saveWaits st st.lead then .next (s.finishSave st) else .next s)
    else if !s.movable st then .next s
    else
      let s := s.plan die
      if s.planned st then .next (s.setStrand { st with saving := true }) else .next s

/-! STRAND_RESTORE (R73, R372). -/

/-- What reading the active configurations again answers: the block of each context; that one cannot be loaded; that its memory is not
usable yet. -/
inductive Reloaded where
  | blocks (l : List (Ctx × Option Block))
  | fails
  | waits

/-- The active configurations read again, slot by slot. -/
def State.reload (s : State) (st : Strand) (v : Saved) (acc : List (Ctx × Option Block)) : List Nat → Reloaded × State
  | [] => (.blocks acc, s)
  | j :: js =>
    match (v.blocks.find? fun b => b.2.1 = j && b.2.2.active.isSome).bind fun b => b.2.2.active with
    | none => s.reload st v (acc ++ (st.ctxs j).map fun c => (c, none)) js
    | some x =>
      match s.readImage st x.cfg with
      | (.waits, s) => (.waits, s)
      | (.fails .., s) => (.fails, s)
      | (.blocks bs, s) =>
        if !(s.imageFaults st false 0 bs).isEmpty then (.fails, s)
        else s.reload st v (acc ++ ((st.ctxs j).zip bs).map fun x => (x.1, some x.2)) js

/-- The strand under its new names. A load that had failed is made again (R365). -/
def Saved.strandAt (v : Saved) (m : Move) (stamp : Nat) : Strand :=
  { m.strand v.strand with stamp := stamp, mode := match v.strand.mode with | .failed j cfg => .load j cfg | x => x }

/-- Everything of the image is back under its new names. -/
def State.putBack (s : State) (v : Saved) (m : Move) : State :=
  let mn := m.node
  { s with
    fab := { s.fab with
      latch := s.fab.latch ++ v.latch.map (fun x => { x with node := mn x.node }),
      part := s.fab.part ++ v.part.map m.tok, ostore := s.fab.ostore ++ v.ostore.map m.tok,
      hlatch := s.fab.hlatch ++ v.hlatch.map (fun x => { x with node := mn x.node }),
      kept := s.fab.kept ++ v.kept.map (fun x => { x with node := mn x.node }),
      mrgo := s.fab.mrgo ++ v.mrgo.map (fun x => { x with node := mn x.node, win := x.win.map m.tok }),
      yielded := s.fab.yielded ++ v.yielded.map fun x => { x with node := mn x.node } },
    mem := { s.mem with rmwq := s.mem.rmwq ++ v.rmwq.map fun x => { x with node := mn x.node } },
    mat := { s.mat with reserved := s.mat.reserved ++ v.reserved.map fun r =>
      (storeKey m.newDie (m.waferOf r.1) r.2.1, mn r.2.2.1, r.2.2.2) },
    flt := { s.flt with regs := s.flt.regs ++ v.regs.map fun r => { r with node := mn r.node } } }

/-- The summary reaches the sequencer of a QGLZ that waits (R334). -/
def State.glazeWord (s : State) (die task : Nat) (sum : Beat) : State :=
  match s.strand die task with
  | none => s
  | some st =>
    match st.mode with
    | .glaze r => (s.writeReg st r (sum.extractLsb' 64 64)).onStrand die task fun x => { x with mode := .run, sqpc := x.sqpc + 8 }
    | _ => s
/-- The summary token leaves a GLAZE as a late token (R174, R301). -/
def State.glazeToken (s : State) (n : Node) (k : Key) (t : Tok) (sum : Beat) : State :=
  s.respond n k [outBoth { t with data := sum, nlane := 3 }] true

/-- What came while the strand was saved. -/
def State.applyLater (s : State) (die task : Nat) (m : Move) : List Later → State
  | [] => s
  | .act x a d :: l => (s.act ⟨die, 0, none, m.subject x⟩ a d).applyLater die task m l
  | .glaze who d :: l =>
    (match who with
     | none => s.glazeWord die task d
     | some (n, k, t) => s.glazeToken (m.node n) k t d).applyLater die task m l

/-- The restore fails: the record goes to the head of its FIFO and waits for an open record to be closed (R372). -/
def State.failRestore (s : State) (v : Saved) (r : Ready) (code : Nat) : State :=
  let st := v.strand
  let s := { s with
    saved := s.saved.map fun (x : Saved) => if x.strand.is st.die st.task then { x with broken := true } else x
    sch := { s.sch with ready := (st.die, r) :: dropFirst (fun x => x.1 = st.die && x.2 = r) s.sch.ready } }
  s.report { kind := 1, cause := 0x15, code := code, die := st.die, task := st.task, sqpc := st.sqpc, step := st.step.toNat }
    st.part (.restore st.die st.task)

/-- Each configuration that a restore loads again enters the running digest (R349). -/
def State.measureSlots (s : State) (st : Strand) (blocks : List (Ctx × Option Block)) : State :=
  st.slots.foldl (fun (s : State) x =>
    match (blocks.filter fun b => b.1.slot = x).filterMap (·.2) with
    | [] => s
    | bs => s.measure st bs) s

/-- The image is back on new wafers. -/
def State.restoreImage (s : State) (v : Saved) (r : Ready) (m : Move) (new : Strand) (blocks : List (Ctx × Option Block)) : State :=
  let st := v.strand
  let s := s.clearConsts st.die m.newW
  let s := ((List.range m.newW.length).zip v.wafers).foldl (fun (s : State) x => s.putImage st.die (m.newW.getD x.1 0) (m.image x.2)) s
  let s := blocks.foldl (fun (s : State) b => s.setCtx b.1 { s.ctxAt b.1 with active := b.2 }) (s.measureSlots new blocks)
  let s := s.setPrios (v.blocks.map fun b => (⟨st.die, m.waferOf b.1, m.slotOf b.2.1⟩, b.2.2.prio))
  let s := { s with strands := s.strands ++ [new], mem := { s.mem with clock := s.mem.clock + 1 },
                    saved := s.saved.filter fun x => !x.strand.is st.die st.task }
  (((s.moveShared m).putBack v m).takeRecord st.die r).applyLater st.die st.task m v.later

/-- A restore onto a set: first the image is checked, and the configurations are loaded (R73, R372). -/
def State.restoreOnto (s : State) (v : Saved) (r : Ready) (ws slots : List Nat) : State :=
  let st := v.strand
  let m : Move := ⟨parkDie st.die st.task, st.wafers, st.slots, st.die, ws, slots⟩
  let new := v.strandAt m (s.mem.clock + 1)
  if s.saveWaits new (ws.headD 0) then s else
  match s.spent.readImageArea new (ws.headD 0) v.seed with
  | (.unreadable, s) => s.failRestore v r 2
  | (.altered, s) => s.failRestore v r 3
  | (.good, t) =>
    match t.reload new v [] (List.range slots.length) with
    | (.waits, _) => s
    | (.fails, s) => s.failRestore v r 2
    | (.blocks blocks, s) => s.restoreImage v r m new blocks

def execStrandRestore (die task : Nat) (s : State) : Host.Outcome State Fault Refusal :=
  let s := s.plan die
  match s.nextPlace die, s.savedOf die task with
  | some (.onto r ws slots), some v =>
    if r.restore && r.task = task then .next (s.restoreOnto v r ws slots) else .next s
  | _, _ => .next s

/-! PRIORITY_CHANGE_ARRIVAL (R70). -/

/-- Cells the write at index n may reach next: one write does not pass an earlier one of its die on its way to a cell. -/
def State.mayReach (s : State) (n : Nat) (w : PrioWrite) : List Nat :=
  w.left.filter fun x => !((s.sch.prioq.take n).any fun q => q.left.contains x)

/-- A written priority reaches one more of its cells, which one is free; from the last one on, the contexts have it (log entry 146). -/
def execPriorityChangeArrival (n : Nat) (s : State) : Host.Outcome State Fault Refusal :=
  match s.sch.prioq[n]? with
  | none => .next s
  | some w =>
    match s.mayReach n w with
    | [] => .next s
    | x :: l =>
      let left := w.left.filter (· != (x :: l).getD (s.pick (l.length + 1)) x)
      let s := s.spent
      if left.isEmpty then
        .next (({ s with sch := { s.sch with prioq := drop1 n s.sch.prioq } } : State).setPrios (w.ctxs.map fun c => (c, w.prio)))
      else .next { s with sch := { s.sch with prioq := upd (fun w => { w with left := left }) n s.sch.prioq } }

end Sys2Proof.Machine
end

