-- ==== Sys2Proof/Machine/Streams.lean ====
section
/-! DEFINITION. The stream engines (R149, R234): STREAM_BEAT_REQUEST, STREAM_BEAT_RETURN,
STREAM_PENDING_START. An event whose condition does not hold changes nothing. -/

namespace Sys2Proof.Machine

/-! Stream walks. -/

/-- Node and slot that a walk feeds. -/
def walkNode (die wafer : Nat) (x : Stream) : Node := ⟨⟨die, wafer, x.slot⟩, bits x.desc 213 7⟩

/-- The engine may request its next beat, within its window (R149). -/
def Stream.mayRequest (x : Stream) : Bool :=
  x.armed && !x.fin && !x.stop && x.stuck.isNone && !x.writes && decide (x.next < descBeats x.desc) &&
  decide (x.next - x.consumed ≤ bits x.desc 225 8)
/-- It holds a beat to be written. -/
def Stream.mayWrite (x : Stream) : Bool := x.armed && !x.fin && x.stuck.isNone && x.writes && !x.returns.isEmpty

/-- Beat i fails translation or protection: the walk stops, and a record is asked for (R149). -/
def State.beatFails (s : State) (st : Strand) (die wafer e i : Nat) (x : Stream) (f : Exn) : State :=
  let c := coords x.desc i
  s.setStream die wafer e { x with stuck := some i, next := if x.writes then x.next else i + 1 } |>.report
    { s.locOf st (walkNode die wafer x) (x.key.getD Key.zero) with
      cause := f.cause, code := f.code.toNat, addr := beatAddr x.desc i, detail := pack [(0, 16, c.1), (16, 16, c.2.1), (32, 16, c.2.2)] }
    st.part (.stream die wafer e)

/-- A walk of the strand reads its next beat. -/
def State.requestBeat (s : State) (st : Strand) (die wafer e : Nat) (x : Stream) : State :=
  match s.engineRead (st.asker wafer) (st.step != (s.domain st.part).step) (bits x.desc 233 3) (beatAddr x.desc x.next) 48 with
  | .waits => s
  | .ok (b, _) s =>
    let t := beatTok x.desc x.next
    let t := { t with data := beatOf b.bytes, fl := { t.fl with poi := b.poi } }
    s.setStream die wafer e { x with next := x.next + 1, returns := x.returns ++ [(x.next, t, true)] }
  | .fails f s => s.beatFails st die wafer e x.next x f

/-- A beat has left the engine: the walk is over with its final beat, or with the last one requested before EOSD (R234), and DONE shows it
either way (log entry 173). -/
def Stream.sentOne (x : Stream) (i : Nat) (rest : List (Nat × Tok × Bool)) : Stream :=
  let ended := x.stop && rest.isEmpty
  { x with returns := rest, sent := x.sent + 1, fin := decide (i + 1 = descBeats x.desc) || ended, armed := x.armed && !ended }

/-- A walk of the strand writes the oldest beat that has arrived: the bytes of its valid lanes, and nothing for NIL (log entry 46). -/
def State.writeBeat (s : State) (st : Strand) (die wafer e : Nat) (x : Stream) : State :=
  match x.returns with
  | [] => s
  | (i, t, _) :: rest =>
    let n := walkNode die wafer x
    let y := { x.sentOne i rest with consumed := x.consumed + 1 }
    if t.fl.nil then s.setStream die wafer e y else
    let m : Mover := ⟨st.asker wafer, st.task, st.step, s.locOf st n (x.key.getD Key.zero)⟩
    match s.engineWrite m (bits x.desc 233 3) (beatAddr x.desc i) (s.rowBytes n t) t.fl.poi (s.rowFmt n t) 0 with
    | .waits => s
    | .ok _ s => s.setStream die wafer e y
    | .fails f s => s.beatFails st die wafer e i x f

/-- STREAM_BEAT_REQUEST (R149): the engine reads its next beat, or writes one. A strand that is frozen or being saved requests none, and
what has arrived at its engines is written. -/
def execStreamBeatRequest (die wafer e : Nat) (s : State) : Host.Outcome State Fault Refusal :=
  let x := s.stream die wafer e
  match s.strand die x.task with
  | none => .next s
  | some st =>
    if !st.wafers.contains wafer then .next s
    else if x.mayWrite then .next (s.writeBeat st die wafer e x)
    else if x.mayRequest && !st.frozen && !st.saving then .next (s.requestBeat st die wafer e x)
    else .next s

/-- The beat's token enters the instance that armed the engine, if it still lives. -/
def State.enterBeat (s : State) (t : LTok) (a : Option (BitVec 256 × Nat)) : State :=
  let s := s.setDown t
  if s.stale t then s else
  let s := s.enter t
  match a, s.strandOf t.node.ctx with
  | some a, some st => s.setStrand (st.onInst t.node.ctx t.key fun x => { x with beats := x.beats ++ [(t, a)] })
  | _, _ => s

/-- STREAM_BEAT_RETURN: the oldest requested beat leaves toward its target, all lanes of its format valid (R23), unless the gates around
that are closed (R66). -/
def execStreamBeatReturn (die wafer e : Nat) (s : State) : Host.Outcome State Fault Refusal :=
  let x := s.stream die wafer e
  match x.returns, x.key with
  | (i, t, a) :: rest, some k =>
    let n := walkNode die wafer x
    let me : Node ⊕ (Nat × Nat) := .inr (streamKey die wafer e, i)
    if x.writes || 4 ≤ x.slot || !((s.strandOf n.ctx).any fun st => !st.gated n.ctx) || !s.mayPass me then .next s else
    let f := s.fmtAt n t.vc
    let t : Tok := { t with nlane := allLanes f }
    let t := { t with fl := crumbFlags f t }
    .next (((s.passed me).setStream die wafer e (x.sentOne i rest)).enterBeat ⟨n, bits x.desc 211 2, k, t⟩ (if a then some (x.desc, i) else none))
  | _, _ => .next s

/-- STREAM_PENDING_START: the pending descriptor replaces a walk whose final beat has left. -/
def execStreamPendingStart (die wafer e : Nat) (s : State) : Host.Outcome State Fault Refusal :=
  let x := s.stream die wafer e
  match x.pending with
  | some (d, k, slot, task) => if x.fin || !x.armed then .next (s.setStream die wafer e (startWalk d k slot task)) else .next s
  | none => .next s

end Sys2Proof.Machine
end

