-- ==== Sys2Proof/Machine/Transfer.lean ====
section
/-! DEFINITION. Transfer units and migrations (R138, R147, R148, R387, R389): the elements that
ENGINE_OPERATION_START performs, TRANSFER_COMPLETE, MIGRATION_FINAL_WINDOW, MIGRATION_RELEASE. -/

namespace Sys2Proof.Machine

/-! The head of an engine queue. -/

/-- The head's next index, or its stuck mark. -/
def stepHead (i : Nat) : List QEnt → List QEnt
  | .op r d t p w l _ _ x e :: rest => .op r d t p w l true i x e :: rest
  | l => l
def stickHead : List QEnt → List QEnt
  | .op r d t p w l st i _ e :: rest => .op r d t p w l st i true e :: rest
  | l => l

/-- An engine request fault (R389): the operation stays at the head of its queue while the record is open. -/
def State.engineFault (s : State) (m : Mover) (q low : Nat) (ea : Word) (detail : Nat) : State :=
  let s := s.setQueue m.asker.die q (stickHead (s.queue m.asker.die q))
  s.report { m.loc with cause := 0x37, code := pack [(0, 8, low), (8, 8, q)], addr := ea, detail := detail } m.asker.part (.engine m.asker.die q)

/-! Transfer units. -/

def packetN (b : Beat) (j : Nat) : Nat := bits b (128 + 16 * j) 16 + 1
def packetTotal (b : Beat) : Nat := ((List.range 6).map (packetN b)).foldl (· * ·) 1
/-- c0 to c5 of the i-th element, c0 innermost. -/
def packetCoords (b : Beat) (i : Nat) : List Nat :=
  ((List.range 6).foldl (fun (acc : List Nat × Nat) j => (acc.1 ++ [acc.2 % packetN b j], acc.2 / packetN b j)) ([], i)).1
def packetOp (b : Beat) : Nat := bits b 246 2
def packetSize (b : Beat) : Nat := if bits b 243 3 = 6 then 48 else 2 ^ bits b 243 3
def packetDsp (b : Beat) : Nat := bits b 240 3
def packetSsp (b : Beat) : Nat := bits b 237 3
/-- A reserved OP, ESZ, DSP or SSP code. -/
def packetReserved (b : Beat) : Bool :=
  let space := fun (x : Nat) => x = 0 || x = 1 || x = 4
  packetOp b = 3 || bits b 243 3 = 7 || !space (packetDsp b) || !space (packetSsp b)
/-- A base plus the coordinates times the strides at bit `lo` of beat 1. -/
def elementAddr (base : Word) (b1 : Beat) (lo : Nat) (c : List Nat) : Word :=
  (List.range 6).foldl (fun a j => a + BitVec.ofNat 64 (c.getD j 0) * BitVec.signExtend 64 (b1.extractLsb' (lo + 32 * j) 32)) base
/-- The FILL pattern: the eight bytes of SRC repeated. -/
def pattern (v : Word) (n : Nat) : List Byte := (List.range n).map fun i => v.extractLsb' (8 * (i % 8)) 8

def coordsDetail (c : List Nat) (code : Nat) : Nat := pack (((List.range 6).map fun j => (16 * j, 16, c.getD j 0)) ++ [(96, 16, code)])

/-- Element `i` of a COPY or FILL. -/
def State.transferElement (s : State) (m : Mover) (q : Nat) (b0 b1 : Beat) (i : Nat) : State :=
  let c := packetCoords b0 i
  let src := elementAddr (b0.extractLsb' 0 64) b1 0 c
  let dst := elementAddr (b0.extractLsb' 64 64) b1 192 c
  let n := packetSize b0
  let put := fun (s : State) (bytes : List Byte) (poi : Bool) =>
    match s.engineWrite m (packetDsp b0) dst bytes poi 0 0 with
    | .waits => none
    | .fails x s => some (s.engineFault m q x.cause.toNat dst (coordsDetail c x.code.toNat))
    | .ok _ s => some (s.setQueue m.asker.die q (stepHead (i + 1) (s.queue m.asker.die q)))
  if packetOp b0 = 1 then (put s (pattern (b0.extractLsb' 0 64) n) false).getD s
  else
    match s.engineRead m.asker (s.moverAhead m) (packetSsp b0) src n with
    | .waits => s
    | .fails x s => s.engineFault m q x.cause.toNat src (coordsDetail c x.code.toNat)
    | .ok (b, _) t => (put t b.bytes b.poi).getD s

/-! Migration (R138, R387). -/

/-- Cells of [old, old + size) copied to the same places of the new frame. -/
def moveCells (mem : List Host.Cell) (old new size : Nat) : List Host.Cell :=
  (mem.filter fun c => old ≤ c.1 && c.1 < old + size).foldl (fun m c => Tab.put memDefault (new + (c.1 - old)) c.2 m)
    (mem.filter fun c => !(new ≤ c.1 && c.1 < new + size))
def moveKeys (l : List Nat) (old new size : Nat) : List Nat :=
  l.filter (fun a => !(new ≤ a && a < new + size)) ++ (l.filter fun a => old ≤ a && a < old + size).map fun a => new + (a - old)

/-- Bytes [lo, lo + n) of the page copied with their metadata: data, poison, CV, KIDX; a sector read with an error is copied with
POI = 1. -/
def State.copyFrame (s : State) (old new lo n : Nat) : State :=
  let s := s.findErrors ((s.mem.bad.map (·.sec)).filter fun a => old + lo ≤ a && a < old + lo + n)
  { s with mem := { s.mem with
      phys := moveCells s.mem.phys (old + lo) (new + lo) n
      poi := moveKeys s.mem.poi (old + lo) (new + lo) n
      cvs := moveKeys s.mem.cvs (old + lo) (new + lo) n
      bad := s.mem.bad.filter fun b => !(new + lo ≤ b.sec && b.sec < new + lo + n)
      kidx := (s.mem.kidx.filter fun e => old + lo ≤ e.1 && e.1 < old + lo + n).foldl (fun t e => Tab.put 0 (new + (e.1 - old)) e.2 t)
        (s.mem.kidx.filter fun e => !(new + lo ≤ e.1 && e.1 < new + lo + n)) } }

/-- A translation entry written by the device. -/
def State.writeEntry (s : State) (at_ : Nat) (e : BitVec 128) : State :=
  { s with mem := { s.mem with phys := memWrite s.mem.phys at_ (leBytes 16 e.toNat) } }

/-- Cause 0x35: the migration is abandoned, and its request leaves the queue without a decrement. -/
def State.migrFault (s : State) (m : Mover) (q code cause : Nat) (va : Word) : State :=
  let s := s.setQueue m.asker.die q ((s.queue m.asker.die q).drop 1)
  s.report { m.loc with cause := 0x35, code := code, addr := va, detail := cause * 2 ^ 64 } m.asker.part .only

/-- The part of memory that a whole frame lies in. -/
def frameIn (pa size : Nat) : Option Config.Part :=
  if Config.memoryAt pa = Config.memoryAt (pa + size - 1) then Config.memoryAt pa else none

/-- Steps 1 and 2: MIGS is set and every sector is copied. -/
def State.startMigr (s : State) (m : Mover) (q : Nat) (b0 : Beat) : State :=
  let va : Word := b0.extractLsb' 0 64
  let new := bits b0 64 64
  if bits va 57 7 != (if bit va 56 then 127 else 0) then s.migrFault m q 4 0x30 va else
  if s.partWalkWaits m.asker.part va then s else
  match s.walkFrom va (bits (s.partEntry m.asker.part) 352 64) walkLevels with
  | .fails c _ sec => (s.findErrors [sec]).migrFault m q 4 c.toNat va
  | .leaf e lvl at_ =>
    let a := accOf va e lvl
    if !s.keyOk m.asker.part a.kidx then s.migrFault m q 4 0x31 va
    else if a.migs then s.migrFault m q 1 0 va
    else if new % a.size != 0 || 2 ^ 52 ≤ new || (frameIn new a.size).isNone || a.hmod != s.module then s.migrFault m q 2 0 va
    else if (match frameIn new a.size with | some (.hbm d) => d != a.hdie.toNat | _ => false) then s.migrFault m q 3 0 va
    else if !s.memReady a || !s.paReady new then s
    else
      let tier := match frameIn new a.size with | some (.lpddr _) => true | _ => false
      let s := s.writeEntry at_ (setBits e 12 1 1)
      let s := s.copyFrame (s.home a.base) new 0 a.size
      let g : Migration := ⟨va, m.asker.part, at_, s.home a.base, new, a.size, tier, a.hdie.toNat, 1, [], 0, queueKey m.asker.die q⟩
      let s := { s with mem := { s.mem with migs := s.mem.migs ++ [g] } }
      s.setQueue m.asker.die q (stepHead 0 (s.queue m.asker.die q))

/-- Plain lines of the page that the L2 still holds. -/
def State.plainOf (s : State) (old size : Nat) : List Nat := (s.mem.plain.map (·.1)).filter fun a => old ≤ a && a < old + size

/-- Steps 3 and 4: written-back lines and sectors whose MIG bit is set are copied again, and the entry changes. -/
def State.finalWindow (s : State) (n : Nat) (g : Migration) : State :=
  let s := (s.plainOf g.old g.size).foldl (fun (s : State) a => s.evict a (Tab.get 0 a s.mem.kidx)) s
  let dirty := ((s.mem.migs[n]?).map (·.dirty)).getD []
  let s := dirty.foldl (fun (s : State) sec => s.copyFrame g.old g.new (sec - g.old) (min 48 (g.old + g.size - sec))) s
  let e := BitVec.ofNat 128 (leNat (memRead s.mem.phys (s.home g.leaf) 16))
  let e := setBits (setBits (setBits e 16 36 (g.new / 65536)) 13 1 (b2n g.tier)) 12 1 0
  let s := s.writeEntry (s.home g.leaf) e
  let tlb := s.mem.tlb.map fun t =>
    if t.part = g.part && t.page ≤ g.va.toNat && g.va.toNat < t.page + t.size then { t with stale := t.stale.or (some s.mem.clock) } else t
  let now := s.mem.clock + 1
  { s with mem := { s.mem with clock := now, tlb := tlb, redirect := s.mem.redirect ++ [(g.old, g.new, g.size, now)],
                               migs := upd (fun g => { g with stage := 2, stamp := now }) n s.mem.migs } }

/-- A write to the new frame fails, or none does: free (log entry 174). -/
def State.newFrameFails (s : State) : Bool := s.pick 2 = 1
/-- Such a failure (R387 CODE 0x0005, its memory cause free): MIGS returns to 0, the MIG bits clear, the old frame stays, and the request
leaves its queue without a decrement. -/
def State.abandonMigr (s : State) (n : Nat) (g : Migration) : State :=
  let cause := 0x32 + (s.spent.pick 2)
  let s := s.spent.spent
  let e := BitVec.ofNat 128 (leNat (memRead s.mem.phys (s.home g.leaf) 16))
  let s := s.writeEntry (s.home g.leaf) (setBits e 12 1 0)
  let s := { s with mem := { s.mem with migs := drop1 n s.mem.migs } }
  let die := g.queue / 18
  let q := g.queue % 18
  match s.queue die q with
  | .op _ _ task part wafers l _ _ _ ended :: _ => s.migrFault (s.mover die task part wafers l ended) q 5 cause g.va
  | _ => s

def execMigrationFinalWindow (n : Nat) (s : State) : Host.Outcome State Fault Refusal :=
  match s.mem.migs[n]? with
  | none => .next s
  | some g =>
    if g.stage != 1 then .next s
    else if s.newFrameFails then .next (s.abandonMigr n g) else .next (s.spent.finalWindow n g)

/-- Step 5: every strand has passed a boundary since; the old frame is released, and buffered writes follow the page. -/
def execMigrationRelease (n : Nat) (s : State) : Host.Outcome State Fault Refusal :=
  match s.mem.migs[n]? with
  | none => .next s
  | some g =>
    if g.stage = 2 && s.strands.all fun st => g.stamp ≤ st.stamp then
      .next { s with
        pod := { s.pod with
          records := s.pod.records.map fun (r : GRec) => { r with pa := s.home r.pa }
          sent := s.pod.sent.map fun (x : Sent) => if x.grec.pa = s.home x.grec.pa then x else { x with grec := { x.grec with pa := s.home x.grec.pa } } }
        mem := { s.mem with
        migs := drop1 n s.mem.migs
        redirect := s.mem.redirect.filter fun r => r != (g.old, g.new, g.size, g.stamp) } }
    else .next s

/-- TRANSFER_COMPLETE: every element has performed, or the page has moved; the counter of the unit's die is decremented. -/
def execTransferComplete (die q : Nat) (s : State) : Host.Outcome State Fault Refusal :=
  match s.queue die q with
  | .op (.xfer b0 _) _ _ _ _ l true i false _ :: rest =>
    let all := if packetOp b0 = 2 then i != 0 || !(s.mem.migs.any fun g => g.queue = queueKey die q && g.stage = 1) else decide (packetTotal b0 ≤ i)
    if !all || (s.pod.sent.any fun x => x.kind = 0 && x.node = l.node && x.key = l.key) || (s.pod.remotes.any fun x => x.kind = 0 && x.node = l.node && x.key = l.key) then .next s
    else
      let s := s.setQueue die q rest
      .next (if bit b0 236 then s.decrement die (bits b0 224 12) 1 else s)
  | _ => .next s

end Sys2Proof.Machine
end

