-- ==== Sys2Proof/Machine/Gather.lean ====
section
/-! DEFINITION. The gather network and the start of engine operations (R150, R151, R161, R162, R295, R389): ENGINE_OPERATION_START,
GATHER_ROW_RETURN, SCATTER_COMPLETION. An event whose condition does not hold changes nothing. -/

namespace Sys2Proof.Machine

/-! Gather and scatter. -/

/-- Beats of a request. -/
def gathTotal (desc : Beat) (idx : List Nat) : Nat := idx.length * gathRlen desc
/-- Address of beat b of the row of an index. -/
def rowAddr (desc : Beat) (idx b : Nat) : Word := BitVec.ofNat 64 (gathBase desc + idx * gathStride desc + 48 * b)

/-- CNT (R295): each index increments its routing counter once, saturating (R152). -/
def State.countIndex (s : State) (die : Nat) (aux : BitVec 22) (idx : Nat) : State :=
  if !bit aux 0 then s else
  let k := routingKey die (idx / 2 ^ bits aux 1 6 % 256)
  let v := Tab.get 0 k s.eng.routing
  { s with eng := { s.eng with routing := Tab.put 0 k (if v = BitVec.allOnes 32 then v else v + 1) s.eng.routing } }

/-- The late END token, holding the count. -/
def gathEnd (t : Tok) (count : Nat) : Tok :=
  { t with seq := 0, nlane := 0, data := BitVec.ofNat 384 (count % 2 ^ 32), fl := { endf := true } }
/-- A returned row beat. -/
def State.rowTok (s : State) (n : Node) (t : Tok) (desc : Beat) (i : Nat) (b : Bytes) : Tok :=
  let f := s.fmtAt n (gathRvc desc)
  let t := { t with seq := BitVec.ofNat 16 i, vc := gathRvc desc, nlane := allLanes f, data := beatOf b.bytes, fl := { poi := b.poi } }
  { t with fl := crumbFlags f t }

/-- The head of queue 16 moves on past beat i. -/
def State.passRow (s : State) (m : Mover) (aux : BitVec 22) (desc : Beat) (idx : List Nat) (i : Nat) : State :=
  let s := if i % gathRlen desc = 0 then s.countIndex m.asker.die aux (idx.getD (i / gathRlen desc) 0) else s
  s.setQueue m.asker.die 16 (stepHead (i + 1) (s.queue m.asker.die 16))

/-- Beat i of a GATH: read at home, or shipped to the owner over a binding of class 001 (R151, R394). -/
def State.gatherBeat (s : State) (m : Mover) (aux : BitVec 22) (desc : Beat) (idx : List Nat) (t : Tok) (i : Nat) : State :=
  let q := i / gathRlen desc
  let ea := rowAddr desc (idx.getD q 0) (i % gathRlen desc)
  let fault := fun (s : State) (x : Exn) => s.engineFault m 16 x.cause.toNat ea (pack [(0, 32, q), (96, 16, x.code.toNat)])
  match s.engineAccs m.asker 0 ea 48 false with
  | .waits => s
  | .fails x s => fault s x
  | .ok l s =>
    let a := (l.map (·.1)).headD {}
    if s.moverAhead m && l.any fun p => p.1.ss then s
    else if a.hmod != s.module then
      match s.binding 1 m.asker.part m.asker.die a.hmod a.hdie.toNat with
      | none => fault s { cause := 0x40, code := if s.lostBinding 1 m.asker.part m.asker.die a.hmod a.hdie.toNat then 2 else 1 }
      | some g =>
        let rid := s.pod.nextRid
        let s := s.sendFlit g (.ship rid m.step [a.addr]) a.conf
        let row : Row := ⟨m.asker.die, m.loc.node, m.loc.key, some (rid, a.conf), outA (s.rowTok m.loc.node t desc i ⟨[], false⟩)⟩
        ({ s with pod := { s.pod with nextRid := rid + 1 }, eng := { s.eng with rows := s.eng.rows ++ [row] } } : State).passRow m aux desc idx i
    else
      match s.readPieces 0 l with
      | (none, s) => fault s (memExn 0x36 2 ea a.addr)
      | (some b, s) =>
        let row : Row := ⟨m.asker.die, m.loc.node, m.loc.key, none, outA (s.rowTok m.loc.node t desc i b)⟩
        ({ s with eng := { s.eng with rows := s.eng.rows ++ [row] } } : State).passRow m aux desc idx i

/-- Beat i of a SCAT: a row beat that is NIL writes nothing; a row of another module is a remote store of class 001 (R151). -/
def State.scatterBeat (s : State) (m : Mover) (aux : BitVec 22) (desc : Beat) (idx : List Nat) (rows : List RowBeat) (i : Nat) : State :=
  let q := i / gathRlen desc
  let ea := rowAddr desc (idx.getD q 0) (i % gathRlen desc)
  let fault := fun (s : State) (x : Exn) => s.engineFault m 16 x.cause.toNat ea (pack [(0, 32, q), (96, 16, x.code.toNat)])
  let r := rows.getD i ⟨[], 0, false, true⟩
  let bytes := r.bytes
  if r.nil then s.passRow m aux desc idx i else
  match s.engineAccs m.asker 0 ea bytes.length true with
  | .waits => s
  | .fails x s => fault s x
  | .ok l s =>
    let a := (l.map (·.1)).headD {}
    if a.hmod != s.module then
      match s.binding 1 m.asker.part m.asker.die a.hmod a.hdie.toNat with
      | none => fault s { cause := 0x40, code := if s.lostBinding 1 m.asker.part m.asker.die a.hmod a.hdie.toNat then 2 else 1 }
      | some _ =>
        if !s.mayRank m.asker.part m.loc.node then s else
        ((bySector a bytes).foldl (fun (s : State) x =>
          let (d, k) := sectorData x.1 x.2
          let s := s.sendRecord m.asker.part m.step m.asker.die 1 x.1 d k r.fmt r.poi 0 ⟨0, m.loc.node, m.loc.key, {}, {}, false, s.mem.nextSeq⟩
          { s with mem := { s.mem with nextSeq := s.mem.nextSeq + 1 } }) s).passRow m aux desc idx i
    else
      match s.engineWrite m 0 ea bytes r.poi r.fmt 1 with
      | .waits => s
      | .fails x s => fault s x
      | .ok _ s => s.passRow m aux desc idx i

/-- A GATH whose beats are all on their way leaves its queue; its END token follows its rows. -/
def State.gatherDone (s : State) (m : Mover) (t : Tok) (count : Nat) : State :=
  let s := s.setQueue m.asker.die 16 ((s.queue m.asker.die 16).drop 1)
  { s with eng := { s.eng with rows := s.eng.rows ++ [⟨m.asker.die, m.loc.node, m.loc.key, none, outB (gathEnd t count)⟩] } }

/-! Collectives enter the engine (R298). -/

/-- A mismatch of FN, beat count or format with what the round holds (R410). -/
def Coll.differs (c : Coll) (fn : BitVec 6) (fmt beats : Nat) : Bool :=
  c.fn != fn || fmtOf c.fmt != fmt || c.kids.any fun k => k.2.length != beats

/-- The head of queue 17 joins its round; it waits while the round of its ID still has a vector of this module. -/
def State.startColl (s : State) (m : Mover) (id : Nat) (fn : BitVec 6) (vc : BitVec 5) (ents : List (BitVec 32)) (beats : List Tok) : State :=
  let ent := ents.headD 0
  let mine := fun (c : Coll) => c.part = m.asker.part && c.id = id
  let go := s.setQueue m.asker.die 17 ((s.queue m.asker.die 17).drop 1)
  match s.eng.colls.find? mine with
  | none =>
    let c : Coll := ⟨m.asker.part, id, fn, ent, vc, ents, some beats, m.loc.node, m.loc.key, [], false, false, none, m.loc⟩
    { go with eng := { go.eng with colls := go.eng.colls ++ [c] } }
  | some c =>
    if c.own.isSome then s else
    let new : Coll := { c with own := some beats, ents := ents, node := m.loc.node, key := m.loc.key, loc := m.loc, vc := vc, fn := fn, fmt := ent, bad := c.bad || c.differs fn (fmtOf ent) beats.length }
    { go with eng := { go.eng with colls := go.eng.colls.map fun x => if mine x then new else x } }

/-! ENGINE_OPERATION_START. -/

/-- Queues of a die that hold a fence. -/
def State.fenced (s : State) (die id : Nat) : List Nat := (List.range 18).filter fun q => (s.queue die q).contains (.fence id)
/-- R162: a fence whose entries are all at the head of their queues is removed. -/
def State.passFence (s : State) (die id : Nat) : State :=
  let qs := s.fenced die id
  if qs.all fun q => (s.queue die q).head? = some (.fence id) then
    qs.foldl (fun (s : State) q => s.setQueue die q ((s.queue die q).drop 1)) s
  else s

/-- What the head of a queue does: begin, or perform its next element. -/
def State.runHead (s : State) (die q : Nat) : State :=
  match s.queue die q with
  | .fence id :: _ => s.passFence die id
  | .op r _ task part wafers l started i stuck ended :: _ =>
    if stuck then s else
    let m := s.mover die task part wafers l ended
    match r with
    | .xfer b0 b1 =>
      if packetReserved b0 && i = 0 then s.engineFault m q 0xFE 0 0
      else if packetOp b0 = 2 then (if started then s else s.startMigr m q b0)
      else if packetTotal b0 ≤ i then s
      else s.transferElement m q b0 b1 i
    | .gath scat aux desc idx rows t =>
      if gathTotal desc idx ≤ i then (if scat then s.setQueue die q (stepHead i (s.queue die q)) else s.gatherDone m t (gathTotal desc idx))
      else if scat then s.scatterBeat m aux desc idx rows i
      else s.gatherBeat m aux desc idx t i
    | .coll id fn vc ents beats => s.startColl m id fn vc ents beats
  | [] => s

/-- ENGINE_OPERATION_START (R161). -/
def execEngineOperationStart (die q : Nat) (s : State) : Host.Outcome State Fault Refusal := .next (s.runHead die q)

/-! GATHER_ROW_RETURN (R150, R295). -/

/-- A row beat, in any order, or the END token once no row of its node is outstanding, leaves as a late token. -/
def execGatherRowReturn (n : Nat) (s : State) : Host.Outcome State Fault Refusal :=
  match s.eng.rows[n]? with
  | none => .next s
  | some r =>
    let out := { s with eng := { s.eng with rows := drop1 n s.eng.rows } }
    match s.strandOf r.node.ctx with
    | none => .next out
    | some st =>
      if !st.liveAt r.node.ctx r.key then .next out
      else if r.remote.isSome || (!s.latchEmpty r.node && !st.frozen && !st.saving) then .next s
      else if r.out.a then .next (out.emit r.node r.key (Hd.ofWord (s.wordAt r.node)) [r.out])
      else if s.eng.rows.any fun x => x.out.a && x.node = r.node && x.key = r.key then .next s
      else .next ((out.emit r.node r.key (Hd.ofWord (s.wordAt r.node)) [r.out]).lateDone r.node r.key)

/-- SCATTER_COMPLETION (R295): every row has performed or been accepted. -/
def execScatterCompletion (n : Nat) (s : State) : Host.Outcome State Fault Refusal :=
  match s.queue n 16 with
  | .op (.gath true _ desc idx _ t) _ _ _ _ l true i false _ :: rest =>
    if i < gathTotal desc idx || (s.pod.sent.any fun x => x.kind = 0 && x.node = l.node && x.key = l.key) ||
       (s.pod.remotes.any fun x => x.kind = 0 && x.node = l.node && x.key = l.key) then .next s
    else .next ((s.setQueue n 16 rest).respond l.node l.key [outA (gathEnd t (gathTotal desc idx))] true)
  | _ => .next s

end Sys2Proof.Machine
end

