-- ==== Sys2Proof/Machine/MemEvents.lean ====
section
/-! DEFINITION. Effects that have left their commit buffers (R153 to R159, R162, R287, R416), and the ports of match stores,
threshold registers and sequences (R112, R117, R312): MEMORY_RESPONSE, STORE_PERFORM, FENCE_COMPLETE, ENGINE_RELEASE,
DFNC_COMPLETION, STORE_PORT_APPLY, THRESHOLD_OFFER, SEQUENCE_PORT_APPLY. An event whose condition does not hold changes nothing. -/

namespace Sys2Proof.Machine

/-! MEMORY_RESPONSE (R155). -/

/-- What a node waits for has returned: its results enter its output latch. A strand that is frozen or being saved lets
what is outstanding land (R71, R354). -/
def execMemoryResponse (n : Nat) (s : State) : Host.Outcome State Fault Refusal :=
  match s.mem.resp[n]? with
  | none => .next s
  | some r =>
    let out := { s with mem := { s.mem with resp := drop1 n s.mem.resp } }
    match s.strandOf r.node.ctx with
    | none => .next out
    | some st =>
      if !st.liveAt r.node.ctx r.key then .next out
      else if !s.latchEmpty r.node && !st.frozen && !st.saving then .next s
      else
        let out := out.emit r.node r.key (Hd.ofWord (s.wordAt r.node)) r.outs
        .next (if r.late then out.lateDone r.node r.key else out)

/-! STORE_PERFORM (R153, R157, R285, R416). -/

def State.dropPend (s : State) (q : Nat) : State :=
  { s with mem := { s.mem with pend := s.mem.pend.filter fun p => p.seq != q } }

/-- A held effect fails where it performs: it stays there while its record is open (R416). -/
def State.stick (s : State) (p : Pend) (x : Exn) : State :=
  let s := { s with mem := { s.mem with pend := s.mem.pend.map fun (q : Pend) => if q.seq = p.seq then { q with stuck := true } else q } }
  let sub : Subject := .held p.seq p.die p.task
  if p.task = portTask then
    s.report { kind := 1, cause := x.cause, code := x.code.toNat, addr := x.addr, detail := x.detail.toNat, die := p.die }
      (bits s.pages.ppart 0 6) sub
  else s.report { p.loc with cause := x.cause, code := x.code.toNat, addr := x.addr, detail := x.detail.toNat } p.part sub

/-- An ENQ that an open record holds keeps its queue's later accesses waiting. -/
def State.queueStuck (s : State) (a : Acc) : Bool :=
  s.mem.pend.any fun p => p.stuck && (match p.eff with | .enq b _ _ => b.bank = a.bank && b.addr = a.addr | _ => false)

/-- After the port's own ENQ, the effects of TRDY for the regeneration task (R392). -/
def State.regenLaunch (s : State) (p : Pend) : State :=
  if p.task != portTask then s else
  let r := s.pages.regen
  s.launch (bits r 12 3) (bits r 0 12) [r.extractLsb' 64 64] false 0

/-- ENQ (R285): the entry is written, or it waits at a full queue. -/
def State.enqueue (s : State) (p : Pend) (a : Acc) (data : Beat) (poi : Bool) : State :=
  match s.atomicFault a 48 with
  | (some x, s) => s.stick p x
  | (none, s) =>
    match s.readHome a 48 with
    | (none, s) => s.stick p (imageExn a.va a)
    | (some b, s) =>
      let (head, tail, cap) := queueHeader b.bytes
      if cap = 0 then s.stick p (illegal 0x8A 9 a.va)
      else if cap ≤ (tail + 2 ^ 64 - head) % 2 ^ 64 then s
      else
        let e := entryAcc a tail cap
        if s.undecodable e (at_ e (bytesOf data)) then s.stick p (imageExn e.va e) else
        let s := s.writeHome p.node.ctx.die p.node.ctx.wafer e (at_ e (bytesOf data)) poi
        let t := { a with addr := a.addr + 8, va := a.va + 8 }
        let s := s.writeHome p.node.ctx.die p.node.ctx.wafer t (at_ t (leBytes 8 (tail + 1))) false
        (s.dropPend p.seq).regenLaunch p

/-- A GLAZE that had to wait counts, once the module has reached its strand's step (R170, R173). -/
def State.performGlaze (s : State) (p : Pend) (tok : Tok) : State :=
  match (if p.ended.isSome then none else s.strand p.die p.task) with
  | none => s.dropPend p.seq
  | some st => if st.step = (s.domain st.part).step && !s.glazeFirst p then (s.dropPend p.seq).countGlaze st p tok else s

/-- The step that a released effect counts in. -/
def State.pendStep (s : State) (p : Pend) : BitVec 32 := p.ended.getD (s.stepAt p.node)

/-- A released effect performs at its home slice, bank or port, or leaves for its glaze buffer; `l` are the effects before it. -/
def State.performStore (s : State) (p : Pend) (l : List Pend) : State :=
  match p.eff with
  | .store a bs poi raw =>
    if !s.memReady a then s
    else if raw then (s.writeImage a (bs.map (·.2)) poi).dropPend p.seq
    else (s.writeHome p.node.ctx.die p.node.ctx.wafer a bs poi).dropPend p.seq
  | .shared .. => if s.maySend p l then (s.dropPend p.seq).sendPend p else s
  | .rst .. => if s.maySend p l then (s.dropPend p.seq).sendPend p else s
  | .glaze tok => s.performGlaze p tok
  | .enq a data poi => if !s.memReady a || s.queueStuck a then s else s.enqueue p a data poi
  | .spwn i v => { s with pages := { s.pages with heads := Tab.put 0 i v s.pages.heads } }.dropPend p.seq
  | .sprg page clr =>
    if s.seqBusy then s else
    match (setRgn page (!clr)).got s (s.pendStep p) with
    | .waits => s
    | .fails x s => s.stick p x
    | .ok _ s => s.dropPend p.seq
  | _ => s

def execStorePerform (n : Nat) (s : State) : Host.Outcome State Fault Refusal :=
  match s.mem.pend[n]? with
  | none => .next s
  | some p =>
    let l := s.mem.pend.take n
    if p.stuck || s.parked p || s.pendFenced p || p.behind l || s.rmwFirst p then .next s else .next (s.performStore p l)

/-! FENCE_COMPLETE (R159). -/

def fencedOps : List Nat := [0x87, 0x88, 0x89, 0x8B, 0xD9, 0xDA]
def PortOp.isKput : PortOp → Bool
  | .kput .. => true
  | _ => false
/-- An effect of the strand that the fence waits for: a write that issued before its instance's commit, or whatever comes before it in its
own sequence. -/
def fencePast (f p : Pend) (before : List (Ctx × Key)) : Bool :=
  p.die = f.die && p.task = f.task &&
  (if p.node.ctx = f.node.ctx && p.key = f.key then (if p.msq = 127 then p.eff.isWrite else decide (p.msq < f.msq))
   else p.eff.isWrite && (decide (p.seq < f.seq) || before.contains (p.node.ctx, p.key)))
/-- The fence still waits. -/
def State.fenceWaits (s : State) (f : Pend) (before : List (Ctx × Key)) : Bool :=
  s.mem.pend.any (fun p => fencePast f p before) ||
  (match (if f.ended.isSome then none else s.strand f.die f.task) with
   | none => false
   | some st =>
     let past := fun (n : Node) (k : Key) (q : Nat) => st.has n.ctx && (decide (q < f.seq) || before.contains (n.ctx, k))
     let write := fun (n : Node) (k : Key) (q : Nat) => past n k q || n.ctx = f.node.ctx && k = f.key
     st.heldBy before f.seq Eff.isWrite ||
     (s.mem.rmwq.any fun r => fencedOps.contains (opcode r.word) && st.has r.node.ctx && r.issued.any (· < f.seq)) ||
     (s.mat.portq.any fun q => q.op.isKput && write q.node q.key q.seq) ||
     (s.pages.seqq.any fun q => q.task = f.task && write q.node q.key q.seq) ||
     (s.pod.sent.any fun x => past x.node x.key x.seq || x.kind ≤ 1 && write x.node x.key x.seq) ||
     (s.pod.remotes.any fun x => past x.node x.key x.seq || x.kind ≤ 1 && write x.node x.key x.seq))

/-- Effects of an instance that no fence holds back any more leave (R158). -/
def State.unfence (s : State) (f : Pend) : State :=
  let mine := s.mem.pend.filter fun p => p.node.ctx = f.node.ctx && p.key = f.key && !s.pendFenced p &&
    (match p.eff with | .shared .. => true | .rst .. => true | .spap _ => true | .glaze _ => true | _ => false)
  mine.foldl (fun (s : State) p => (s.dropPend p.seq).letGo p) s

/-- The answer of an effect, unless its strand has ended. -/
def State.answerPend (s : State) (p : Pend) (t : Tok) : State :=
  if p.ended.isSome then s else s.respond p.node p.key [outBoth t] true

def execFenceComplete (n : Nat) (s : State) : Host.Outcome State Fault Refusal :=
  match s.mem.pend[n]? with
  | none => .next s
  | some f =>
    match f.eff with
    | .fnc _ tok before =>
      if s.parked f || s.pendFenced f || s.fenceWaits f before then .next s
      else .next (((s.dropPend f.seq).answerPend f tok).unfence f)
    | _ => .next s

/-! ENGINE_RELEASE (R158, R161, R162). -/

/-- Stores and ENQs, which engine requests and launches wait for. -/
def Eff.isStore : Eff → Bool
  | .store .. => true
  | .shared .. => true
  | .enq .. => true
  | .spap _ => true
  | .spwn .. => true
  | .sprg .. => true
  | _ => false

/-- The open tail of an instance that had committed before holds a store or an atomic that has not performed (R158). -/
def State.tailOpenStores (s : State) (st : Strand) (p : Pend) : Bool :=
  (st.insts.filter fun x => x.tail && decide (x.since ≤ p.seq) && !(x.ctx = p.node.ctx && x.key = p.key)).any fun x =>
    (x.held.any fun h => h.eff.isStore || (match h.eff with | .port _ _ op => op.isKput | _ => false)) ||
    s.mem.rmwq.any fun r => fencedOps.contains (opcode r.word) && r.node.ctx = x.ctx && r.key = x.key

/-- A store, ENQ, KPUT or atomic of the effect's instance, or of an older one of its strand, has not performed. -/
def State.storesOpen (s : State) (p : Pend) : Bool :=
  let old := fun (n : Node) (k : Key) (q : Nat) => decide (q < p.seq) || n.ctx = p.node.ctx && k = p.key
  let mine := fun (n : Node) => n.ctx.die = p.die &&
    (p.ended.isSome || (match s.strand p.die p.task with | some st => st.has n.ctx | none => false))
  s.mem.pend.any (fun q => q.die = p.die && q.task = p.task && q.eff.isStore && old q.node q.key q.seq) ||
  (s.pages.seqq.any fun q => q.task = p.task && mine q.node && old q.node q.key q.seq) ||
  (s.mat.portq.any fun q => q.op.isKput && mine q.node && old q.node q.key q.seq) ||
  (!p.ended.isSome && (s.strand p.die p.task).any fun st => s.tailOpenStores st p) ||
  (s.pod.sent.any fun x => (x.kind = 0 || x.kind = 3) && mine x.node && old x.node x.key x.seq) ||
  (s.pod.remotes.any fun x => (x.kind = 0 || x.kind = 3) && mine x.node && old x.node x.key x.seq)

/-- Requests that pass to the engine queues. -/
def Eff.toQueue : Eff → Bool
  | .engine .. => true
  | .qfnc _ => true
  | _ => false
/-- An earlier effect of the strand that must be released first: engine queues keep release order, and so does one stream engine. -/
def State.releasedFirst (s : State) (n : Nat) (p : Pend) : Bool :=
  (s.mem.pend.take n).any fun q => q.die = p.die && q.task = p.task &&
    (p.eff.toQueue && q.eff.toQueue ||
      (match p.eff, q.eff with
       | .sarm e _, .sarm f _ => e = f && q.node.ctx.wafer = p.node.ctx.wafer
       | _, _ => false))

/-- An entry at the tail of a queue. -/
def State.queueAdd (s : State) (die q : Nat) (e : QEnt) : State := s.setQueue die q (s.queue die q ++ [e])

/-- The effect passes to its engine, to the scheduler of a die, once its FAB bit is set (R350), or to the open record it names. -/
def State.passOn (s : State) (p : Pend) : State :=
  let out := s.dropPend p.seq
  match p.eff with
  | .engine q r => out.queueAdd p.die q (.op r p.die p.task p.part p.wafers p.loc false 0 false p.ended)
  | .qfnc m =>
    let id := s.eng.nextFence
    ((List.range 18).filter fun q => bit m q).foldl (fun (s : State) q => s.queueAdd p.die q (.fence id))
      { out with eng := { out.eng with nextFence := id + 1 } }
  | .dcnt d c n => if !bit s.host.ready d then s else out.decrement d c n
  | .launch d t ops v pr => if !bit s.host.ready d then s else out.launch d t ops v pr
  | .resm va a sub => if s.partWaits p.part va then s else out.resume (s.recordAt p.part va) a.toNat sub
  | .sarm e d =>
    if p.ended.isSome then out
    else if (s.stream p.node.ctx.die p.node.ctx.wafer e).pending.isSome then s else out.sarm p.die p.task p.node p.key e d
  | _ => s

def execEngineRelease (n : Nat) (s : State) : Host.Outcome State Fault Refusal :=
  match s.mem.pend[n]? with
  | none => .next s
  | some p =>
    let sarm := match p.eff with | .sarm .. => true | _ => false
    if s.parked p || s.pendFenced p || s.releasedFirst n p || (!sarm && s.storesOpen p) then .next s else .next (s.passOn p)

/-! DFNC_COMPLETION (R287, R137). -/

/-- The L2's plain lines of the compressed pages in [va, va + left) are written back and invalidated, and no cache keeps a copy of one. -/
def State.flushRange (s : State) (root : Nat) : Nat → Word → Nat → State
  | 0, _, _ => s
  | f + 1, va, left =>
    if left = 0 then s else
    let n := min left (65536 - va.toNat % 65536)
    let s := match s.walkFrom va root walkLevels with
      | .leaf e lvl _ =>
        let a := accOf va e lvl
        let lo := s.home a.addr
        if a.cv && a.hmod = s.module then
          let hit := fun (l : Nat) => decide (l < lo + n ∧ lo < l + 192)
          let s := ((s.mem.plain.map fun (x : Nat × PlainLine) => x.1).filter hit).foldl (fun (s : State) l => s.evict l a.kidx) s
          { s with mem := { s.mem with copies := s.mem.copies.filter fun c => !hit (s.home c.addr) } }
        else s
      | .fails .. => s
    s.flushRange root f (va + BitVec.ofNat 64 n) (left - n)

def execDfncCompletion (n : Nat) (s : State) : Host.Outcome State Fault Refusal :=
  match s.mem.pend[n]? with
  | none => .next s
  | some p =>
    match p.eff with
    | .dfnc lo len tok =>
      let first := (s.mem.pend.take n).any fun q => sameCell q.node p.node &&
        (match q.eff with
         | .store a _ _ _ => a.cv && decide (lo.toNat < a.va.toNat + 48 ∧ a.va.toNat < lo.toNat + len.toNat)
         | _ => false)
      let walks := (List.range (len.toNat / 65536 + 1)).any fun i => s.partWalkWaits p.part (lo + BitVec.ofNat 64 (65536 * i))
      if s.parked p || s.pendFenced p || first || walks then .next s
      else
        let s := s.flushRange (bits (s.partEntry p.part) 352 64) (len.toNat / 65536 + 2) lo len.toNat
        .next ((s.dropPend p.seq).answerPend p tok)
    | _ => .next s

/-! The ports of match stores (R112, R307). -/

/-- The record at a position of a sequence lies on a step-shared page. -/
def State.sharedAt (s : State) (sq hg pos : Nat) : Bool :=
  match (resolvePos sq hg pos).run' s (s.domain s.portPart).step with
  | (.ok (some (_, va, _, _)), t) => (match (portAcc va false).run' t with | (.ok a, _) => a.ss | _ => false)
  | _ => false
/-- A paged scan of a strand that runs ahead of its module waits for the step-shared pages it reads (R164). -/
def State.scanAhead (s : State) (r : PortReq) (sq : Nat) : Bool :=
  (s.strandOf r.node.ctx).any fun st => st.step != (s.domain st.part).step &&
    (List.range r.size).any (s.sharedAt sq (s.store r.store).desc.hg)
/-- A paged query waits for the appends that arrived before it, and for one that an open record holds (R312, R416). -/
def State.pagedWaits (s : State) (r : PortReq) : Bool :=
  match r.op with
  | .kqry _ _ _ _ ops _ _ _ _ =>
    let q := bits (((ops.find? fun o => o.1 = 1).map (·.2.data)).getD 0) 32 20
    (s.store r.store).desc.kind = 1 && (s.seqBusy || s.seqStuck q || s.scanAhead r q)
  | _ => false

/-- The port's first operation is applied, unless the store's merge-feed buffer is held. -/
def execStorePortApply (die wafer sel : Nat) (s : State) : Host.Outcome State Fault Refusal :=
  let key := storeKey die wafer sel
  match s.mat.portq.find? fun r => r.store = key with
  | none => .next s
  | some r =>
    if (s.store key).feed.isSome || s.pagedWaits r then .next s
    else .next (({ s with mat := { s.mat with portq := dropFirst (fun x => x = r) s.mat.portq } } : State).applyPort r)

/-! Threshold registers (R117, R309). -/

/-- The offer goes to its register, or to the wafer of a store of another module (R166, R309). -/
def State.makeOffer (s : State) (o : Offer) : State :=
  match o.store with
  | some g => s.toStore (match o.who with | some (n, _) => n | none => ⟨⟨o.die0, 0, 0⟩, 0⟩) g (.offer g o.reg o.val)
  | none => s.offer o.die o.wafer o.reg o.val

/-- An offer reaches its register; one made for an instance waits until that is settled. -/
def execThresholdOffer (n : Nat) (s : State) : Host.Outcome State Fault Refusal :=
  match s.mat.offers[n]? with
  | none => .next s
  | some o =>
    let out := { s with mat := { s.mat with offers := drop1 n s.mat.offers } }
    if (s.mat.offers.take n).any fun q => q.die = o.die && q.wafer = o.wafer && q.reg = o.reg && (q.who.isNone || q.who = o.who) then .next s
    else
    match o.who with
    | none => .next (out.makeOffer o)
    | some (x, k) =>
      match s.strandOf x.ctx with
      | none => .next out
      | some st => if s.settled st k then .next (out.makeOffer o) else .next s

/-! The sequence port (R312, R416). -/

/-- An append waits behind those before it that no open record holds, and behind every one to its own sequence; one with LAST behind every
one of its instance (R314, R416). -/
def SeqReq.waits (q : SeqReq) (before : List SeqReq) : Bool :=
  !before.all fun x => x.stuck && x.op.sq != q.op.sq && !(q.op.last && x.node.ctx = q.node.ctx && x.key = q.key)

def execSequencePortApply (n : Nat) (s : State) : Host.Outcome State Fault Refusal :=
  match s.pages.seqq[n]? with
  | none => .next s
  | some q =>
    if q.stuck || !s.allReady || q.waits (s.pages.seqq.take n) then .next s else
    match (appendPerform q.node q.key q.op).got { s with cur := { s.cur with node := q.node, key := q.key } } q.step with
    | .waits => .next s
    | .ok _ t => .next { t with cur := s.cur, pages := { t.pages with seqq := t.pages.seqq.filter fun x => x.seq != q.seq } }
    | .fails x t =>
      let s := { t with cur := s.cur }
      let s := { s with pages := { s.pages with seqq := s.pages.seqq.map fun (y : SeqReq) => if y.seq = q.seq then { y with stuck := true } else y } }
      .next (s.report { q.loc with cause := x.cause, code := x.code.toNat, addr := x.addr, detail := x.detail.toNat } (s.partOf q.loc)
        (.held q.seq q.node.ctx.die q.task))

end Sys2Proof.Machine
end

