-- ==== Sys2Proof/Machine/Glaze.lean ====
section
/-! DEFINITION. The glaze (R170 to R175, R300, R395, R396): GLAZE_WRITE_ACCEPT, GLAZE_CONTRIBUTION, GLAZE_BARRIER_ENTER,
BARRIER_FLIT, GLAZE_RELEASE. An event whose condition does not hold changes nothing. -/

namespace Sys2Proof.Machine

/-! GLAZE_WRITE_ACCEPT (R171, R395). -/

def parityOf (step : BitVec 32) : Nat := step.toNat % 2
/-- Records of a die's buffer for a parity. -/
def State.buffered (s : State) (die par : Nat) : Nat := s.pod.records.countP fun r => r.die = die && parityOf r.step = par
/-- Records in the spill area: what each buffer holds beyond its die's storage. -/
def State.spilled (s : State) : Nat :=
  ((List.range 16).map fun i => s.buffered (i / 2) (i % 2) - Config.glazeRecordsPerDie).foldl (· + ·) 0
def State.bufferFull (s : State) (r : GRec) : Bool :=
  decide (Config.glazeRecordsPerDie ≤ s.buffered r.die (parityOf r.step)) && decide (Config.spillRecords ≤ s.spilled)

/-- The lowest byte a mask names. -/
def lowByte (m : BitVec 48) : Nat := ((List.range 48).find? fun i => bit m i).getD 0
def refusedKey (die par : Nat) : Nat := die * 2 + par

/-- A write is refused: counted, and its die's first one of the step raises cause 0x41. -/
def State.refuse (s : State) (r : GRec) : State :=
  let d := s.domain r.dom
  let par := parityOf r.step
  let k := refusedKey r.die par
  let old := Tab.get 0 k d.refused
  let pa := r.pa + lowByte r.mask
  let low := match Tab.find par d.frpa with | some x => min x pa | none => pa
  let s := s.setDomain r.dom { d with refused := Tab.put 0 k (old + 1) d.refused, frpa := Tab.ins par low d.frpa }
  if old = 0 then s.report { kind := 1, cause := 0x41, die := r.die, step := r.step.toNat, detail := 1 } r.dom .only else s

/-- A record reaches its buffer: true when it is refused. -/
def State.accept (s : State) (r : GRec) : Bool × State :=
  if s.bufferFull r then (true, s.refuse r) else (false, { s with pod := { s.pod with records := s.pod.records ++ [r] } })

/-- What the node of an RST, RATM or atomic emits once its record is accepted or refused (R155, R169, R395). -/
def sentOuts (kind : Nat) (tok ans : Tok) (refused : Bool) : List Out :=
  match kind with
  | 1 => [outA ans, outB (completion tok refused)]
  | 2 => [outA (if refused then emptied tok else ans), outB (completion tok refused)]
  | 3 => [outBoth ans]
  | _ => []

def execGlazeWriteAccept (n : Nat) (s : State) : Host.Outcome State Fault Refusal :=
  match s.pod.sent[n]? with
  | none => .next s
  | some x =>
    let out := { s with pod := { s.pod with sent := drop1 n s.pod.sent } }
    let (refused, t) := out.accept x.grec
    .next (if x.kind = 0 then t else t.respond x.node x.key (sentOuts x.kind x.tok x.ans refused) x.late)

/-! GLAZE_CONTRIBUTION (R173). -/

/-- A read-modify-write that waits will make a step-shared write. -/
def State.rmwShared (s : State) (st : Strand) (r : Rmw) : Bool :=
  let op := opcode r.word
  op = 0xD9 || op = 0xDA || ((op = 0x87 || op = 0x89) &&
    ((fmtM r.word).space = 0 || (fmtM r.word).space = 3) &&
    (let m := fmtM r.word
     let size := if op = 0x89 then 48 else if bit r.word 54 then 8 else 4
     match s.walkFrom (effAddr m size ((r.ops.head?.map (·.2)).getD {})) (bits (s.partEntry st.part) 352 64) walkLevels with
     | .leaf e _ _ => bit e 7
     | .fails .. => false))

/-- Step-shared writes of the strand that issued before the commit of its GLAZE are not all accepted yet. Those behind a later GLAZE of the
same instance are of a later step. -/
def State.glazeWaits (s : State) (st : Strand) (g : Glz) : Bool :=
  let past := fun (n : Node) (k : Key) (q : Nat) => decide (q < g.seq) || g.before.contains (n.ctx, k) ||
    (match g.who with | some (x, j, _) => n.ctx = x.ctx && k = j | none => false)
  s.mem.pend.any (fun p => p.die = st.die && p.task = st.task && p.eff.isShared && past p.node p.key p.seq && !s.glazeFirst p) ||
  st.heldBy g.before g.seq Eff.isShared ||
  (s.mem.rmwq.any fun r => st.has r.node.ctx && decide (r.seq < g.seq) && s.rmwShared st r) ||
  (s.pod.sent.any fun x => st.has x.node.ctx && past x.node x.key x.seq) ||
  (s.pod.remotes.any fun x => x.kind != 4 && st.has x.node.ctx && past x.node x.key x.seq)

/-- The strand's first waiting contribution counts for its module, once the module is in its step. -/
def execGlazeContribution (n : Nat) (s : State) : Host.Outcome State Fault Refusal :=
  match s.strands[n]? with
  | none => .next s
  | some st =>
    match st.glz with
    | [] => .next s
    | g :: rest =>
      let d := s.domain st.part
      if g.step != d.step || s.glazeWaits st g then .next s
      else .next ((s.setStrand { st with glz := rest }).setDomain st.part { d with contrib := d.contrib ++ [(st.die, st.task, g.who)] })

/-! The barrier (R174). -/

def Domain.npart (d : Domain) : Nat := bits d.reg 48 12
def Domain.nmod (d : Domain) : Nat := bits d.reg 32 8

/-- GLAZE_BARRIER_ENTER: every contribution has come, and the buddy has acknowledged every copy (R404). -/
def execGlazeBarrierEnter (p : Nat) (s : State) : Host.Outcome State Fault Refusal :=
  let d := s.domain p
  if 64 ≤ p || !bit d.reg 63 || d.entered || s.pod.buddy != 0 || s.pod.fenced || d.contrib.length < d.npart + 1 then .next s
  else .next (s.setDomain p { d with entered := true })

/-- Modules heard from in the present step: this one, and those that the children's flits speak for (log entry 165). -/
def Domain.heard (d : Domain) : Nat := ((d.up.filter fun u => u.2.1 = d.step).map (·.2.2)).foldl (· + ·) 1
/-- The module and all below it have entered. -/
def State.allEntered (s : State) (p : Nat) : Bool :=
  let d := s.domain p
  d.entered && (s.treeChildren 3 p).all fun c => d.up.any fun u => u.1 = c.1 && u.2.1 = d.step
/-- The release has reached the module; the root gives it once it has heard from all NMOD + 1 modules. -/
def State.glazeReleased (s : State) (p : Nat) : Bool :=
  let d := s.domain p
  if s.module.toNat = d.root then s.allEntered p && decide (d.nmod + 1 ≤ d.heard) else d.released

/-- A flit goes up to the parent, or down to the child at a lane group. -/
def execBarrierFlit (p : Nat) (child : Nat) (down : Bool) (s : State) : Host.Outcome State Fault Refusal :=
  let d := s.domain p
  if down then
    if s.glazeReleased p && !d.down.contains child && (s.treeChildren 3 p).any fun c => c.1 = child then
      .next ((s.setDomain p { d with down := d.down ++ [child] }).sendFlit child (.barrier p true d.step 0) false)
    else .next s
  else
    match s.treeParent 3 p with
    | none => .next s
    | some lg =>
      if s.allEntered p && !d.sentUp then .next ((s.setDomain p { d with sentUp := true }).sendFlit lg (.barrier p false d.step d.heard) false)
      else .next s

/-! Applying the records (R175, R300). -/

/-- The format an element of a record is taken in: U64 for raw, byte by byte for the formats R175 names. -/
def glazeFmt (vc : BitVec 5) : Nat :=
  let f := vc.toNat
  if f = 0 then 13 else if f = 1 || 16 ≤ f then 3 else f
/-- Bytes of an element. -/
def fmtBytes (f : Nat) : Nat := fmtBits f / 8
/-- A record's mask names an element. -/
def GRec.hits (r : GRec) (f i : Nat) : Bool := (List.range (fmtBytes f)).any fun b => bit r.mask (i * fmtBytes f + b)
/-- The record's beat, its unmasked bytes taken from the state before. -/
def GRec.merged (r : GRec) (v0 : Beat) : Beat :=
  beatOf ((List.range 48).map fun i => BitVec.ofNat 8 (bits (if bit r.mask i then r.data else v0) (8 * i) 8))

def addCode (f a b : Nat) : Nat :=
  if isFloat f then encodeElem f .rne false (sumVals .rne [floatVal f a, floatVal f b]) else fitInt f false (intOf f a + intOf f b)
def minCode (f a b : Nat) : Nat :=
  if isFloat f then encodeElem f .rne false (minVal (floatVal f a) (floatVal f b)) else if intOf f b < intOf f a then b else a
def maxOf (f a b : Nat) : Nat :=
  if isFloat f then encodeElem f .rne false (maxVal (floatVal f a) (floatVal f b)) else if intOf f a < intOf f b then b else a
def notNaN (f c : Nat) : Bool := !(isFloat f && (floatVal f c).isNaN)

/-- The conflict rule of a page over the stores of an element: the value, and whether UNIQUE finds a conflict. CR 111 names no
rule: its value is free. -/
def storeRule (cr f free v0 : Nat) (ws : List Nat) : Nat × Bool :=
  match ws, cr with
  | [], _ => (v0, false)
  | _, 0 => (ws.getLastD v0, false)
  | _, 1 => (ws.foldl (addCode f) v0, false)
  | _, 2 => ((ws.filter (notNaN f)).foldl (minCode f) v0, false)
  | _, 3 => ((ws.filter (notNaN f)).foldl (maxOf f) v0, false)
  | _, 4 => (ws.foldl (· ||| ·) v0, false)
  | _, 5 => (ws.foldl (· &&& ·) v0, false)
  | w :: t, 6 => if t.all (· = w) then (w, false) else (v0, true)
  | _, _ => (free, false)

/-- ratm_op (R300). -/
def ratmOp (aop : BitVec 4) (f v x : Nat) : Nat :=
  match aop.toNat with
  | 1 => addCode f v x
  | 2 => v &&& x
  | 3 => v ||| x
  | 4 => v ^^^ x
  | 5 => minCode f v x
  | 6 => maxOf f v x
  | _ => v

def GRec.isStore (r : GRec) : Bool := r.aop = 0 || r.poi
/-- Origin rank (R172). -/
def GRec.le (a b : GRec) : Bool :=
  decide (a.omod.toNat < b.omod.toNat) || a.omod = b.omod && decide (a.oseq.toNat ≤ b.oseq.toNat)

/-- What the glaze makes of element i: its code, and the stores in conflict; none when nothing writes it. `recs` are in rank order. -/
def glazeElem (free : Beat) (cr f : Nat) (v0 : Beat) (recs : List GRec) (i : Nat) : Option (Option Nat × List GRec) :=
  let mine := recs.filter fun r => glazeFmt r.vc = f && r.hits f i
  if mine.isEmpty then none else
  let stores := mine.filter GRec.isStore
  let ops := mine.filter fun r => !r.isStore
  let (v1, bad) := storeRule cr f (laneCode f free i) (laneCode f v0 i) (stores.map fun r => laneCode f (r.merged v0) i)
  let v2 := ops.foldl (fun v r => ratmOp r.aop f v (laneCode f r.data i)) v1
  some (if bad && ops.isEmpty then none else some v2, if bad then stores else [])

/-- The written elements of a beat: format, element, code; and the stores in conflict with the byte of their element. -/
def glazeBeat (free : Beat) (cr : Nat) (v0 : Beat) (recs : List GRec) : List (Nat × Nat × Nat) × List (Nat × GRec) :=
  let fs := (recs.map fun r => glazeFmt r.vc).foldl addNew []
  let all := fs.flatMap fun f => (List.range (fmtLanes f)).filterMap fun i => (glazeElem free cr f v0 recs i).map fun x => (f, i, x)
  (all.filterMap fun x => x.2.2.1.map fun c => (x.1, x.2.1, c), all.flatMap fun x => x.2.2.2.map fun r => (x.2.1 * fmtBytes x.1, r))

/-- The byte a beat holds after: elements of different formats that overlap leave it free (the spec names no order). -/
def glazeByte (free : Beat) (els : List (Nat × Nat × Nat)) (b : Nat) : Option Byte :=
  match els.filter fun e => decide (e.2.1 * fmtBytes e.1 ≤ b ∧ b < (e.2.1 + 1) * fmtBytes e.1) with
  | [] => none
  | [e] => some (BitVec.ofNat 8 (e.2.2 / 256 ^ (b - e.2.1 * fmtBytes e.1)))
  | _ => some (BitVec.ofNat 8 (bits free (8 * b) 8))

/-- What a glaze has done so far. -/
structure Tally where
  confl : List GRec
  fcpa : Option Nat
  lines : List (Nat × Nat × Bool)

/-- The records of one beat are applied. -/
def State.applyBeat (s : State) (p pa : Nat) (recs : List GRec) (y : Tally) : State × Tally :=
  let a := s.frameAcc p (s.home pa)
  match s.readHome a 48 with
  | (none, s) => (s, y)
  | (some b, s) =>
    let free := s.freeBits 384
    let (els, bad) := glazeBeat free a.cr.toNat (beatOf b.bytes) recs
    let bytes := (List.range (min 48 (a.base + a.size - a.addr))).filterMap fun i => (glazeByte free els i).map fun x => (a.addr + i, x)
    let s := if bytes.isEmpty then s.spent else s.spent.writeHome 8 0 a bytes false
    let s := if recs.any fun r => r.poi && r.mask != 0 then (s.putSector (s.home a.addr) (s.home a.base + a.size) (zeros 48) false a.kidx).setPoi (s.home a.addr) true else s
    let line := a.base + (a.addr - a.base) / 192 * 192
    let s := { s with mem := { s.mem with copies := s.mem.copies.filter fun c => s.home c.addr != s.home line } }
    let at_ := bad.map fun x => pa + x.1
    (s, ⟨y.confl ++ (bad.map (·.2)).filter fun r => !y.confl.contains r,
         at_.foldl (fun o x => some (match o with | some m => min m x | none => x)) y.fcpa,
         let l := (line, min 192 (a.base + a.size - line), a.conf)
         if y.lines.contains l then y.lines else y.lines ++ [l]⟩)

def State.applyBeats (s : State) (p : Nat) (recs : List GRec) : List Nat → Tally → State × Tally
  | [], y => (s, y)
  | pa :: t, y =>
    let (s, y) := s.applyBeat p pa (recs.filter fun r => r.pa = pa) y
    s.applyBeats p recs t y

/-! GLAZE_RELEASE (R174, R396). -/

def summary (step applied confl refused : Nat) : Beat :=
  BitVec.ofNat 384 (pack [(0, 32, step), (32, 32, applied), (64, 32, confl), (96, 32, refused)])

/-- The summary reaches a contributor, at once or when its strand is restored. -/
def State.summarize (s : State) (sum : Beat) (c : Nat × Nat × Option (Node × Key × Tok)) : State :=
  if s.saved.any fun v => v.strand.is c.1 c.2.1 then
    { s with saved := s.saved.map fun v => if v.strand.is c.1 c.2.1 then { v with later := v.later ++ [.glaze c.2.2 sum] } else v }
  else match c.2.2 with
    | none => s.glazeWord c.1 c.2.1 sum
    | some (n, k, t) => s.glazeToken n k t sum

def State.releaseGlaze (s : State) (p : Nat) : State :=
  let d := s.domain p
  let par := parityOf d.step
  let recs := insSort GRec.le (s.pod.records.filter fun r => r.dom = p && parityOf r.step = par)
  let (s, y) := s.applyBeats p recs ((recs.map (·.pa)).foldl addNew []) ⟨[], none, []⟩
  let refused := ((List.range 8).map fun e => Tab.get 0 (refusedKey e par) d.refused).foldl (· + ·) 0
  let frpa := Tab.find par d.frpa
  let status : BitVec 128 := BitVec.ofNat 128 (pack
    [(76, 52, y.fcpa.getD 0), (24, 52, frpa.getD 0), (1, 1, b2n y.fcpa.isSome), (0, 1, b2n frpa.isSome)])
  let sum := summary d.step.toNat (recs.length - y.confl.length) y.confl.length refused
  let s := ((s.treeChildren 3 p).filter fun c => !d.down.contains c.1).foldl (fun (s : State) c => s.sendFlit c.1 (.barrier p true d.step 0) false) s
  let s := s.setDomain p { (s.domain p) with
    reg := setBits d.reg 0 32 (d.step.toNat + 1), status := status, contrib := [], entered := false, sentUp := false, released := false,
    down := [], up := d.up.filter (fun u => u.2.1 != d.step), oseq := Tab.del d.step.toNat d.oseq,
    refused := d.refused.filter (fun x => x.1 % 2 != par), frpa := Tab.del par d.frpa }
  let s := { s with pod := { s.pod with records := s.pod.records.filter fun r => !(r.dom = p && parityOf r.step = par) } }
  let s := if bit s.pod.recovery 63 then s.copyToBuddy y.lines else s
  d.contrib.foldl (fun (s : State) c => s.summarize sum c) s

def execGlazeRelease (p : Nat) (s : State) : Host.Outcome State Fault Refusal :=
  let ready := (s.pod.records.filter fun r => r.dom = p && parityOf r.step = parityOf (s.domain p).step).all fun r =>
    s.memReady (s.frameAcc p (s.home r.pa))
  if (s.domain p).entered && s.glazeReleased p && ready then .next (s.releaseGlaze p) else .next s

end Sys2Proof.Machine
end

