-- ==== Sys2Proof/Machine/Collective.lean ====
section
/-! DEFINITION. The collective engine (R176, R298, R410): COLLECTIVE_CONTRIBUTION and COLLECTIVE_RESULT. An event whose condition
does not hold changes nothing. -/

namespace Sys2Proof.Machine

/-! One addition of two vectors (R90, R91). -/

/-- A lane of SUM (0), MIN (1) or MAX (2) in a VC entry's format, rounding and saturation. -/
def collLane (e : BitVec 32) (op a b : Nat) : Nat :=
  let f := fmtOf e
  if isFloat f then
    let sc := fun (x : Val) => if isScaled f then x.scaled (scaleOf e) else x
    let r := if op = 0 then sumVals (rndOf e) [sc (floatVal f a), sc (floatVal f b)]
      else if op = 1 then minVal (sc (floatVal f a)) (sc (floatVal f b)) else maxVal (sc (floatVal f a)) (sc (floatVal f b))
    encodeElem f (rndOf e) (satOf e) (if isScaled f then r.unscaled (scaleOf e) else r)
  else if op = 0 then fitInt f (satOf e) (intOf f a + intOf f b)
  else if op = 1 then (if intOf f b < intOf f a then b else a)
  else (if intOf f a < intOf f b then b else a)
def collBeat (e : BitVec 32) (op : Nat) (a b : Beat) : Beat :=
  packLanes (fmtOf e) ((List.range (fmtLanes (fmtOf e))).map fun i => collLane e op (laneCode (fmtOf e) a i) (laneCode (fmtOf e) b i))

/-- R201: the operation of FN, and the confidential bit. -/
def collOp (fn : BitVec 6) : Nat := bits fn 0 2
def collConf (fn : BitVec 6) : Bool := bit fn 5

/-- Own vector, then the children's in ascending module id, each beat under its own entry. -/
def Coll.total (c : Coll) (peerOf : Nat → Nat) (own : List Tok) : List Beat :=
  (insSort (fun a b => decide (peerOf a.1 ≤ peerOf b.1)) c.kids).foldl
    (fun acc k => ((acc.zip k.2).zip c.ents).map fun x => collBeat x.2 (collOp c.fn) x.1.1 x.1.2) (own.map (·.data))

/-! COLLECTIVE_CONTRIBUTION (R176). -/

def State.setColl (s : State) (n : Nat) (c : Coll) : State := { s with eng := { s.eng with colls := upd (fun _ => c) n s.eng.colls } }
/-- The root's result goes down to every child; a dropped round sends no beats. -/
def State.collDown (s : State) (c : Coll) (beats : List Beat) (ok : Bool) : State :=
  (s.treeChildren 2 c.part).foldl (fun (s : State) l => s.sendFlit l.1 (.collDown c.part c.id beats ok) (collConf c.fn)) s

/-- Own vector and every child's have come: the sum goes up, or, at the root, the result goes down. A vector that does not agree
goes up as an empty one (R410). -/
def execCollectiveContribution (n : Nat) (s : State) : Host.Outcome State Fault Refusal :=
  match s.eng.colls[n]? with
  | none => .next s
  | some c =>
    match c.own with
    | none => .next s
    | some own =>
      if c.sent || !((s.treeChildren 2 c.part).all fun l => c.kids.any fun k => k.1 = l.1) then .next s else
      let peerOf := fun (lg : Nat) => bits (Tab.get {} lg s.pod.links).word 49 8
      let beats := if c.bad then [] else c.total peerOf own
      match s.treeParent 2 c.part with
      | some lg =>
        .next ((s.setColl n { c with sent := true }).sendFlit lg
          (.collUp c.part c.id c.fn (BitVec.ofNat 5 (fmtOf c.fmt)) beats) (collConf c.fn))
      | none =>
        if s.module.toNat != (s.domain c.part).root then .next s
        else .next ((s.setColl n { c with sent := true, result := some beats }).collDown c beats (!c.bad))

/-! COLLECTIVE_RESULT (R298, R410). -/

/-- The late tokens of a result: one beat per SEQ, LAST on the last; NIL when the round was dropped. -/
def collOuts (own : List Tok) (beats : List Beat) : List Out :=
  (List.range own.length).map fun i =>
    let t := own.getD i {}
    outBoth { t with seq := BitVec.ofNat 16 i, data := beats.getD i 0, age := 0,
                     fl := { last := decide (i + 1 = own.length), nil := beats.isEmpty } }

def execCollectiveResult (n : Nat) (s : State) : Host.Outcome State Fault Refusal :=
  match s.eng.colls[n]? with
  | none => .next s
  | some c =>
    match c.result, c.own with
    | some beats, some own =>
      let s := { s with eng := { s.eng with colls := drop1 n s.eng.colls } }
      let s := if beats.isEmpty then
          s.report { c.loc with cause := 0x37, code := 0x11FD } c.part .only
        else s
      .next (s.respond c.node c.key (collOuts own beats) true)
    | _, _ => .next s

/-! What arrives from other modules. -/

/-- The open round of an ID that has no vector of this child yet, or a new one. -/
def State.collUp (s : State) (lg p id : Nat) (fn : BitVec 6) (vc : BitVec 5) (beats : List Beat) : State :=
  let fits := fun (c : Coll) => c.part = p && c.id = id && !c.sent && !(c.kids.any fun k => k.1 = lg)
  match s.eng.colls.findIdx? fits with
  | some n =>
    let c := s.eng.colls.getD n ⟨p, id, fn, 0, vc, [], none, Node.zero, Key.zero, [], false, false, none, Loc.none⟩
    let differs := c.fn != fn || fmtOf c.fmt != vc.toNat || (match c.own with | some o => o.length != beats.length | none => false) ||
      c.kids.any fun k => k.2.length != beats.length
    s.setColl n { c with kids := c.kids ++ [(lg, beats)], bad := c.bad || differs || beats.isEmpty }
  | none =>
    let c : Coll := ⟨p, id, fn, setBits (0 : BitVec 32) 27 5 vc.toNat, vc, [], none, Node.zero, Key.zero, [(lg, beats)], beats.isEmpty, false, none, Loc.none⟩
    { s with eng := { s.eng with colls := s.eng.colls ++ [c] } }
/-- The root's result: kept for this module's node, and passed down. -/
def State.collDownAt (s : State) (p id : Nat) (beats : List Beat) (ok : Bool) : State :=
  match s.eng.colls.findIdx? fun c => c.part = p && c.id = id && c.sent && c.result.isNone with
  | some n =>
    let c := s.eng.colls.getD n ⟨p, id, 0, 0, 0, [], none, Node.zero, Key.zero, [], false, false, none, Loc.none⟩
    let b := if ok then beats else []
    (s.setColl n { c with result := some b }).collDown c b ok
  | none => s

end Sys2Proof.Machine
end

