-- ==== Sys2Proof/Machine/Links.lean ====
section
/-! DEFINITION. Lane groups, peers and recovery (R165 to R169, R398 to R400, R403 to R405): FLIT_RECEIVE, LANE_RETRAIN,
RETRAIN_COMPLETE, HEARTBEAT_SEND, PEER_FAILURE_DETECT, RECOVERY. An event whose condition does not hold changes nothing. -/

namespace Sys2Proof.Machine

/-- One millisecond and twenty, in cycles (R5). -/
def msCycles : Nat := 1300000
/-- The marks of the last millisecond, this one among them. -/
def State.recent (s : State) (l : List Nat) : List Nat := l.filter (fun t => decide (s.host.time.toNat < t + msCycles)) ++ [s.host.time.toNat]

/-- A lane group's counter, saturating (R291). -/
def State.countLink (s : State) (lg i : Nat) : State :=
  let v := Tab.get 0 (linkKey lg i) s.eng.links
  { s with eng := { s.eng with links := Tab.put 0 (linkKey lg i) (if v = BitVec.allOnes 64 then v else v + 1) s.eng.links } }

/-! Dropped flits (R398 to R400). -/

/-- The receiver asks for a replay from the SEQ it expects: the request goes out before the messages that wait (log entry 149). -/
def State.askReplay (s : State) (lg : Nat) : State :=
  let l := s.link lg
  let ask := (FlitBody.replay (BitVec.ofNat 16 l.rx.toNat), false)
  let cut := if l.cut = 0 then 0 else 1
  s.setLink lg { l with wait := if l.wait.contains ask then l.wait else l.wait.take cut ++ ask :: l.wait.drop cut }
/-- The sender sends its kept flits again, from the one that has that SEQ. -/
def Link.rewind (l : Link) (seq : BitVec 16) : Link :=
  match (List.range l.kept.length).find? fun i => BitVec.ofNat 16 (l.tx.toNat - (i + 1)) = seq with
  | some i => { l with replay := i + 1 }
  | none => l

/-- The binding's V bit clears, what it holds waits for its pair to be bound anew, and its die reports. -/
def State.loseLink (s : State) (lg : Nat) (cause : BitVec 8) (code : Nat) : State :=
  let l := s.link lg
  let s := s.setLink lg { l with word := setBits l.word 63 1 0, kept := [], replay := 0, again := [], wait := [], cut := 0, got := [],
                                 clear := false, training := false, failed := 0, drops := [], replays := [] }
  let s := { s with pod := { s.pod with lost := s.pod.lost ++ [l] } }
  s.report { kind := 1, cause := cause, code := code, die := bits l.word 36 3, detail := l.word.toNat } (bindPart l.word) (.peer lg)

/-- A flit that fails its check, or that carries confidential bytes in the clear: counted, asked for again; more than 16 within 1 ms
disable the binding, and Tchizer reports it. -/
def State.dropFlit (s : State) (lg code : Nat) : State :=
  let l := s.link lg
  let d := s.recent l.drops
  let s := { s with host := { s.host with log := Tab.put 0 lg (Tab.get 0 lg s.host.log + 1) s.host.log } }
  if 16 < d.length then
    ({ s with host := { s.host with reports := s.host.reports ++ [(bindPart l.word, code)] } } : State).loseLink lg 0x43 code
  else (s.setLink lg { l with drops := d }).askReplay lg

/-- Bytes or an address of a page with C = 1 (R168). -/
def State.carriesSecret (s : State) (p : Nat) (peer : BitVec 8) : FlitBody → Bool
  | .read _ pa _ _ => s.confidential p s.module pa
  | .record _ r => s.confidential p s.module (bits r 0 52)
  | .ship _ _ pas => pas.any (s.confidential p s.module)
  | .buddy pa place _ _ =>
    (List.range 64).any fun q => bit (s.partEntry q) 0 && s.confidential q (if place = pa then s.module else peer) pa
  | .readAnswer rid _ _ => s.pod.remotes.any fun r => r.rid = rid && r.conf
  | .accepted rid _ _ _ => s.pod.remotes.any fun r => r.rid = rid && r.conf
  | .rows rid _ => s.eng.rows.any fun r => r.remote = some (rid, true)
  | .fetched _ (some x) => x.2.headD 0 = 1
  | _ => false

/-! Messages and flits (R6, R167; log entry 149). -/

/-- The payloads of a message's flits, 48 bytes each: one at least. -/
def payloadsOf (b : FlitBody) : List Beat := if (Config.payloads b).isEmpty then [0] else Config.payloads b
/-- What PMAC covers: the payload, SEQ, CIPH, LAST and CRD. -/
def bareFlit (f : Flit) : Flit := { f with fecOk := true, fec := 0, pmac := 0 }

/-- The GCM nonce of a flit (R167): its lane group, its direction (1: received here) and the counter. -/
def linkNonce (lg dir counter : Nat) : Nat := pack [(0, 64, counter), (64, 1, dir), (65, 7, lg)]
def flitNonce (lg counter : Nat) : Nat := linkNonce lg 1 counter

/-! Using a flit (R165, R169, R151, R174, R176, R403, R404). -/

/-- Classes of the bindings a flit belongs to. -/
def flitClasses : FlitBody → List Nat
  | .read .. => [0]
  | .readAnswer .. => [0]
  | .record .. => [0, 1]
  | .accepted .. => [0, 1]
  | .ship .. => [1]
  | .rows .. => [1]
  | .collUp .. => [2]
  | .collDown .. => [2]
  | .barrier .. => [3]
  | .heartbeat => [3]
  | .fence => [3]
  | .buddy .. => [4]
  | .buddyAck => [4]
  | .buddyStep .. => [4]
  | .replay _ => [0, 1, 2, 3, 4]
  | .fetch .. => [0]
  | .fetched .. => [0]
  | .unfeed .. => [0]
  | .offer .. => [0]

def GRec.ofBits (v : BitVec 768) (die : Nat) : GRec :=
  ⟨v.extractLsb' 384 384, bit v 338, bits v 332 6, v.extractLsb' 240 48, v.extractLsb' 236 4, v.extractLsb' 231 5, v.extractLsb' 192 8,
   v.extractLsb' 160 32, v.extractLsb' 128 32, bits v 0 52, die⟩

/-- The data token of an answer: the old word of an ATOM, or a beat with every lane valid. -/
def State.answerTok (s : State) (n : Node) (t : Tok) (data : Beat) (poi : Bool) : Tok :=
  let w := s.wordAt n
  let f := s.fmtAt n t.vc
  let t := if opcode w = 0x87 then { t with data := BitVec.ofNat 384 (data.toNat % 2 ^ (if bit w 54 then 64 else 32)), nlane := 0 }
    else { t with data := data, nlane := allLanes f }
  let t := { t with fl := { t.fl with poi := poi } }
  { t with fl := crumbFlags f t }

/-- What a record's destination holds, from the lowest byte it names; an atomic finds the errors of its sector. -/
def State.oldBeat (s : State) (g : GRec) : Bytes × State :=
  let a := s.frameAcc g.dom (s.home g.pa)
  if g.aop = 0 then (⟨(s.physBytes (s.home a.base) (s.home a.addr) 48).drop (lowByte g.mask), false⟩, s)
  else match s.readHome a 48 with
    | (some b, s) => (⟨b.bytes.drop (lowByte g.mask), b.poi⟩, s)
    | (none, s) => (⟨zeros 48, true⟩, s)

/-- A beat read for another module. -/
def State.readFor (s : State) (p pa : Nat) : (Beat × Bool) × Bool × State :=
  let a := s.frameAcc p (s.home pa)
  match s.readHome a 48 with
  | (some b, s) => ((beatOf b.bytes, b.poi), a.conf, s)
  | (none, s) => ((0, true), a.conf, s)
def State.readAllFor (s : State) (p : Nat) : List Nat → List (Beat × Bool) × Bool × State
  | [] => ([], false, s)
  | pa :: t =>
    let (b, c, s) := s.readFor p pa
    let (l, d, s) := s.readAllFor p t
    (b :: l, c || d, s)

/-- The answer to an RLD, RST, RATM, atomic or store of this module. -/
def State.answerRemote (s : State) (rid : Nat) (refused : Bool) (data : Beat) (poi : Bool) : State :=
  match s.pod.remotes.find? fun r => r.rid = rid with
  | none => s
  | some r =>
    let s := { s with pod := { s.pod with remotes := s.pod.remotes.filter fun x => x.rid != rid } }
    let d := if r.kind = 1 then r.tok else s.answerTok r.node r.tok data poi
    if r.kind = 0 then s
    else if r.kind = 4 then s.respond r.node r.key [outA d, outB (completion r.tok false)] false
    else s.respond r.node r.key (sentOuts r.kind r.tok d refused) r.late

/-- A row that another module has gathered; its crumb lanes show as in a row read here (R82). -/
def State.rowCame (s : State) (rid : Nat) (b : Beat × Bool) (r : Row) : Row :=
  match r.remote with
  | some (q, _) =>
    if q = rid then
      let t := { r.out.tok with data := b.1, fl := { r.out.tok.fl with poi := b.2 } }
      { r with remote := none, out := { r.out with tok := { t with fl := crumbFlags (s.fmtAt r.node t.vc) t } } }
    else r
  | none => r

/-- A copied line is written: in the copy area as plain bytes, or in its own page, with its poison. -/
def State.putCopy (s : State) (pa place : Nat) (bytes : List Byte) (poi : List Nat) (ciph : Bool) : State :=
  if place = pa then
    let a := s.sharedAcc pa
    let bad := fun (i : Nat) => poi.contains (i / 48 * 48)
    let s := s.writeHome 8 0 a (((List.range bytes.length).filter fun i => !bad i).map fun i => (pa + i, bytes.getD i 0)) false
    let spoilt := ((List.range bytes.length).filter bad).map fun i => (pa + i, (0 : Byte))
    if spoilt.isEmpty then s else s.writeHome 8 0 a spoilt true
  else { s with mem := { s.mem with phys := memWrite s.mem.phys place bytes }
                pod := { s.pod with copies := Tab.ins pa (place, bytes.length, ciph, poi) s.pod.copies } }

/-- A message is used on its binding; `ciph`: it came as ciphertext. An arriving record's home die is the LDIE of this module's own binding word,
and the same word serves its requests the other way (log entry 183). While the module is fenced no record is taken (R405). -/
def State.useMessage (s : State) (lg p : Nat) (ciph : Bool) (b : FlitBody) : State :=
  match b with
  | .read rid pa _ _ =>
    let (b, c, s) := s.readFor p pa
    s.sendFlit lg (.readAnswer rid b.1 b.2) c
  | .readAnswer rid data poi => s.answerRemote rid false data poi
  | .record rid r =>
    if s.pod.fenced then s else
    let g := { GRec.ofBits r (bits (s.link lg).word 36 3) with dom := p }
    let (old, s) := s.oldBeat g
    let (refused, s) := s.accept g
    s.sendFlit lg (.accepted rid refused (beatOf old.bytes) old.poi) ciph
  | .accepted rid refused old poi => s.answerRemote rid refused old poi
  | .ship rid _ pas =>
    let (l, c, s) := s.readAllFor p pas
    s.sendFlit lg (.rows rid l) c
  | .rows rid beats =>
    { s with eng := { s.eng with rows := s.eng.rows.map (s.rowCame rid (beats.headD (0, false))) } }
  | .barrier _ down step mods =>
    let d := s.domain p
    if down then (if d.step == step && s.treeParent 3 p == some lg then s.setDomain p { d with released := true } else s)
    else s.setDomain p { d with up := d.up ++ [(lg, step, mods)] }
  | .collUp _ id fn vc beats => s.collUp lg p id fn vc beats
  | .collDown _ id beats ok => s.collDownAt p id beats ok
  | .heartbeat => { s with pod := { s.pod with heard := Tab.del (bits (s.link lg).word 49 8) s.pod.heard } }
  | .fence => s.passFenceFlit lg
  | .buddy pa place bytes poi => (s.putCopy pa place bytes poi ciph).sendFlit lg .buddyAck false
  | .buddyAck => { s with pod := { s.pod with buddy := s.pod.buddy - 1 } }
  | .buddyStep q step back =>
    if back then s.setDomain q { s.domain q with reg := setBits (s.domain q).reg 0 32 step.toNat }
    else { s with pod := { s.pod with copySteps := Tab.put 0 q step s.pod.copySteps } }
  | .replay seq => s.setLink lg ((s.link lg).rewind seq)
  | .fetch rid gid inst rank =>
    let x := (s.ofGid gid).bind fun key => s.feedAnswer key inst rank
    s.sendFlit lg (.fetched rid x) (x.any fun y => y.2.headD 0 = 1)
  | .fetched rid res => s.fetchCame rid res
  | .unfeed gid inst => (match s.ofGid gid with
    | some key => s.releaseFeed key inst
    | none => s)
  | .offer gid treg val => (match s.ofGid gid with
    | some key => { s with mat := { s.mat with offers := s.mat.offers ++ [⟨key / 4096, key / 64 % 64, treg, val, none, 8, 0, none⟩] } }
    | none => s)

/-- A read for another module in its step: memory that is not usable yet waits (R350), and a step-shared page whose last glaze has not been
applied here (R163, R164). -/
def State.readWaits (s : State) (p pa : Nat) (step : BitVec 32) : Bool :=
  let a := s.frameAcc p (s.home pa)
  !s.memReady a || a.ss && step = (s.domain p).step + 1
/-- A flit that cannot be used yet stays where it came in. -/
def State.flitWaits (s : State) (p : Nat) : FlitBody → Bool
  | .read _ pa _ step => s.readWaits p pa step
  | .ship _ step pas => pas.any fun pa => s.readWaits p pa step
  | .record _ r => if bits r 236 4 = 0 then !s.memReady (s.frameAcc p (s.home (bits r 0 52))) else s.readWaits p (bits r 0 52) (r.extractLsb' 128 32)
  | _ => false

/-- The payload of a flit received on a binding, in the clear. -/
def State.opened (s : State) (lg : Nat) (f : Flit) : Beat :=
  let l := s.link lg
  if f.ciph then f.payload ^^^ Config.keystream (Tab.get 0 (bindPart l.word) s.host.linkKeys) (flitNonce lg l.rx.toNat) else f.payload

/-- A verified flit: the counters, the credits that come back, the receive entry it frees, its payload in the message under way, and the
link's counters. -/
def State.takeFlit (s : State) (lg : Nat) (f : Flit) : State :=
  let l := s.link lg
  let kept := l.kept.drop f.crd.toNat
  let s := s.setLink lg { l with
    rx := l.rx + 1, credits := min 64 (l.credits + f.crd.toNat), kept := kept, replay := min l.replay kept.length
    owed := l.owed + 1, got := if f.last then [] else l.got ++ [s.opened lg f], clear := !f.last && (l.clear || !f.ciph) }
  let s := s.countLink lg 1
  if f.ciph then s.countLink lg 3 else s

/-- The message that the flit completes, of its binding's class; none when its payloads are no message. -/
def State.completed (s : State) (lg : Nat) (f : Flit) : Option FlitBody :=
  let cls := bits (s.link lg).word 33 3
  (Config.message cls ((s.link lg).got ++ [s.opened lg f])).filter fun b => (flitClasses b).contains cls

/-- The last flit of a message: dropped when the message came in the clear and carries confidential bytes, left where it came in while the
message cannot be used yet. -/
def State.endMessage (s : State) (lg : Nat) (f : Flit) : State :=
  let l := s.link lg
  let p := bindPart l.word
  let clear := l.clear || !f.ciph
  match s.completed lg f with
  | none => s.takeFlit lg f
  | some b =>
    if clear && s.carriesSecret p (l.word.extractLsb' 49 8) b then s.dropFlit lg 2
    else if s.flitWaits p b then s
    else (s.takeFlit lg f).useMessage lg p (!clear) b

def execFlitReceive (lg : Nat) (f : Flit) (s : State) : Host.Outcome State Fault Refusal :=
  let l := s.link lg
  let p := bindPart l.word
  if !bit l.word 63 || l.training || !bit s.host.ready (47 + lg / 9) then .next s
  else if !f.fecOk || f.seq.toNat != l.rx.toNat % 65536 then .next (s.askReplay lg)
  else if f.pmac != Config.pmac (Tab.get 0 p s.host.linkKeys) (flitNonce lg l.rx.toNat) (bareFlit f) then .next (s.dropFlit lg 1)
  else .next (if f.last then s.endMessage lg f else s.takeFlit lg f)

/-! Retraining (R398, R399). -/

def execLaneRetrain (lg : Nat) (s : State) : Host.Outcome State Fault Refusal :=
  let l := s.link lg
  .next (if bit l.word 63 then s.setLink lg { l with training := true } else s)

/-- Lock is regained, and kept flits go out again, since what was on the lanes is lost (log entry 149); or the attempt fails: three
failures in a row fail the lane group. -/
def execRetrainComplete (lg : Nat) (ok : Bool) (s : State) : Host.Outcome State Fault Refusal :=
  let l := s.link lg
  if !l.training then .next s
  else if ok then .next (s.setLink lg { l with training := false, failed := 0, replays := [], replay := l.kept.length })
  else if 2 ≤ l.failed then .next (s.loseLink lg 0x42 lg)
  else .next (s.setLink lg { l with failed := l.failed + 1 })

/-! Heartbeats (R403). -/

def execHeartbeatSend (s : State) : Host.Outcome State Fault Refusal :=
  .next (s.pod.links.foldl (fun (s : State) l =>
    if bit l.2.word 63 && bits l.2.word 33 3 = 3 then s.sendFlit l.1 .heartbeat false else s) s)

def execPeerFailureDetect (peer : Nat) (s : State) : Host.Outcome State Fault Refusal :=
  if Tab.get 0 peer s.pod.heard < 20 * msCycles || s.pod.peersFailed.contains peer then .next s else .next (s.declareFailed peer)

/-! Recovery (R405). -/

/-- The job's strands freeze, and what the glaze buffers hold is gone. -/
def State.fenceJob (s : State) : State :=
  let active := fun (p : Nat) => bit (s.domain p).reg 63
  let cut := fun (d : Domain) => { d with contrib := [], entered := false, up := [], down := [], sentUp := false, released := false, oseq := [], refused := [], frpa := [] }
  let stays := fun (b : FlitBody × Bool) => match b.1 with | .record _ r => !active (bits r 332 6) | _ => true
  { s with
    strands := s.strands.map fun (st : Strand) => if active st.part then { st with frozen := true, glz := [] } else st
    mem := { s.mem with pend := s.mem.pend.filter fun p => !(p.eff.isShared && active p.part) }
    eng := { s.eng with queues := s.eng.queues.map fun q =>
      (q.1, q.2.filter fun e => match e with | .op _ _ _ part _ _ _ _ _ _ => !active part | .fence _ => true) }
    pod := { s.pod with
      links := s.pod.links.map fun l =>
        (l.1, { l.2 with wait := (l.2.wait.take (min 1 l.2.cut)) ++ (l.2.wait.drop (min 1 l.2.cut)).filter stays })
      lost := s.pod.lost.map fun l => { l with wait := (l.wait.take (min 1 l.cut)) ++ (l.wait.drop (min 1 l.cut)).filter stays }
      records := s.pod.records.filter fun r => !active r.dom
      sent := s.pod.sent.filter fun x => !active x.grec.dom
      domains := s.pod.domains.map fun d => (d.1, if bit d.2.reg 63 then cut d.2 else d.2) } }

/-- A strand is relaunched from its task entry. -/
def State.relaunch (s : State) (die task : Nat) : State :=
  let s := match s.strand die task with | some st => s.removeStrand st | none => s
  let s := match s.savedOf die task with | some v => s.dropSaved v | none => s
  s.queueReady die (s.launchRecord die task)

/-- The copy a buddy holds, and STEP of each domain, go to the spare, over the binding from which the copies came, in the clear as they
came or not (R168). -/
def State.sendCopies (s : State) : State :=
  match s.pod.links.find? fun l => bit l.2.word 63 && bits l.2.word 33 3 = 4 && bits l.2.word 49 8 != bits s.pod.recovery 48 8 with
  | none => s
  | some g =>
    let s := s.pod.copies.foldl (fun (s : State) c =>
      s.sendFlit g.1 (.buddy c.1 c.1 (memRead s.mem.phys c.2.1 c.2.2.1) c.2.2.2.2) c.2.2.2.1) s
    s.pod.copySteps.foldl (fun (s : State) d => s.sendFlit g.1 (.buddyStep d.1 d.2 true) false) s

/-- RECOVERY: its steps while the pod is fenced. -/
def execRecovery (r : RecoveryStep) (s : State) : Host.Outcome State Fault Refusal :=
  if !s.pod.fenced then .next s else
  match r with
  | .fence => .next s.fenceJob
  | .remap lmod =>
    let s := if bit s.pod.recovery 62 then
        { s with pod := { s.pod with recovery := setBits (setBits s.pod.recovery 40 8 lmod.toNat) 62 1 0 } } else s
    .next (if bit s.pod.recovery 63 then s.copyToBuddy s.sharedLines else s)
  | .reload die task => .next (s.relaunch die task)
  | .restore => .next s.sendCopies
  | .resume => .next ({ s with pod := { s.pod with fenced := false, peersFailed := [] } } : State).retryPorts

end Sys2Proof.Machine
end

