-- ==== Sys2Proof/Machine/FaultEvents.lean ====
section
/-! DEFINITION. Faults as they happen (R353 to R357, R367 to R370): FAULT_TAKES_EFFECT, FAULT_RECORD_WRITE, BACK_PRESSURE_CHECK,
TAG_WAIT_BOUND. An event whose condition does not hold changes nothing. -/

namespace Sys2Proof.Machine

/-! FAULT_TAKES_EFFECT (R353 to R355): taking an exact fault. -/

/-- The lowest LVL, then the lowest index. -/
def FaultReg.le (a b : FaultReg) : Bool :=
  decide (a.key.lvl.toNat < b.key.lvl.toNat) || a.key.lvl = b.key.lvl && decide (a.node.index ≤ b.node.index)

/-- The strand freezes where it stands; its record is asked for. -/
def State.takeEffect (s : State) (st : Strand) (r : FaultReg) : State :=
  let l : Loc := { s.locOf st r.node r.key with
    kind := 0, cause := r.cause, code := r.code.toNat, addr := r.addr, wave := r.wave.toNat, detail := r.detail.toNat }
  (s.setStrand { st with frozen := true }).report l st.part (.exact st.die st.task r.node r.key)

def execFaultTakesEffect (die task : Nat) (s : State) : Host.Outcome State Fault Refusal :=
  match s.strand die task with
  | none => .next s
  | some st =>
    match st.frozen, insSort FaultReg.le (s.effective st) with
    | false, r :: _ => .next (s.takeEffect st r)
    | _, _ => .next s

/-! FAULT_RECORD_WRITE (R354, R357). -/

/-- What the frozen strand had on its way has landed, and the held effects of its committed instances have performed, but for those that
nothing can let go while it is frozen. -/
def State.landed (s : State) (st : Strand) : Bool :=
  !(s.fab.net.any fun x => st.has x.tok.node.ctx) && !(s.mem.resp.any fun r => st.has r.node.ctx) &&
  !(s.mem.pend.any fun p => p.die = st.die && p.task = st.task && !s.stays st p) &&
  !(s.mat.portq.any fun q => st.has q.node.ctx) && !(s.pages.seqq.any fun q => st.has q.node.ctx && q.task = st.task) &&
  !(s.mat.offers.any fun o => o.die0 = st.die && o.task = st.task && o.who.isNone) && !(s.mat.merging.any fun x => st.has x.node.ctx) &&
  !(s.sch.prioq.any fun p => p.ctxs.any st.has) && !s.engineBusy st &&
  !(s.pod.sent.any fun x => st.has x.node.ctx) && !(s.pod.remotes.any fun x => st.has x.node.ctx) &&
  !(s.eng.streams.any fun e => e.1 / 1024 = st.die && st.wafers.contains (e.1 / 16 % 64) && e.2.task = st.task && !e.2.returns.isEmpty)

/-- The record that the fault would take is open, in the ring or, when that cannot take it, as the host fault record; or its memory is not
usable yet. -/
def State.recordWaits (s : State) (r : RecReq) : Bool :=
  (s.ringNext r.die r.part).any (s.partWaits r.part) ||
  (match s.nextRecord r.die r.part with
   | some va => s.recordSt r.die r.part (some va) = 1
   | none => false) || ((s.recordPlace r).isNone && s.recordSt r.die r.part none = 1)

def execFaultRecordWrite (n : Nat) (s : State) : Host.Outcome State Fault Refusal :=
  match s.flt.reqs[n]? with
  | none => .next s
  | some r =>
    let out := { s with flt := { s.flt with reqs := drop1 n s.flt.reqs } }
    match r.subject with
    | .exact die task node key =>
      match s.strand die task with
      | none => .next out
      | some st => if !s.landed st || s.recordWaits r then .next s else .next (out.writeRecord r (s.mayRerun die task node key))
    | _ => if s.recordWaits r then .next s else .next (out.writeRecord r false)

/-! BACK_PRESSURE_CHECK (R367, R368). -/

def stallCur (v : BitVec 64) : Nat := bits v 62 2
def stallRun (v : BitVec 64) : Nat := bits v 44 17
/-- A node whose output latch has been full for 65,536 cycles. -/
def State.pressed (s : State) (n : Node) : Bool :=
  let v := Tab.get 0 n.num s.fab.stall
  stallCur v = 2 && decide (65536 ≤ stallRun v)
/-- A token-FIFO cell whose bank entries are all in use (R44). -/
def State.bankFull (s : State) (n : Node) : Bool := s.fifo n && !s.fifoRoom n

/-- Consumers of a node: index and slot. -/
def consumers (w : BitVec 64) : List (Nat × Nat) := targetsOf (Hd.ofWord w) ⟨true, true, {}⟩

/-- The closed walks from a node over pressed nodes of its context of higher index: each node with the slot it feeds. -/
def State.ringsFrom (s : State) (c : Ctx) (start : Nat) : Nat → List Nat → Nat → List (List (Nat × Nat))
  | 0, _, _ => []
  | f + 1, seen, i =>
    (consumers (s.wordAt ⟨c, i⟩)).flatMap fun d =>
      if s.fifo ⟨c, d.1⟩ && !s.bankFull ⟨c, d.1⟩ then []
      else if d.1 = start then [[(i, d.2)]]
      else if d.1 < start || seen.contains d.1 || !s.pressed ⟨c, d.1⟩ then []
      else (s.ringsFrom c start f (d.1 :: seen) d.1).map fun l => (i, d.2) :: l

/-- The RING entries of beat 1 [383:192] and beat 2. -/
def State.ringDetail (s : State) (c : Ctx) (ring : List (Nat × Nat)) : Nat :=
  pack ((List.range (min 36 ring.length)).flatMap fun j =>
    let x := ring.getD j (0, 0)
    let next := (ring.getD ((j + 1) % ring.length) (0, 0)).1
    [(16 * j, 7, x.1), (16 * j + 12, 1, b2n (s.bankFull ⟨c, next⟩)), (16 * j + 13, 2, x.2), (16 * j + 15, 1, 1)])

/-- Report a ring, listed from its lowest index, unless it is known. -/
def State.reportRing (s : State) (st : Strand) (c : Ctx) (ring : List (Nat × Nat)) : State :=
  let nodes := ring.map fun x => Node.mk c x.1
  if s.flt.rings.contains nodes then s else
  let n : Node := nodes.headD ⟨c, 0⟩
  let d := s.ringDetail c ring
  let k := ((s.fab.latch.find? fun x => x.node = n).map (·.key)).getD Key.zero
  let s := { s with flt := { s.flt with rings := s.flt.rings ++ [nodes] } }
  s.report { s.locOf st n k with cause := 0x12, code := ring.length, detail1 := d % 2 ^ 192, detail := d / 2 ^ 192 }
    st.part (.ring st.die st.task)
/-- The rings of a context that have this node as their lowest index. -/
def State.reportRings (s : State) (st : Strand) (c : Ctx) (i : Nat) : State :=
  if !s.pressed ⟨c, i⟩ then s else (s.ringsFrom c i 128 [i] i).foldl (fun (s : State) r => s.reportRing st c r) s

/-- A wafer is examined again 4,096 cycles after its last check; where in the period its first check falls is free (log entry 103). -/
def State.checkOpen (s : State) (die wafer : Nat) : Bool :=
  match Tab.find (waferKey die wafer) s.flt.checks with
  | some t => decide (t + 4096 ≤ s.host.time.toNat)
  | none => true
/-- The check has to come in this cycle. -/
def State.checkDue (s : State) (die wafer : Nat) : Bool := s.checkOpen die wafer && decide (4096 ≤ s.host.time.toNat)

def execBackPressureCheck (die wafer : Nat) (s : State) : Host.Outcome State Fault Refusal :=
  if !s.checkOpen die wafer then .next s else
  .next ((List.range 4).foldl (fun (s : State) x =>
    let c : Ctx := ⟨die, wafer, x⟩
    match s.strandOf c with
    | none => s
    | some st => (List.range 128).foldl (fun (s : State) i => s.reportRings st c i) s)
    { s with flt := { s.flt with checks := Tab.put 0 (waferKey die wafer) s.host.time.toNat s.flt.checks } })

/-! TAG_WAIT_BOUND (R369, R370). -/

def boundOn (v : BitVec 64) (waited : Nat) : Bool := bit v 63 && decide (bits v 0 32 < waited)

/-- CODE and DETAIL of cause 0x13: the level's free tags, and the oldest live tag of the enclosing level. -/
def State.tagReport (s : State) (st : Strand) (l : Nat) (tagf : Bool) (above : Option Key) (n : Node) (k : Key) (wave : BitVec 16) : State :=
  let used := st.inUse l
  let room := s.levelRoom st n.ctx.slot l
  let up := match above with | some p => p.lvl.toNat | none => l - 1
  let oldest := (((st.level up).tags.find? fun t => !t.dead && !t.gone).map (·.tag.toNat)).getD 0
  let x : Loc := { s.locOf st n k with
    cause := 0x13, wave := wave.toNat
    code := pack [(0, 3, l), (3, 1, b2n tagf), (4, 1, b2n (used.any (·.reserve)))]
    detail := pack [(0, 8, room - used.length), (8, 8, oldest)] }
  s.report x st.part .only

/-- A wait of the strand has passed its die's bound and has not been reported. -/
def State.boundDue (s : State) (st : Strand) : Bool :=
  let v := Tab.get 0 st.die s.flt.tagBound
  (st.reqs.any fun r => boundOn v r.waited && !r.told) || st.levels.any fun l => l.tagf.any fun x => boundOn v x.waited && !x.told

/-- The first wait of the n-th strand that has passed its die's bound and has not been reported. -/
def execTagWaitBound (n : Nat) (s : State) : Host.Outcome State Fault Refusal :=
  match s.strands[n]? with
  | none => .next s
  | some st =>
    let v := Tab.get 0 st.die s.flt.tagBound
    match st.reqs.findIdx? fun r => boundOn v r.waited && !r.told with
    | some i =>
      match st.reqs[i]? with
      | none => .next s
      | some r =>
        .next ((s.tagReport st r.lvl.toNat false r.parent r.node r.key r.trig.wave).setStrand
          { st with reqs := upd (fun r => { r with told := true }) i st.reqs })
    | none =>
      match (List.range 8).findSome? fun l => match (st.level l).tagf with
          | some x => if boundOn v x.waited && !x.told then some (l, x) else none
          | none => none with
      | none => .next s
      | some (l, x) =>
        .next ((s.tagReport st l true none x.node x.key x.wave).setStrand
          (st.setLevel l { st.level l with tagf := some { x with told := true } }))

end Sys2Proof.Machine
end

