-- ==== Sys2Proof/Machine/Dispatch.lean ====
section
/-! DEFINITION. exec: one arm per instruction, each one call of its meaning. -/

namespace Sys2Proof.Machine

def exec (i : Instr) (s : State) : Host.Outcome State Fault Refusal :=
  match i with
  | .movCopy h a => Sys2Proof.Machine.execMovCopy h a s
  | .movImmediate h a => Sys2Proof.Machine.execMovImmediate h a s
  | .movi h p => Sys2Proof.Machine.execMovi h p s
  | .movhi h p => Sys2Proof.Machine.execMovhi h p s
  | .fan h p => Sys2Proof.Machine.execFan h p s
  | .drop h p => Sys2Proof.Machine.execDrop h p s
  | .steer h p => Sys2Proof.Machine.execSteer h p s
  | .merge h p => Sys2Proof.Machine.execMerge h p s
  | .mrgo h p => Sys2Proof.Machine.execMrgo h p s
  | .sel h p => Sys2Proof.Machine.execSel h p s
  | .plog h p => Sys2Proof.Machine.execPlog h p s
  | .taga h p => Sys2Proof.Machine.execTaga h p s
  | .tagf h p => Sys2Proof.Machine.execTagf h p s
  | .tagxDown h p => Sys2Proof.Machine.execTagxDown h p s
  | .tagxUp h p => Sys2Proof.Machine.execTagxUp h p s
  | .wadv h p => Sys2Proof.Machine.execWadv h p s
  | .gate h p => Sys2Proof.Machine.execGate h p s
  | .exit h c => Sys2Proof.Machine.execExit h c s
  | .brb h c => Sys2Proof.Machine.execBrb h c s
  | .rdk h p => Sys2Proof.Machine.execRdk h p s
  | .wrk h p => Sys2Proof.Machine.execWrk h p s
  | .cnst h p => Sys2Proof.Machine.execCnst h p s
  | .ord h p => Sys2Proof.Machine.execOrd h p s
  | .idx h a => Sys2Proof.Machine.execIdx h a s
  | .strm h x => Sys2Proof.Machine.execStrm h x s
  | .eosd h x => Sys2Proof.Machine.execEosd h x s
  | .iadd h a => Sys2Proof.Machine.execIadd h a s
  | .isub h a => Sys2Proof.Machine.execIsub h a s
  | .imul h a => Sys2Proof.Machine.execImul h a s
  | .imulh h a => Sys2Proof.Machine.execImulh h a s
  | .imad h a => Sys2Proof.Machine.execImad h a s
  | .idiv h a => Sys2Proof.Machine.execIdiv h a s
  | .irem h a => Sys2Proof.Machine.execIrem h a s
  | .ineg h a => Sys2Proof.Machine.execIneg h a s
  | .iabs h a => Sys2Proof.Machine.execIabs h a s
  | .imin h a => Sys2Proof.Machine.execImin h a s
  | .imax h a => Sys2Proof.Machine.execImax h a s
  | .iand h a => Sys2Proof.Machine.execIand h a s
  | .ior h a => Sys2Proof.Machine.execIor h a s
  | .ixor h a => Sys2Proof.Machine.execIxor h a s
  | .inot h a => Sys2Proof.Machine.execInot h a s
  | .ishl h a => Sys2Proof.Machine.execIshl h a s
  | .ishr h a => Sys2Proof.Machine.execIshr h a s
  | .isar h a => Sys2Proof.Machine.execIsar h a s
  | .irot h a => Sys2Proof.Machine.execIrot h a s
  | .iclz h a => Sys2Proof.Machine.execIclz h a s
  | .ipopc h a => Sys2Proof.Machine.execIpopc h a s
  | .ibfx h a => Sys2Proof.Machine.execIbfx h a s
  | .ibfi h a => Sys2Proof.Machine.execIbfi h a s
  | .icmp h a => Sys2Proof.Machine.execIcmp h a s
  | .addi h a => Sys2Proof.Machine.execAddi h a s
  | .lea h a => Sys2Proof.Machine.execLea h a s
  | .aff h a => Sys2Proof.Machine.execAff h a s
  | .clamp h a => Sys2Proof.Machine.execClamp h a s
  | .fadd h a => Sys2Proof.Machine.execFadd h a s
  | .fsub h a => Sys2Proof.Machine.execFsub h a s
  | .fmul h a => Sys2Proof.Machine.execFmul h a s
  | .fma h a => Sys2Proof.Machine.execFma h a s
  | .fmin h a => Sys2Proof.Machine.execFmin h a s
  | .fmax h a => Sys2Proof.Machine.execFmax h a s
  | .fabs h a => Sys2Proof.Machine.execFabs h a s
  | .fneg h a => Sys2Proof.Machine.execFneg h a s
  | .fcmp h a => Sys2Proof.Machine.execFcmp h a s
  | .fcvt h a => Sys2Proof.Machine.execFcvt h a s
  | .frcp h a => Sys2Proof.Machine.execFrcp h a s
  | .frsq h a => Sys2Proof.Machine.execFrsq h a s
  | .fex2 h a => Sys2Proof.Machine.execFex2 h a s
  | .flg2 h a => Sys2Proof.Machine.execFlg2 h a s
  | .ftnh h a => Sys2Proof.Machine.execFtnh h a s
  | .fexs h a => Sys2Proof.Machine.execFexs h a s
  | .fscl h a => Sys2Proof.Machine.execFscl h a s
  | .itof h a => Sys2Proof.Machine.execItof h a s
  | .ftoi h a => Sys2Proof.Machine.execFtoi h a s
  | .frnd h a => Sys2Proof.Machine.execFrnd h a s
  | .vbcst h a => Sys2Proof.Machine.execVbcst h a s
  | .vshuf h a => Sys2Proof.Machine.execVshuf h a s
  | .vred h a => Sys2Proof.Machine.execVred h a s
  | .vscan h a => Sys2Proof.Machine.execVscan h a s
  | .vdot h a => Sys2Proof.Machine.execVdot h a s
  | .vcmpr h a => Sys2Proof.Machine.execVcmpr h a s
  | .vexpd h a => Sys2Proof.Machine.execVexpd h a s
  | .vpack h a => Sys2Proof.Machine.execVpack h a s
  | .vunpk h a => Sys2Proof.Machine.execVunpk h a s
  | .vselm h a => Sys2Proof.Machine.execVselm h a s
  | .vlane h a => Sys2Proof.Machine.execVlane h a s
  | .viota h a => Sys2Proof.Machine.execViota h a s
  | .vcset h p => Sys2Proof.Machine.execVcset h p s
  | .vcget h p => Sys2Proof.Machine.execVcget h p s
  | .hdr h a => Sys2Proof.Machine.execHdr h a s
  | .qnt h a => Sys2Proof.Machine.execQnt h a s
  | .dqnt h a => Sys2Proof.Machine.execDqnt h a s
  | .sclx h a => Sys2Proof.Machine.execSclx h a s
  | .i4xp h a => Sys2Proof.Machine.execI4xp h a s
  | .i4xu h a => Sys2Proof.Machine.execI4xu h a s
  | .ld h m => Sys2Proof.Machine.execLd h m s
  | .st h m => Sys2Proof.Machine.execSt h m s
  | .ldb h m => Sys2Proof.Machine.execLdb h m s
  | .stb h m => Sys2Proof.Machine.execStb h m s
  | .ldl h m => Sys2Proof.Machine.execLdl h m s
  | .stnt h m => Sys2Proof.Machine.execStnt h m s
  | .pref h m => Sys2Proof.Machine.execPref h m s
  | .atom h m => Sys2Proof.Machine.execAtom h m s
  | .cas h m => Sys2Proof.Machine.execCas h m s
  | .fatom h m => Sys2Proof.Machine.execFatom h m s
  | .enq h m => Sys2Proof.Machine.execEnq h m s
  | .deq h m => Sys2Proof.Machine.execDeq h m s
  | .sarm h x => Sys2Proof.Machine.execSarm h x s
  | .qfnc h x => Sys2Proof.Machine.execQfnc h x s
  | .dfnc h m => Sys2Proof.Machine.execDfnc h m s
  | .rdci h p => Sys2Proof.Machine.execRdci h p s
  | .fnc h m => Sys2Proof.Machine.execFnc h m s
  | .lds h m => Sys2Proof.Machine.execLds h m s
  | .sts h m => Sys2Proof.Machine.execSts h m s
  | .cntrRead h x => Sys2Proof.Machine.execCntrRead h x s
  | .cntrSnap h x => Sys2Proof.Machine.execCntrSnap h x s
  | .cntrStall h x => Sys2Proof.Machine.execCntrStall h x s
  | .cntrLink h x => Sys2Proof.Machine.execCntrLink h x s
  | .xfer h x => Sys2Proof.Machine.execXfer h x s
  | .xpk h p => Sys2Proof.Machine.execXpk h p s
  | .gath h x => Sys2Proof.Machine.execGath h x s
  | .scat h x => Sys2Proof.Machine.execScat h x s
  | .dcnt h x => Sys2Proof.Machine.execDcnt h x s
  | .trdy h x => Sys2Proof.Machine.execTrdy h x s
  | .coll h x => Sys2Proof.Machine.execColl h x s
  | .mlds h a => Sys2Proof.Machine.execMlds h a s
  | .mswp h p => Sys2Proof.Machine.execMswp h p s
  | .mctl h p => Sys2Proof.Machine.execMctl h p s
  | .mfir h a => Sys2Proof.Machine.execMfir h a s
  | .mdrn h a => Sys2Proof.Machine.execMdrn h a s
  | .mclr h p => Sys2Proof.Machine.execMclr h p s
  | .vdclDeclare h p => Sys2Proof.Machine.execVdclDeclare h p s
  | .vdclSystolic h p => Sys2Proof.Machine.execVdclSystolic h p s
  | .vacc h a => Sys2Proof.Machine.execVacc h a s
  | .bnds h a => Sys2Proof.Machine.execBnds h a s
  | .topk h a => Sys2Proof.Machine.execTopk h a s
  | .thrp h p => Sys2Proof.Machine.execThrp h p s
  | .vpik h a => Sys2Proof.Machine.execVpik h a s
  | .iscr h a => Sys2Proof.Machine.execIscr h a s
  | .kdef h k => Sys2Proof.Machine.execKdef h k s
  | .kput h k => Sys2Proof.Machine.execKput h k s
  | .kqry h k => Sys2Proof.Machine.execKqry h k s
  | .kdel h k => Sys2Proof.Machine.execKdel h k s
  | .kmrg h k => Sys2Proof.Machine.execKmrg h k s
  | .ksmx h k => Sys2Proof.Machine.execKsmx h k s
  | .kgen h k => Sys2Proof.Machine.execKgen h k s
  | .kcnt h k => Sys2Proof.Machine.execKcnt h k s
  | .kflt h k => Sys2Proof.Machine.execKflt h k s
  | .ksid h k => Sys2Proof.Machine.execKsid h k s
  | .splk h m => Sys2Proof.Machine.execSplk h m s
  | .spap h m => Sys2Proof.Machine.execSpap h m s
  | .spfk h p => Sys2Proof.Machine.execSpfk h p s
  | .sprl h p => Sys2Proof.Machine.execSprl h p s
  | .spwn h p => Sys2Proof.Machine.execSpwn h p s
  | .sprg h p => Sys2Proof.Machine.execSprg h p s
  | .rld h m => Sys2Proof.Machine.execRld h m s
  | .rst h m => Sys2Proof.Machine.execRst h m s
  | .ratm h m => Sys2Proof.Machine.execRatm h m s
  | .glaze h m => Sys2Proof.Machine.execGlaze h m s
  | .trap h p => Sys2Proof.Machine.execTrap h p s
  | .bkpt h p => Sys2Proof.Machine.execBkpt h p s
  | .svc h p => Sys2Proof.Machine.execSvc h p s
  | .rdsr h p => Sys2Proof.Machine.execRdsr h p s
  | .wrsr h p => Sys2Proof.Machine.execWrsr h p s
  | .cpri h p => Sys2Proof.Machine.execCpri h p s
  | .yld h p => Sys2Proof.Machine.execYld h p s
  | .steal h x => Sys2Proof.Machine.execSteal h x s
  | .spltSteal h p => Sys2Proof.Machine.execSpltSteal h p s
  | .spltClaim h p => Sys2Proof.Machine.execSpltClaim h p s
  | .perf h x => Sys2Proof.Machine.execPerf h x s
  | .done h p => Sys2Proof.Machine.execDone h p s
  | .frd h p => Sys2Proof.Machine.execFrd h p s
  | .resm h p => Sys2Proof.Machine.execResm h p s
  | .qcfgLabel q => Sys2Proof.Machine.execQcfgLabel q s
  | .qcfgRegister q => Sys2Proof.Machine.execQcfgRegister q s
  | .qloop q => Sys2Proof.Machine.execQloop q s
  | .qbr q => Sys2Proof.Machine.execQbr q s
  | .qarmRegister q => Sys2Proof.Machine.execQarmRegister q s
  | .qarmConstants q => Sys2Proof.Machine.execQarmConstants q s
  | .qarmKeep q => Sys2Proof.Machine.execQarmKeep q s
  | .qwaitStream q => Sys2Proof.Machine.execQwaitStream q s
  | .qwaitCycles q => Sys2Proof.Machine.execQwaitCycles q s
  | .qset q => Sys2Proof.Machine.execQset q s
  | .qadd q => Sys2Proof.Machine.execQadd q s
  | .qend q => Sys2Proof.Machine.execQend q s
  | .qprd q => Sys2Proof.Machine.execQprd q s
  | .qglzWait q => Sys2Proof.Machine.execQglzWait q s
  | .qglzNowait q => Sys2Proof.Machine.execQglzNowait q s
  | .launchToken port tok => Sys2Proof.Machine.execLaunchToken port tok s
  | .hostAccessDiscarded rd => Sys2Proof.Machine.execHostAccessDiscarded rd s
  | .tlbInvalidation die => Sys2Proof.Machine.execTlbInvalidation die s
  | .freePageWrite v => Sys2Proof.Machine.execFreePageWrite v s
  | .hostResume die v => Sys2Proof.Machine.execHostResume die v s
  | .faultSummaryRead die => Sys2Proof.Machine.execFaultSummaryRead die s
  | .correctedErrorRead die => Sys2Proof.Machine.execCorrectedErrorRead die s
  | .hostErrorCounterRead => Sys2Proof.Machine.execHostErrorCounterRead s
  | .bindingWrite lg tagHalf v => Sys2Proof.Machine.execBindingWrite lg tagHalf v s
  | .buddyCopyEnable v => Sys2Proof.Machine.execBuddyCopyEnable v s
  | .registerWrite offset v ide => Sys2Proof.Machine.execRegisterWrite offset v ide s
  | .tdispRequest p r => Sys2Proof.Machine.execTdispRequest p r s
  | .tdispStop p => Sys2Proof.Machine.execTdispStop p s
  | .ideIntegrityFailure p => Sys2Proof.Machine.execIdeIntegrityFailure p s
  | .getVersion q => Sys2Proof.Machine.execGetVersion q s
  | .getCapabilities q => Sys2Proof.Machine.execGetCapabilities q s
  | .negotiateAlgorithms q => Sys2Proof.Machine.execNegotiateAlgorithms q s
  | .getDigests q => Sys2Proof.Machine.execGetDigests q s
  | .getCertificate q => Sys2Proof.Machine.execGetCertificate q s
  | .challenge q => Sys2Proof.Machine.execChallenge q s
  | .getMeasurements q => Sys2Proof.Machine.execGetMeasurements q s
  | .keyExchange q => Sys2Proof.Machine.execKeyExchange q s
  | .finish q => Sys2Proof.Machine.execFinish q s
  | .moduleReset => Sys2Proof.Machine.execModuleReset s
  | .readinessFlagSet bit => Sys2Proof.Machine.execReadinessFlagSet bit s
  | .clockThrottle => Sys2Proof.Machine.execClockThrottle s
  | .clockRestore => Sys2Proof.Machine.execClockRestore s
  | .thermalShutdown => Sys2Proof.Machine.execThermalShutdown s
  | .tokenArrival site n => Sys2Proof.Machine.execTokenArrival site n s
  | .headerBeatLatch n => Sys2Proof.Machine.execHeaderBeatLatch n s
  | .tokenAgeTick => Sys2Proof.Machine.execTokenAgeTick s
  | .starvationForce die wafer cell => Sys2Proof.Machine.execStarvationForce die wafer cell s
  | .instanceCommit u => Sys2Proof.Machine.execInstanceCommit u s
  | .generationAdvance die task lvl => Sys2Proof.Machine.execGenerationAdvance die task lvl s
  | .tagGrant die task lvl => Sys2Proof.Machine.execTagGrant die task lvl s
  | .returnTailEnd u => Sys2Proof.Machine.execReturnTailEnd u s
  | .settledRmwPerform n => Sys2Proof.Machine.execSettledRmwPerform n s
  | .phaseEnd die task => Sys2Proof.Machine.execPhaseEnd die task s
  | .configLoad die task => Sys2Proof.Machine.execConfigLoad die task s
  | .configFlip die task => Sys2Proof.Machine.execConfigFlip die task s
  | .isolationGateTimeout die task w => Sys2Proof.Machine.execIsolationGateTimeout die task w s
  | .allocatorPlace die => Sys2Proof.Machine.execAllocatorPlace die s
  | .strandSave die task => Sys2Proof.Machine.execStrandSave die task s
  | .strandRestore die task => Sys2Proof.Machine.execStrandRestore die task s
  | .priorityChangeArrival n => Sys2Proof.Machine.execPriorityChangeArrival n s
  | .streamBeatRequest die wafer e => Sys2Proof.Machine.execStreamBeatRequest die wafer e s
  | .streamBeatReturn die wafer e => Sys2Proof.Machine.execStreamBeatReturn die wafer e s
  | .streamPendingStart die wafer e => Sys2Proof.Machine.execStreamPendingStart die wafer e s
  | .memoryResponse n => Sys2Proof.Machine.execMemoryResponse n s
  | .storePerform n => Sys2Proof.Machine.execStorePerform n s
  | .fenceComplete n => Sys2Proof.Machine.execFenceComplete n s
  | .engineRelease n => Sys2Proof.Machine.execEngineRelease n s
  | .engineOperationStart die q => Sys2Proof.Machine.execEngineOperationStart die q s
  | .transferComplete die q => Sys2Proof.Machine.execTransferComplete die q s
  | .migrationFinalWindow n => Sys2Proof.Machine.execMigrationFinalWindow n s
  | .migrationRelease n => Sys2Proof.Machine.execMigrationRelease n s
  | .gatherRowReturn n => Sys2Proof.Machine.execGatherRowReturn n s
  | .storePortApply die wafer sel => Sys2Proof.Machine.execStorePortApply die wafer sel s
  | .thresholdOffer n => Sys2Proof.Machine.execThresholdOffer n s
  | .sequencePortApply n => Sys2Proof.Machine.execSequencePortApply n s
  | .glazeWriteAccept n => Sys2Proof.Machine.execGlazeWriteAccept n s
  | .glazeContribution n => Sys2Proof.Machine.execGlazeContribution n s
  | .glazeBarrierEnter p => Sys2Proof.Machine.execGlazeBarrierEnter p s
  | .barrierFlit p child down => Sys2Proof.Machine.execBarrierFlit p child down s
  | .glazeRelease p => Sys2Proof.Machine.execGlazeRelease p s
  | .collectiveContribution n => Sys2Proof.Machine.execCollectiveContribution n s
  | .collectiveResult n => Sys2Proof.Machine.execCollectiveResult n s
  | .flitReceive lg f => Sys2Proof.Machine.execFlitReceive lg f s
  | .laneRetrain lg => Sys2Proof.Machine.execLaneRetrain lg s
  | .heartbeatSend => Sys2Proof.Machine.execHeartbeatSend s
  | .peerFailureDetect peer => Sys2Proof.Machine.execPeerFailureDetect peer s
  | .recovery r => Sys2Proof.Machine.execRecovery r s
  | .backPressureCheck die wafer => Sys2Proof.Machine.execBackPressureCheck die wafer s
  | .tagWaitBound n => Sys2Proof.Machine.execTagWaitBound n s
  | .yldRelease n => Sys2Proof.Machine.execYldRelease n s
  | .qwaitExpiry die task => Sys2Proof.Machine.execQwaitExpiry die task s
  | .faultTakesEffect die task => Sys2Proof.Machine.execFaultTakesEffect die task s
  | .faultRecordWrite n => Sys2Proof.Machine.execFaultRecordWrite n s
  | .dfncCompletion n => Sys2Proof.Machine.execDfncCompletion n s
  | .scatterCompletion n => Sys2Proof.Machine.execScatterCompletion n s
  | .retrainComplete lg ok => Sys2Proof.Machine.execRetrainComplete lg ok s

end Sys2Proof.Machine
end

