-- ==== Sys2Proof/Machine/Cycle.lean ====
section
/-! DEFINITION. What one clock cycle changes by itself (R22, R24, R47, R69, R167, R291, R322, R324, R331, R370, R403), and the activities
among which the device chooses when no input waits. -/

namespace Sys2Proof.Machine

/-! Running a node's word, and the choice of a cell among its ready nodes (R68). -/

/-- The node's word, decoded and run for an instance. -/
def State.runNode (s : State) (n : Node) (k : Key) : Host.Outcome State Fault Refusal :=
  match s.nodeBytes n with
  | none => .next s
  | some bs =>
    match decode bs with
    | .ok (i, _) => exec i { s with cur := ⟨n, k, s.wordAt n, n.ctx.die, 0⟩ }
    | .error _ => .fault .notLoaded

/-- The node is ready: with its operands there it would fire, and nothing it waits for holds it back. -/
def State.canFire (s : State) (n : Node) (k : Key) : Bool :=
  s.ready n k && s.runnable n k &&
  match s.runNode n k with
  | .next t => t.fab.issued.contains n
  | _ => false

/-- A ready node, or an older firing of the same node, comes first at the cell (R68). -/
def State.outranked (s : State) (n : Node) (k : Key) : Bool :=
  s.fab.ostore.any fun t => t.node.ctx.die = n.ctx.die && t.node.ctx.wafer = n.ctx.wafer && t.node.cell = n.cell &&
    s.before t.node t.key n k && s.canFire t.node t.key

/-! Stall words (R22). -/

/-- Instances of which the node holds a token: at its slots, or in the window of a MRGO. -/
def State.heldKeys (s : State) (n : Node) : List Key :=
  ((s.fab.ostore.filter fun t => t.node = n).map (·.key)) ++ (s.fab.mrgo.filter fun m => m.node = n).flatMap fun m => m.win.map (·.key)
/-- A word that takes its tokens in SEQ order (R94, R295, R298, R305) has the one that comes next. -/
def State.inSeq (s : State) (n : Node) (k : Key) : Bool :=
  let w := s.wordAt n
  let kept := s.keptOf n k
  let came := (kept.map (·.toks.length)).getD 0
  let has := fun (p q : Nat) => (s.bySeq n k p (BitVec.ofNat 16 q)).isSome
  match opcode w with
  | 0xA2 => has 0 came
  | 0xA3 => (match kept with | none => has 0 0 | some x => has 2 x.rowsHere || !x.hasLast && has 0 came)
  | 0xA6 => has 0 came
  | 0xAA =>
    let x := s.tagOf n k
    x.dropped && !x.over || s.fab.ostore.any fun t => t.node = n && t.port = 0 && t.key = k && x.wants t.tok.seq.toNat
  | 0xB1 => (s.nextBeats (FmtA.ofBits (w.extractLsb' 0 30)) n k ((kept.map fun x => (Vacc.ofKept x).next).getD 0)).isSome
  | 0xB3 => has 0 ((kept.map fun x => x.nums.headD 0).getD 0)
  | 0xC1 | 0xC2 =>
    (s.nextKeyBeat n k (({ s with cur := { s.cur with node := n } } : State).ownStore (FmtK.ofBits (w.extractLsb' 0 30)))).isSome
  | _ => true
/-- Its operands are there, or, for a MRGO, the token it releases next. -/
def State.fed (s : State) (n : Node) (k : Key) : Bool :=
  s.filled n k && s.inSeq n k || s.fab.mrgo.any fun m => m.node = n && m.win.any fun t => t.key = k && t.tok.wave = m.next
/-- A TAGA waits for a tag (R222). -/
def State.asks (s : State) (n : Node) : Bool := s.strands.any fun st => st.reqs.any fun r => r.node = n
/-- The node is a GLAZE that waits for the glaze before its own, held or committed (R173). -/
def State.glazeStalls (s : State) (st : Strand) (n : Node) : Bool :=
  let ahead := st.step != (s.domain st.part).step
  (st.glz.any fun g => g.who.any fun w => w.1 = n && g.step != (s.domain st.part).step) ||
  (s.mem.pend.any fun p => p.node = n && p.die = st.die && p.task = st.task && (match p.eff with | .glaze _ => true | _ => false)) ||
  ahead && st.insts.any fun x => x.ctx = n.ctx && x.held.any fun h => h.index = n.index && (match h.eff with | .glaze _ => true | _ => false)
/-- A committed TAGF waits for its level's generation (R226), a GLAZE for the glaze before it. -/
def State.waitsHere (s : State) (n : Node) : Bool :=
  s.strands.any fun st => (st.levels.any fun l => l.tagf.any fun x => x.node = n) || s.glazeStalls st n

/-- CUR and TAGW of a node in this cycle. -/
def State.stallCause (s : State) (n : Node) : Nat × Bool :=
  let keys := s.heldKeys n
  if s.fab.issued.contains n then (0, false)
  else if s.asks n then (1, true)
  else if s.waitsHere n then (1, false)
  else if keys.isEmpty then (0, false)
  else if !keys.any (s.fed n) then (1, false)
  else if !s.latchEmpty n then (2, false)
  else if s.fab.issued.any fun m => m.ctx.die = n.ctx.die && m.ctx.wafer = n.ctx.wafer && m.cell = n.cell then (3, false)
  else (0, false)

def stallNext (old : BitVec 64) (cur : Nat) (tagw : Bool) : BitVec 64 :=
  let run := if cur = stallCur old then min 131071 (stallRun old + 1) else 1
  let count := fun (lo c : Nat) => min 16383 (bits old lo 14 + b2n (cur = c))
  BitVec.ofNat 64 (pack [(62, 2, cur), (61, 1, b2n tagw), (44, 17, run), (28, 14, count 28 1), (14, 14, count 14 2), (0, 14, count 0 3)])

/-- The nodes of every active block. -/
def State.activeNodes (s : State) : List Node :=
  s.pl.ctx.flatMap fun e => match e.2.active with
    | some b => (List.range b.ninst).map fun i => ⟨⟨e.1 / 256, e.1 / 4 % 64, e.1 % 4⟩, i⟩
    | none => []
def State.stallTick (s : State) : Tab (BitVec 64) :=
  s.activeNodes.foldl (fun t n => let c := s.stallCause n; Tab.put 0 n.num (stallNext (Tab.get 0 n.num t) c.1 c.2) t) s.fab.stall

/-! Starvation counters (R69). -/

/-- The machine as a node that had its cell to itself would see it: whether the node can fire by R19, whatever its cell issues. -/
def State.alone (s : State) (n : Node) : State :=
  let other := fun (m : Node) => decide (m.spot / 4 = n.spot / 4)
  { s with fab := { s.fab with
      issued := s.fab.issued.filter fun m => !other m
      ostore := s.fab.ostore.filter fun t => t.node = n || !other t.node } }
/-- A node of the context at that cell is ready, be it chosen or not; a context of priority 0 has no counter, and a YLD holds it at zero
(R324). -/
def State.readySpot (s : State) (x : Nat) : Bool :=
  s.fab.ostore.any fun t => t.node.spot = x && decide (0 < s.prioAt t.node) && (s.alone t.node).canFire t.node t.key
/-- A counter that stands at zero: its context has issued, has priority 0, or yields. -/
def State.starveClear (s : State) (x : Nat) : Bool :=
  let n : Node := ⟨⟨x / 4 / 4096, x / 4 / 64 % 64, x % 4⟩, 2 * (x / 4 % 64)⟩
  (s.fab.issued.any fun n => n.spot = x) || s.prioIn n = 0 || s.fab.yielded.any fun y => y.node.spot = x && y.left != 0
def State.starveTick (s : State) : Tab (BitVec 6) :=
  ((s.fab.ostore.map fun t => t.node.spot) ++ s.fab.starve.map (·.1)).foldl addNew [] |>.foldl (fun t x =>
    let v := Tab.get 0 x s.fab.starve
    if s.starveClear x then Tab.put 0 x 0 t
    else if s.readySpot x then Tab.put 0 x (if v = 63 then 63 else v + 1) t else t) s.fab.starve

/-! Links (R167, R291). -/

/-- A flit as it goes out under a counter: with CIPH = 1 its payload is ciphertext; then PMAC and FEC. -/
def State.sealFlit (s : State) (lg counter : Nat) (p : Piece) : Flit :=
  let key := Tab.get 0 (bindPart (s.link lg).word) s.host.linkKeys
  let nonce := linkNonce lg 0 counter
  let data := if p.ciph then p.payload ^^^ Config.keystream key nonce else p.payload
  let f : Flit := ⟨true, 0, BitVec.ofNat 16 counter, 0, p.ciph, p.last, p.crd, data⟩
  let f := { f with pmac := Config.pmac key nonce f }
  { f with fec := Config.fec f }
/-- The next new flit of a lane group: a kept one of a lost binding (R399), else the next 48 bytes of its first message. -/
def Link.next (l : Link) : Option (Piece × Link) :=
  let crd := BitVec.ofNat 6 (min 63 l.owed)
  match l.again, l.wait with
  | p :: rest, _ => some ({ p with crd := crd }, { l with again := rest })
  | [], (b, c) :: rest =>
    let all := payloadsOf b
    let last := decide (all.length ≤ l.cut + 1)
    some (⟨all.getD l.cut 0, c, last, crd⟩, if last then { l with wait := rest, cut := 0 } else { l with cut := l.cut + 1 })
  | [], [] => none
/-- A flit that has been asked for goes out again under its own counter (R398); else a new one, when there is a credit; else the wait is
counted. More than 1,024 sent again within 1 ms retrain the lane group. -/
def State.transmit (s : State) (lg : Nat) : State :=
  let l := { s.link lg with wire := none }
  let s := s.setLink lg l
  let sent := fun (s : State) (c : Bool) => if c then (s.countLink lg 0).countLink lg 2 else s.countLink lg 0
  if !bit l.word 63 || l.training || !bit s.host.ready (47 + lg / 9) then s else
  match l.kept[l.kept.length - l.replay]?, l.next with
  | some p, _ =>
    let r := s.recent l.replays
    let many := decide (1024 < r.length)
    sent (s.setLink lg { l with replay := l.replay - 1, replays := if many then [] else r, training := many
                                wire := some (s.sealFlit lg (l.tx.toNat - l.replay) p) }) p.ciph
  | none, none => s
  | none, some (p, m) =>
    if l.credits = 0 then s.countLink lg 4
    else sent (s.setLink lg { m with kept := m.kept ++ [p], credits := m.credits - 1, tx := m.tx + 1, owed := m.owed - p.crd.toNat
                                     wire := some (s.sealFlit lg l.tx.toNat p) }) p.ciph

/-! One cycle. -/

/-- Waits for tags are counted while the die's bound has EN = 1 (R370). -/
def Strand.tick (st : Strand) (en : Bool) : Strand :=
  { st with
    reqs := st.reqs.map fun r => { r with waited := r.waited + b2n en }
    levels := st.levels.map fun l => { l with tagf := l.tagf.map fun x => { x with waited := x.waited + b2n en } }
    mode := match st.mode with
      | .cycles n => if st.frozen || st.saving then .cycles n else .cycles (n - 1)
      | .flipping j cfg acked age => .flipping j cfg acked (age + 1)
      | m => m }

/-- Peers on the barrier tree, each once. -/
def State.treePeers (s : State) : List Nat :=
  ((s.pod.links.filter fun l => bit l.2.word 63 && bits l.2.word 33 3 = 3).map fun l => bits l.2.word 49 8).foldl addNew []

/-- The issue that a counter forces has been made (R69). -/
def State.forceDone (s : State) (t : LTok) : Bool :=
  let c := cellKey t.node.ctx.die t.node.ctx.wafer t.node.cell
  !(s.forces t.node || s.fab.forced.contains (c, t.node.ctx.slot)) || (s.fab.issued.any fun m => m.spot / 4 = c) ||
    !s.readySpot t.node.spot
/-- A tile word that acts in the cycle in which its instance is settled (R260). -/
def State.tileNow (s : State) (r : Rmw) : Bool :=
  tileWord r.word && (s.strandOf r.node.ctx).any fun st => !st.frozen && st.live r.key && s.settled st r.key &&
    (match ({ s with cur := ⟨r.node, r.key, r.word, st.die, st.task⟩ } : State).performRmw r with | .waits => false | _ => true)
/-- Gates that have been closed for 1,024 cycles open, or the set has flipped (R373). -/
def Strand.gateDue (st : Strand) : Bool :=
  match st.mode with
  | .flipping _ _ acked age => decide (1024 ≤ age) && !st.wafers.all acked.contains && !st.frozen
  | _ => false
/-- What of a strand must come before the next cycle: a fault that takes effect (R353), the end of closed gates, a wait beyond its bound
(R370), the examination of its wafers (R367). -/
def State.strandDue (s : State) (st : Strand) : Bool :=
  s.mustFreeze st || st.gateDue || s.boundDue st || st.wafers.any (s.checkDue st.die)

/-- Nothing is left that must come before the next cycle: an age tick, the issue that a counter forces (R69), the last arrival of a priority
written 16 cycles ago (R70), a tile word, or something of a strand. -/
def State.cycleDue (s : State) : Bool :=
  decide (s.fab.agePhase < 8) && s.fab.ostore.all s.forceDone && (s.sch.prioq.all fun w => decide (w.age < 16)) &&
  !s.mem.rmwq.any s.tileNow && !s.strands.any s.strandDue

def Fabric.tick (f : Fabric) (stall : Tab (BitVec 64)) (starve : Tab (BitVec 6)) : Fabric :=
  let spent := f.spent.map fun (e : Nat × Nat) => (e.1, e.2 - 1)
  let forced := f.forced.filter fun (x : Nat × Nat) => !(f.issued.any fun (n : Node) => n.spot = starveKey x.1 x.2)
  { f with
    stall := stall
    starve := starve
    spent := spent.filter fun (e : Nat × Nat) => e.2 != 0
    forced := forced
    yielded := f.yielded.map fun (y : Yielded) => { y with left := y.left - 1 }
    issued := []
    came := []
    agePhase := f.agePhase + 1 }

def State.tick (s : State) : State :=
  if !s.cycleDue then s else
  let rings := s.flt.rings.filter fun r => !(r.any fun n => s.fab.issued.contains n)
  let heard := s.treePeers.foldl (fun t p => Tab.put 0 p (Tab.get 0 p t + 1) t) s.pod.heard
  let f := s.reachAll.fab
  let strands := s.strands.map fun (st : Strand) => st.tick (bit (Tab.get 0 st.die s.flt.tagBound) 63)
  let t : State := { s with
    fab := { (f.route s.ctr).tick s.stallTick s.starveTick with turn := s.turnTick }
    ctr := s.ctr + f.net.length
    sch := { s.sch with prioq := s.sch.prioq.map fun w => { w with age := w.age + 1 } }
    strands := strands
    mem := s.seeSettled.mem
    flt := { s.flt with rings := rings }
    pod := { s.pod with heard := heard, ranks := [] }
    host := { s.host with time := s.host.time + 1 } }
  ((s.pod.links.map fun l => l.1).foldl (fun s lg => s.transmit lg) t).retryPorts.answerAsks

/-! The device's choices. -/

def whoOf (c : Ctx) (k : Key) : Who := ⟨c.die, c.wafer, c.slot, k.lvl, k.tag, k.gen⟩
/-- One of the machine's own events. -/
abbrev Own := State → Host.Outcome State Fault Refusal
def indexed {α : Type} (l : List α) (f : Nat → Own) : List Own := (List.range l.length).map f

/-- Firings and sequencer words. A MRGO also releases what its window holds. -/
def State.firings (s : State) : List Activity :=
  (((s.fab.ostore.map (fun t => (t.node, t.key)) ++ s.fab.mrgo.flatMap fun m =>
      (m.win.filter fun t => t.tok.wave = m.next).map fun t => (m.node, t.key)).foldl (fun l x => if l.contains x then l else l ++ [x]) []).map fun x => Activity.fire x.1 x.2) ++
  s.strands.map fun st => .word st.die st.task

/-- Steps of strands, instances and phases. -/
def State.strandSteps (s : State) : List Own :=
  s.strands.flatMap fun st =>
    (st.insts.flatMap fun x => [execInstanceCommit (whoOf x.ctx x.key), execReturnTailEnd (whoOf x.ctx x.key)]) ++
    ((List.range 8).flatMap fun l => [execGenerationAdvance st.die st.task l, execTagGrant st.die st.task l]) ++
    [execPhaseEnd st.die st.task, execConfigLoad st.die st.task, execConfigFlip st.die st.task,
     execStrandSave st.die st.task, execQwaitExpiry st.die st.task, execFaultTakesEffect st.die st.task] ++
    st.wafers.map fun w => execIsolationGateTimeout st.die st.task w

/-- Moves of tokens, and words that wait at a node. -/
def State.tokenSteps (s : State) : List Own :=
  indexed s.fab.latch (execTokenArrival .latch) ++ indexed s.fab.net (execTokenArrival .net) ++ indexed s.fab.part (execTokenArrival .part) ++
  indexed s.fab.part execHeaderBeatLatch ++ indexed s.fab.yielded execYldRelease ++ [execTokenAgeTick] ++
  s.fab.starve.map fun e => execStarvationForce (e.1 / 4 / 4096) (e.1 / 4 / 64 % 64) (e.1 / 4 % 64)

/-- Memories, engines and ports. -/
def State.memorySteps (s : State) : List Own :=
  indexed s.mem.resp execMemoryResponse ++ indexed s.mem.rmwq execSettledRmwPerform ++ indexed s.mem.pend execStorePerform ++
  indexed s.mem.pend execFenceComplete ++ indexed s.mem.pend execEngineRelease ++ indexed s.mem.pend execDfncCompletion ++
  (s.eng.queues.flatMap fun q => [execEngineOperationStart (q.1 / 18) (q.1 % 18), execTransferComplete (q.1 / 18) (q.1 % 18),
    execScatterCompletion (q.1 / 18)]) ++
  (s.eng.streams.flatMap fun e =>
    let d := e.1 / 1024
    let w := e.1 / 16 % 64
    [execStreamBeatRequest d w (e.1 % 16), execStreamBeatReturn d w (e.1 % 16), execStreamPendingStart d w (e.1 % 16)]) ++
  indexed s.mem.migs execMigrationFinalWindow ++ indexed s.mem.migs execMigrationRelease ++ indexed s.eng.rows execGatherRowReturn ++
  (s.mat.portq.map fun r => execStorePortApply (r.store / 4096) (r.store / 64 % 64) (r.store % 64)) ++
  indexed s.mat.offers execThresholdOffer ++ indexed s.pages.seqq execSequencePortApply

/-- The glaze, collectives, links, schedulers and fault records. -/
def State.moduleSteps (s : State) : List Own :=
  indexed s.pod.sent execGlazeWriteAccept ++ indexed s.strands execGlazeContribution ++
  (s.pod.domains.flatMap fun d => [execGlazeBarrierEnter d.1, execBarrierFlit d.1 0 false, execGlazeRelease d.1] ++
    (s.treeChildren 3 d.1).map fun c => execBarrierFlit d.1 c.1 true) ++
  indexed s.eng.colls execCollectiveContribution ++ indexed s.eng.colls execCollectiveResult ++
  [execHeartbeatSend] ++ (s.treePeers.map fun p => execPeerFailureDetect p) ++
  ((List.range 8).map fun d => execAllocatorPlace d) ++ (s.saved.map fun v => execStrandRestore v.strand.die v.strand.task) ++
  indexed s.sch.prioq execPriorityChangeArrival ++ indexed s.strands execTagWaitBound ++ indexed s.flt.reqs execFaultRecordWrite ++
  (s.strands.flatMap fun st => st.wafers.map fun w => execBackPressureCheck st.die w)

/-- An error that memory shows (R383): one that ECC corrects is counted for a die; one that it cannot correct stands in a sector of this
module's, of a frame that a TLB knows or under a partition's key, until an access finds it. Which, and when, is free (log entry 175). -/
def State.strike (s : State) : Host.Outcome State Fault Refusal :=
  let inFrame := fun (e : Tlb) => bits e.entry 16 36 * 65536 + 48 * (Config.free (s.ctr + 2) % ((e.size + 47) / 48))
  let secs := s.mem.kidx.map (·.1) ++ (s.mem.tlb.filter fun e => e.entry.extractLsb' 56 8 = s.module).map fun e => s.home (inFrame e)
  let die := s.pick 8
  let t := { s with ctr := s.ctr + 3 }
  match secs[Config.free (s.ctr + 1) % (secs.length + 1)]? with
  | none => .next { t with flt := { t.flt with corrected := Tab.put 0 die (Tab.get 0 die t.flt.corrected + 1) t.flt.corrected } }
  | some x => .next (if t.mem.poi.contains x || t.mem.bad.any (fun b => b.sec = x) then t
      else { t with mem := { t.mem with bad := t.mem.bad ++ [⟨x, true, none⟩] } })

def State.events (s : State) : List Own := s.strandSteps ++ s.tokenSteps ++ s.memorySteps ++ s.moduleSteps ++ [State.strike]
def State.work (s : State) : List Activity := .cycle :: s.firings

/-- With no input waiting, which of its own activities comes next is free. -/
def State.choose (s : State) : Activity ⊕ Own :=
  let n := s.pick (s.work.length + s.events.length)
  if n < s.work.length then .inl (s.work.getD n .cycle) else .inr (s.events.getD (n - s.work.length) .next)

end Sys2Proof.Machine
end

