-- ==== Sys2Proof/Machine/Step.lean ====
section
/-! DEFINITION. One step: the activity at the head of the agenda, which holds the inputs that come next, or, when it is empty, one the
device chooses. -/

namespace Sys2Proof.Machine

def runActivity (a : Activity) (s : State) : Host.Outcome State Fault Refusal :=
  match a with
  | .fire n k => if s.outranked n k then .next s else s.runNode n k
  | .word die task =>
    match s.seqBytes die task with
    | .idle => .next s
    | .stops s => .next s
    | .bytes bs s =>
      match s.strand die task with
      | none => .next s
      | some st =>
        let w := BitVec.ofNat 64 (leNat (bs.take 8))
        if !isSeqOpcode bs then .next (s.seqFault st 1 0 0 w) else
        match decode bs with
        | .ok (i, _) => exec i { s with cur := ⟨Node.zero, Key.zero, w, die, task⟩ }
        | .error e => .next (s.seqFault st e.code.toNat 0 0 w)
  | .event i => exec i s
  | .cycle => .next s.tick

def step (s : State) : Host.Outcome State Fault Refusal :=
  match s.agenda with
  | [] => match s.choose with
    | .inl a => runActivity a s.spent
    | .inr f => f s.spent
  | a :: rest => runActivity a { s with agenda := rest }

/-- A token that waits at a slot of node 0 for the firing of the word `w`: a zero beat, the last of its run; the predicate of slot 3 is the one
that the word's PM wants, and slot 2 holds a true one. -/
def readyTok (n : Node) (k : Key) (w : BitVec 64) (p : Nat) : LTok :=
  let data : Beat := if p = 2 || p = 3 && bits w 48 2 != 2 then 1 else 0
  ⟨n, p, k, { fl := { last := true }, data := data }⟩
/-- Tokens at every slot that the node's next firing reads (R19). -/
def State.withOperands (s : State) (n : Node) (k : Key) : State :=
  let put := fun (s : State) (l : List Nat) => { s with fab := { s.fab with ostore := l.map (readyTok n k (s.wordAt n)) } }
  put s ((put s [0]).reads n k)

/-- Place an instruction where the next step runs it (log entry 58): a sequencer word at SQPC of a strand; a block word as node 0 of the
strand's active block, with tokens at the slots it reads and its memory sequence issued up to it. Page 0 is translated by an entry of the
die's TLB, every part of the module is usable (R350), and the module is strapped as 0. -/
def State.withFetchWord (s : State) (nbits w : Nat) : State :=
  let w64 := BitVec.ofNat 64 (w % 2 ^ nbits)
  let c : Ctx := ⟨0, 0, 0⟩
  let k : Key := ⟨0, 0, 0⟩
  let st : Strand :=
    { die := 0, task := 0, part := 0, wafers := [0], slots := [0], square := false, sqpc := 0, q := [], i := [], sd := [],
      k := [], exitMap := [], mode := .run, l0 := some k, l0done := [],
      levels := { Level.fresh with tags := [⟨0, 0, none, false, none, false, false, false, c⟩] } ::
        List.replicate 7 Level.fresh,
      insts := [], reqs := [], exits := [], done := none, frozen := false, saving := false, steals := [], claims := [],
      step := 0, fault := 0, stamp := 0, glz := [] }
  let s := { s with host := { s.host with ready := 0x80007FFFFFFFFFFF }, pod := { s.pod with recovery := 0 },
                    mem := { s.mem with tlb := [⟨0, none, 0, 0, 2 ^ 30, 0x3B#128, none⟩] } }
  if 0xF0 ≤ opcode w64 then
    { s with strands := [st], agenda := [.word 0 0], mem := { s.mem with phys := memWrite s.mem.phys 0 (leBytes 8 w64.toNat) } }
  else
    let below := List.range (if bits w64 18 7 = 127 then 0 else bits w64 18 7)
    let inst : Inst := { ctx := c, key := k, wave := some 0, held := [], issued := below, rmw := false, entered := [], beats := [],
                         tail := false, since := 0, due := 0, granted := [] }
    { s with strands := [{ st with mode := .phase 0, insts := [inst] }], agenda := [.fire ⟨c, 0⟩ k],
             pl := { s.pl with ctx := [(0, { active := some ⟨0xB7100000000000000000000000000000, [w64], 0, 0⟩ })] }
    : State }.withOperands ⟨c, 0⟩ k

end Sys2Proof.Machine
end

