-- ==== Sys2Proof/Certificates/Slice0/Obligations.lean ====
section
/-! DEFINITION. The statements for the provers, and the vocabulary they share. A statement about one word's firing speaks of
`s.cur`: the node, the instance and the word that the step has put there. -/

namespace Sys2Proof.Claims

open Sys2Proof.Machine

/-! Firing. -/

/-- The slots a firing takes: those its word reads, and slot 3 when it has a predicate mode (R19, R20). -/
def taken (h : Hd) (rd : List Nat) : List Nat := rd ++ (if h.pm = 0 then [] else [3])

/-- The node of `s.cur` fires on the operand tokens `ts`: its strand may run it and no other node of the cell goes first (R68),
every slot it reads holds a token and its output latch is empty (R19), its predicate lets it perform (R20), no computing slot
holds a crumb or poison and no unread slot a token (R374, R384, R407), and no slot whose payload it reads is NIL (R209). -/
structure CanFire (s : State) (h : Hd) (sl : Slots) (ts : List Tok) : Prop where
  may : s.mayFire s.cur.node s.cur.key = true
  read : (s.operands s.cur.node s.cur.key (taken h sl.rd)).map (List.take sl.rd.length) = some ts
  perform : performs h (s.slotTok s.cur.node s.cur.key 3) = true
  sound : s.tokenFault s.cur.node s.cur.key h sl = none
  given : ∀ q ∈ sl.nils, ((s.slotTok s.cur.node s.cur.key q).map (·.fl.nil)).getD false = false

/-- The state after a firing: from `t`, the state with the word's own effects, the tokens of the slots taken are consumed, the node
has issued, and the results stand in its output latch (R19). -/
def fired (s t : State) (h : Hd) (rd : List Nat) (outs : List Out) : State :=
  ((t.consumeAll s.cur.node s.cur.key (taken h rd)).markIssued s.cur.node).emit s.cur.node s.cur.key h outs

/-- Word `i` completes: whenever its node can fire on tokens that meet `ok`, exec answers the state that `after` and `outs` give. -/
def Fires (i : Instr) (h : Hd) (sl : State → Slots) (ok : State → List Tok → Prop) (after : State → List Tok → State)
    (outs : State → List Tok → List Out) : Prop :=
  ∀ s ts, CanFire s h (sl s) ts → ok s ts → exec i s = .next (fired s (after s ts) h (sl s).rd (outs s ts))

/-- A word that only emits: one result, to both targets. -/
def Emits (i : Instr) (h : Hd) (sl : Slots) (ok : State → List Tok → Prop) (out : State → List Tok → Tok) : Prop :=
  Fires i h (fun _ => sl) ok (fun s _ => s) (fun s ts => [outBoth (out s ts)])

def always : State → List Tok → Prop := fun _ _ => True

/-- Slots that only carry, and the slots of a generator, which reads a trigger (R209, R210). -/
def carrying (rd : List Nat) : Slots := ⟨rd, rd, [], []⟩
/-- Slots that all compute. -/
def computing (rd : List Nat) : Slots := ⟨rd, rd, rd, rd⟩

/-- A 64-bit result: lane 0 of the payload, the rest zero (R209). -/
def lane64Result (s : State) (ts : List Tok) (v : Word) : Tok := result s.cur.word ts (v.zeroExtend 384)

/-- Tokens meet a condition on the state. -/
def whenever (p : State → Prop) : State → List Tok → Prop := fun s _ => p s
/-- The word waits in no commit buffer and emits nothing: its effect is the state `after`. -/
def Acts (i : Instr) (h : Hd) (sl : Slots) (ok : State → List Tok → Prop) (after : State → List Tok → State) : Prop :=
  Fires i h (fun _ => sl) ok after (fun _ _ => [])
/-- The word puts one effect into its instance's commit buffer (R30), with memory-sequence number `m`, and emits nothing. -/
def Holds (i : Instr) (h : Hd) (sl : Slots) (m : Nat) (ok : State → List Tok → Prop) (e : State → List Tok → Eff) : Prop :=
  Acts i h sl ok (fun s ts => s.hold m (tk ts 0).wave (e s ts))

/-- The tokens of an instance at one slot of a node discarded. -/
def clearSlot (s : State) (n : Node) (k : Key) (p : Nat) : State :=
  { s with fab := { s.fab with ostore := s.fab.ostore.filter fun t => !(t.node = n && t.key = k && t.port = p) } }

/-- The instance that the firing belongs to, its level as a number, and its tag's record. -/
def lvl (s : State) : Nat := s.cur.key.lvl.toNat
def tagHere (s : State) : Option TagRec := (s.strandOf s.cur.node.ctx).bind (·.tagRec s.cur.key)
def contHere (s : State) : Option Bool := (tagHere s).bind (·.cont)

/-! Lane words: the result of one lane from the operand lanes in slot order, each a code and its value (R235). -/

def val (l : List Lane) (i : Nat) : Int := (l.getD i (0, 0)).2
def code (e : LaneEnv) (l : List Lane) (i : Nat) : Nat := (l.getD i (0, 0)).1 % 2 ^ e.w
/-- A word whose result lanes `op` gives, on operands that pass its format checks; IMM16 stands in for slot 1 (R199). -/
def LaneWord (i : Hd → FmtA → Instr) (base : List Nat) (l : Limits) (op : FmtA → LaneEnv → List Lane → Nat) : Prop :=
  ∀ h a, Emits (i h a) h (computing (slotsA a base)) (fun s ts => s.formatFault a l (slotsA a base) ts = none)
    (fun s ts => s.intResult a (slotsA a base) (op a) ts)
/-- An arithmetic lane word: the exact integer, fitted to VCO (R91). -/
def Arith (i : Hd → FmtA → Instr) (base : List Nat) (op : FmtA → LaneEnv → List Lane → Int) : Prop :=
  LaneWord i base arithLimits fun a e l => fitInt e.fo e.sat (op a e l)

/-- Valid lanes of the slot-0 token under VCI, and lanes per beat of VCO. -/
def lanesIn (s : State) (a : FmtA) (ts : List Tok) : Nat := validLanes (fmtOf (s.ent a.vci)) (tk ts 0)
def lanesOut (s : State) (a : FmtA) : Nat := fmtLanes (fmtOf (s.ent a.vco))
def fmtIn (s : State) (a : FmtA) : Nat := fmtOf (s.ent a.vci)
def fmtOut (s : State) (a : FmtA) : Nat := fmtOf (s.ent a.vco)

/-- A float lane word: exact lane results of the scaled operand values, rounded once into VCO (R245, R248). -/
def FloatWord (i : Hd → FmtA → Instr) (base : List Nat) (op : FmtA → Rnd → List Val → Val) : Prop :=
  ∀ h a, Fires (i h a) h (fun _ => computing (slotsA a base))
    (fun s ts => s.formatFault a floatLimits (slotsA a base) ts = none)
    (fun s ts => s.wrote s.cur.node a.vco (lanesIn s a ts))
    (fun s ts => [outBoth (result s.cur.word ts (s.encodeLanes a
      ((s.floatLanes a (slotsA a base) ts (lanesIn s a ts)).map (op a (s.rndOfA a)))))])

/-- A conversion: the lanes of slot 0 in VCO, which must have room for them (R249). -/
def Converts (i : Hd → FmtA → Instr) (l : Limits) : Prop :=
  ∀ h a, Fires (i h a) h (fun _ => computing [0])
    (fun s ts => s.formatFault a l [0] ts = none ∧ lanesIn s a ts ≤ lanesOut s a)
    (fun s ts => s.wrote s.cur.node a.vco (lanesIn s a ts))
    (fun s ts => [outBoth { result s.cur.word ts (s.encodeLanes a ((s.floatLanes a [0] ts (lanesIn s a ts)).map v0)) with
      nlane := nlaneFor (fmtOut s a) (lanesIn s a ts) }])

/-- A lane mover that emits one beat: element codes `codes` of VCO's width, valid lanes `nl` (R251). -/
def Moves (i : Hd → FmtA → Instr) (sl : FmtA → Slots) (ok : FmtA → State → List Tok → Prop)
    (codes : FmtA → State → List Tok → List Nat) (nl : FmtA → State → List Tok → BitVec 7) : Prop :=
  ∀ h a, Emits (i h a) h (sl a) (ok a) fun s ts => s.moverResult a ts [tk ts 0] (codes a s ts) (nl a s ts)
/-- All lanes of VCO. -/
def fullBeat (a : FmtA) (s : State) (_ : List Tok) : BitVec 7 := nlaneFor (fmtOut s a) (s.beatLanes a)

/-! Memory words. -/

/-- A memory word's access is granted: its strand, its turn in the memory sequence (R33), page tables that are ready to be read
(R350), and the address, translation and protection of R133, R134 and R274. `t` is the state after the translation. -/
def Granted (s : State) (m : FmtM) (ts : List Tok) (size : Nat) (write : Bool) (op : Nat) (st : Strand) (a : Acc) (t : State) :
    Prop :=
  s.here = some st ∧ s.notTurn m ts = false ∧ s.nodeWaits st s.cur.node m.space (effAddr m size (tk ts 0)) = false ∧
    s.access st s.cur.node m.space.toNat (effAddr m size (tk ts 0)) size write op = (.ok a, t)
/-- The same of a word that may name another module's page: its binding stands too (R169). -/
def RemoteGranted (s : State) (m : FmtM) (ts : List Tok) (write : Bool) (op : Nat) (st : Strand) (a : Acc) (t : State) : Prop :=
  s.here = some st ∧ s.notTurn m ts = false ∧ s.nodeWaits st s.cur.node m.space (effAddr m 48 (tk ts 0)) = false ∧
    s.remoteAcc st s.cur.node m (effAddr m 48 (tk ts 0)) write op = (.ok a, t)
/-- A load may read: no read-modify-write of its cell and no released store waits on the bytes (R157), and its memory is usable. -/
def MayRead (s t : State) (m : FmtM) (ts : List Tok) (size : Nat) (st : Strand) (a : Acc) : Prop :=
  s.rmwBusy s.cur.node m.space (effAddr m size (tk ts 0)) size = false ∧ t.ahead st a = false ∧
    t.portBusy s.cur.node a size = false
/-- The load has issued from state `u`, and `outs` is what its node waits for (R155). -/
def loads (s u : State) (m : FmtM) (ts : List Tok) (outs : List Out) : State :=
  (u.issue m ts).respond s.cur.node u.cur.key outs false

/-! Words that collect a request over several firings (R94, R295, R298). -/

/-- What the node keeps of a request so far, and how many of its tokens have come. -/
def keptHere (s : State) : Option Kept := s.keptOf s.cur.node s.cur.key
def came (s : State) : Nat := ((keptHere s).map (·.toks.length)).getD 0
/-- The slots that the next index token of GATH or SCAT is taken with: the descriptor comes with the first. -/
def indexSlots (s : State) : List Nat := if came s = 0 then [0, 1] else [0]
/-- The request with one more index token, whose indices are read in state `t`, when it fires (R87). -/
def withIndex (s t : State) (ts : List Tok) : Kept :=
  ((keptHere s).getD ⟨s.cur.node, s.cur.key, [tk ts 1], [], []⟩).addIndex (tk ts 0) (t.indices (tk ts 0))
/-- The whole request is put into the commit buffer for the gather engine: its indices, and its row beats as the firings read them. -/
def asksGather (t : State) (scat : Bool) (x : FmtX) (k : Kept) : State :=
  (t.unkeep t.cur.node t.cur.key).hold 127 (k.toks.headD {}).wave
    (.engine 16 (.gath scat x.aux (k.ctl.headD {}).data k.idx k.rows { k.toks.headD {} with fl := {}, data := 0 }))

/-! Read-modify-write words that perform later (R30, R227). -/

/-- Entry `n` of the queue is `r`, and its instance is settled. -/
def Settled (s : State) (n : Nat) (r : Rmw) (st : Strand) : Prop :=
  s.mem.rmwq[n]? = some r ∧ s.strandOf r.node.ctx = some st ∧ st.frozen = false ∧ st.live r.key = true ∧
    s.settled st r.key = true
/-- The tokens its firing took, slot 3 apart. -/
def opsOf (r : Rmw) : List Tok := (r.ops.filter fun x => x.1 != 3).map (·.2)
/-- The state in which a queued word acts. -/
def actingFor (s : State) (r : Rmw) (st : Strand) : State := { s with cur := ⟨r.node, r.key, r.word, st.die, st.task⟩ }
/-- It has performed with effects `t`, and `outs` return to its node. -/
def performed (t : State) (r : Rmw) (outs : List Out) : State :=
  let u := if countsAsRmw (opcode r.word) then (t.dropRmw r).markRmw r.node r.key 0 else t.dropRmw r
  if outs = [] then u else u.respond r.node r.key outs false

/-- MCLR drops this entry of the partial-sum store: all with its bit 0, else its own tag's; one that an open record holds stays. -/
def clears (u : State) (r : Rmw) (y : TileTag) : Bool :=
  (bit r.word 0 || (y.key = r.key && y.slot = r.node.ctx.slot)) && !u.tileFrozen ⟨{ r.node.ctx with slot := y.slot }, 0⟩ y.key
/-- The declaration of a VDCL with SYSW = 1. -/
def declares (r : Rmw) (t : Tok) : TileDecl := ⟨r.word.extractLsb' 50 3, r.word.extractLsb' 0 3, t.data.extractLsb' 0 32⟩

/-! Match words (R303 to R311). -/

/-- The next beat of a key or query record stands at slot 0 of state `t`, taken in SEQ order (R305); `final` when it is the last. -/
structure KeyBeat (s t : State) (key : Nat) (final : Bool) : Prop where
  next : s.nextKeyBeat s.cur.node s.cur.key key = some t
  here : t.cur = s.cur
  beat : ∃ x, t.slotTok s.cur.node s.cur.key 0 = some x ∧ x.fl.nil = false ∧ x.fl.last = final ∧ x.seq.toNat < s.keyBeats key ∧
    (final = true ↔ x.seq.toNat + 1 = s.keyBeats key)
  format : t.keyFmtFault key = none
/-- The beats that have come before it. -/
def keyBeatsKept (s : State) : List Tok := ((keptHere s).map (·.toks)).getD []
/-- None of these conditions holds. -/
def noneOf (l : List (Nat × Bool)) : Prop := ∀ x ∈ l, x.2 = false
/-- A store-class match word has issued: its operation waits for the store's port, and a zero token shows the issue. -/
def ported (s : State) (c : FmtK) (ts : List Tok) (op : PortOp) : State := s.hold 127 (tk ts 0).wave (.port c.sel.toNat c.keyvc op)
def zeroOut (s : State) (ts : List Tok) : List Out := [outBoth (s.zeroTok ts)]
/-- What a merge node has, and the slots its next token is taken with. -/
def mergeHere (s : State) (ts : List Tok) : Merge :=
  match keptHere s with
  | none => Merge.open (tk ts 1)
  | some k => Merge.ofKept k
def mergeSlots (s : State) : Slots := if keptHere s = none then ⟨[0, 1], [0, 1], [1], [1]⟩ else ⟨[0], [0, 1], [], []⟩
/-- Every store of another module that a merge has to ask is reached by a binding (R166, R309). -/
def Fetchable (s : State) (l : List (Nat × Option Nat)) : Prop := ∀ x ∈ l, s.gidBinding s.cur.node x.1 ≠ none
/-- A token that only marks the end of a store's results. -/
def isMark (t : Tok) : Bool := t.fl.endf || t.fl.nil || t.fl.retry

/-! The sequencer (R330 to R334). -/

/-- Strand `st` executes the sequencer word of `s.cur`: no phase of it runs, and it is neither frozen nor being saved (R330). -/
def Sequencing (s : State) (st : Strand) : Prop :=
  s.strand s.cur.die s.cur.task = some st ∧ st.mode = .run ∧ st.saving = false ∧ st.frozen = false
/-- The strand with another SQPC. -/
def goTo (s : State) (st : Strand) (f : Word → Word) : State := s.onStrand st.die st.task fun x => { x with sqpc := f x.sqpc }
def nextWord (s : State) (st : Strand) : State := goTo s st (· + 8)
/-- A branch goes to the word's own address plus IMM32 × 8 (R331). -/
def branch (s : State) (st : Strand) (q : SeqW) : State := goTo s st fun pc => pc + q.imm.signExtend 64 * 8
/-- v of R331: DB's register, or IMM32 sign-extended. -/
def operandOf (s : State) (st : Strand) (q : SeqW) : Word := if q.imb then q.imm.signExtend 64 else s.readReg st q.db.toNat
/-- QBR's condition on its registers as S64 (R201, R331). -/
def holdsCond (fn : Nat) (a b : Int) : Prop :=
  (fn = 0 ∧ a = b) ∨ (fn = 1 ∧ a ≠ b) ∨ (fn = 2 ∧ a < b) ∨ (fn = 3 ∧ a ≤ b) ∨ (fn = 4 ∧ b < a) ∨ (fn = 5 ∧ b ≤ a) ∨ fn = 6
/-- Engine `e` of every wafer of the set armed with `d`, which S_e keeps (R149, R333). -/
def armsAll (s : State) (st : Strand) (e : Nat) (d : BitVec 256) (k : Key) : State :=
  st.wafers.foldl (fun s w => s.armStream st.die w e d k 4 st.task)
    (s.onStrand st.die st.task fun x => { x with sd := Tab.put 0 e d x.sd })
/-- A token moves within the fabric. -/
def withFab (s : State) (f : Fabric → Fabric) : State := { s with fab := f s.fab }

/-! The pod and the host. -/

def withPod (s : State) (f : Pod → Pod) : State := { s with pod := f s.pod }
def withHost (s : State) (f : HostIf → HostIf) : State := { s with host := f s.host }
/-- Tchizer's answer at the mailbox of the request's port; the connection of its slot is then at `stage` (R349, R401). -/
def answered (s : State) (q : SpdmReq) (stage : Nat) (v : BitVec 512) : State :=
  withHost s fun h => { h with answers := Tab.put 0 (b2n q.port) v h.answers, spdm := Tab.put 0 (spdmKey q) stage h.spdm }

/-! Predicates, and what a firing leaves alone. -/

/-- What a word of one fixed shape reads in state `s`: its slots, those it could ever read, and its memory-sequence number (R18, R33).
Words that take their tokens in an order of their own, and the steal form of SPLT, have none. -/
def shape (s : State) : Instr → Option (Hd × List Nat × List Nat × Nat)
  | .movCopy h _ | .movImmediate h _ | .ineg h _ | .iabs h _ | .inot h _ | .iclz h _ | .ipopc h _ | .fabs h _
  | .fneg h _ | .fcvt h _ | .frcp h _ | .frsq h _ | .fex2 h _ | .flg2 h _ | .ftnh h _ | .itof h _ | .ftoi h _
  | .frnd h _ | .vred h _ | .vscan h _ | .vunpk h _ | .viota h _ | .hdr h _ | .qnt h _ | .i4xp h _ | .i4xu h _
  | .iscr h _ => some (h, [0], [0], 127)
  | .movi h _ | .movhi h _ | .fan h _ | .drop h _ | .rdk h _ | .cnst h _ | .vcget h _ | .vdclDeclare h _ | .rdsr h _
  | .taga h _ | .tagf h _ | .tagxUp h _ | .wrk h _ | .vcset h _ | .rdci h _ | .mswp h _ | .mctl h _ | .mclr h _
  | .vdclSystolic h _ | .thrp h _ | .spfk h _ | .sprl h _ | .spwn h _ | .sprg h _ | .trap h _ | .bkpt h _ | .svc h _
  | .wrsr h _ | .cpri h _ | .yld h _ | .spltClaim h _ | .done h _ | .frd h _ | .resm h _ => some (h, [0], [0], 127)
  | .strm h _ | .cntrRead h _ | .cntrStall h _ | .cntrLink h _ | .eosd h _ | .sarm h _ | .qfnc h _ | .cntrSnap h _
  | .dcnt h _ | .steal h _ | .perf h _ => some (h, [0], [0], 127)
  | .exit h _ | .brb h _ => some (h, [0], [0], 127)
  | .kdef h _ | .kdel h _ | .kgen h _ | .kcnt h _ | .kflt h _ | .ksid h _ => some (h, [0], [0], 127)
  | .mlds h _ | .mdrn h _ => some (h, [0], [0], 127)
  | .idx h a | .iadd h a | .isub h a | .imul h a | .imulh h a | .idiv h a | .irem h a | .imin h a | .imax h a
  | .iand h a | .ior h a | .ixor h a | .ishl h a | .ishr h a | .isar h a | .irot h a | .ibfx h a | .icmp h a
  | .addi h a | .fadd h a | .fsub h a | .fmul h a | .fmin h a | .fmax h a | .fcmp h a | .fexs h a | .fscl h a
  | .vbcst h a | .vdot h a | .vlane h a | .sclx h a | .vpik h a => some (h, slotsA a [0, 1], slotsA a [0, 1], 127)
  | .imad h a | .ibfi h a | .lea h a | .aff h a | .clamp h a | .fma h a | .vselm h a => some (h, slotsA a [0, 1, 2], slotsA a [0, 1, 2], 127)
  | .vshuf h a | .vcmpr h a | .vexpd h a | .vpack h a | .dqnt h a => some (h, slotsA a [0, 1], slotsA a [0, 1], 127)
  | .bnds h _ => some (h, [0, 1], [0, 1], 127)
  | .steer h _ | .tagxDown h _ | .plog h _ | .xpk h _ => some (h, [0, 1], [0, 1], 127)
  | .xfer h _ | .trdy h _ => some (h, [0, 1], [0, 1], 127)
  | .sel h _ => some (h, [0, 1, 2], [0, 1, 2], 127)
  | .ord h p => some (h, if p.getLsbD 0 then [0, 1, 2] else [0, 1], if p.getLsbD 0 then [0, 1, 2] else [0, 1], 127)
  | .merge h _ => some (h, [s.earlier s.cur.node s.cur.key], [0, 1], 127)
  | .ld h m | .ldb h m | .ldl h m | .lds h m | .deq h m | .fnc h m | .glaze h m | .splk h m => some (h, [0], [0], m.msq.toNat)
  | .pref h m => some (h, [0], [0, 1, 2], m.msq.toNat)
  | .st h m | .stb h m | .stnt h m | .sts h m | .enq h m | .atom h m | .fatom h m | .dfnc h m | .spap h m | .rld h m => some (h, [0, 1], [0, 1], m.msq.toNat)
  | .cas h m | .rst h m | .ratm h m => some (h, [0, 1, 2], [0, 1, 2], m.msq.toNat)
  | _ => none

/-- Words whose whole effect is on tokens: they read no memory and hold nothing back. -/
def dataflow : Instr → Bool
  | .movCopy _ _ | .movImmediate _ _ | .ineg _ _ | .iabs _ _ | .inot _ _ | .iclz _ _ | .ipopc _ _ | .fabs _ _
  | .fneg _ _ | .fcvt _ _ | .frcp _ _ | .frsq _ _ | .fex2 _ _ | .flg2 _ _ | .ftnh _ _ | .itof _ _ | .ftoi _ _
  | .frnd _ _ | .vred _ _ | .vscan _ _ | .vunpk _ _ | .viota _ _ | .hdr _ _ | .qnt _ _ | .i4xp _ _ | .i4xu _ _
  | .iscr _ _ | .idx _ _ | .iadd _ _ | .isub _ _ | .imul _ _ | .imulh _ _ | .idiv _ _ | .irem _ _ | .imin _ _
  | .imax _ _ | .iand _ _ | .ior _ _ | .ixor _ _ | .ishl _ _ | .ishr _ _ | .isar _ _ | .irot _ _ | .ibfx _ _
  | .icmp _ _ | .addi _ _ | .fadd _ _ | .fsub _ _ | .fmul _ _ | .fmin _ _ | .fmax _ _ | .fcmp _ _ | .fexs _ _
  | .fscl _ _ | .vbcst _ _ | .vdot _ _ | .vlane _ _ | .sclx _ _ | .vpik _ _ | .imad _ _ | .ibfi _ _ | .lea _ _
  | .aff _ _ | .clamp _ _ | .fma _ _ | .vshuf _ _ | .vcmpr _ _ | .vexpd _ _ | .vpack _ _ | .dqnt _ _ | .bnds _ _
  | .vselm _ _ => true
  | .movi _ _ | .movhi _ _ | .fan _ _ | .drop _ _ | .rdk _ _ | .cnst _ _ | .vcget _ _ | .vdclDeclare _ _ | .rdsr _ _
  | .steer _ _ | .sel _ _ | .plog _ _ | .merge _ _ | .ord _ _ | .xpk _ _ => true
  | .strm _ _ | .cntrRead _ _ | .cntrStall _ _ | .cntrLink _ _ => true
  | _ => false

/-- Words whose effect waits: for their instance's commit in its buffer, or in the queue of read-modify-writes until it is settled. -/
def waiting : Instr → Bool
  | .tagf _ _ | .tagxUp _ _ | .wrk _ _ | .vcset _ _ | .mswp _ _ | .mctl _ _ | .mclr _ _ | .vdclSystolic _ _ | .thrp _ _
  | .rdci _ _ | .svc _ _ | .wrsr _ _ | .cpri _ _ | .done _ _ | .resm _ _ | .spfk _ _ | .sprl _ _ => true
  | .eosd _ _ | .sarm _ _ | .qfnc _ _ | .cntrSnap _ _ | .xfer _ _ | .dcnt _ _ | .trdy _ _ => true
  | .exit _ _ | .brb _ _ => true
  | .kdef _ _ | .kgen _ _ | .kflt _ _ | .ksid _ _ => true
  | .fnc _ _ | .glaze _ _ => true
  | .mlds _ _ => true
  | _ => false

/-- Memory words; LDB in space 101 reads through the sequence port. -/
def touching : Instr → Bool
  | .ld _ _ | .ldl _ _ | .lds _ _ | .pref _ _ | .st _ _ | .stnt _ _ | .stb _ _ | .sts _ _ | .enq _ _ | .deq _ _
  | .atom _ _ | .cas _ _ | .fatom _ _ | .dfnc _ _ | .rst _ _ | .ratm _ _ => true
  | .ldb _ m => m.space != 5
  | _ => false

/-- What the firing of any of these words leaves alone: everything but tokens, latches and header latches of the node, the mark that it
has issued, the beats counted for the streams that feed it, its fault register, and its strand's record of the instance. A firing that
faults keeps its operands (R353). -/
structure Apart (s t : State) : Prop where
  cur : t.cur = s.cur
  agenda : t.agenda = s.agenda
  pl : t.pl = s.pl
  sch : t.sch = s.sch
  mat : t.mat = s.mat
  tiles : t.tiles = s.tiles
  pages : t.pages = s.pages
  pod : t.pod = s.pod
  saved : t.saved = s.saved
  host : t.host = s.host
  fab : t.fab = { s.fab with latch := t.fab.latch, ostore := t.fab.ostore, hlatch := t.fab.hlatch, issued := t.fab.issued }
  eng : t.eng = { s.eng with streams := t.eng.streams }
  flt : t.flt = { s.flt with regs := t.flt.regs }
  taken : ∀ x ∈ t.fab.ostore, x ∈ s.fab.ostore
  others : ∀ x ∈ s.fab.ostore, x.node ≠ s.cur.node → x ∈ t.fab.ostore
  kept : ∀ l ∈ s.fab.latch, l ∈ t.fab.latch
  put : ∀ l ∈ t.fab.latch, l ∈ s.fab.latch ∨ (l.node = s.cur.node ∧ l.key = s.cur.key)
  headers : t.fab.hlatch.map (fun x => (x.node, x.port, x.vc, x.words)) = s.fab.hlatch.map fun x => (x.node, x.port, x.vc, x.words)
  streams : (t.eng.streams.map fun e => (e.1, { e.2 with consumed := 0 })) = s.eng.streams.map fun e => (e.1, { e.2 with consumed := 0 })
  faults : ∀ r ∈ s.flt.regs, r.node ≠ s.cur.node → r ∈ t.flt.regs
  exact : t.flt.regs = s.flt.regs ∨ (t.fab.ostore = s.fab.ostore ∧ t.fab.latch = s.fab.latch ∧ t.eng = s.eng)
  strands : ∀ x ∈ t.strands, x ∈ s.strands ∨ ∃ st, s.here = some st ∧ { x with insts := st.insts } = st ∧
    ∀ y ∈ x.insts, y ∈ st.insts ∨ (y.ctx = s.cur.node.ctx ∧ y.key = s.cur.key)
  strandsKept : ∀ x ∈ s.strands, x ∈ t.strands ∨ ∃ st, s.here = some st ∧ x.is st.die st.task = true

/-! Sequencer words that change registers, branch, arm or wait. -/

def steering : Instr → Option SeqW
  | .qloop q | .qbr q | .qarmRegister q | .qarmConstants q | .qarmKeep q | .qwaitStream q | .qwaitCycles q | .qset q | .qadd q
  | .qprd q | .qglzWait q | .qglzNowait q => some q
  | _ => none

/-! Memory. -/

/-- The byte at an address of a memory. -/
def byteAt (m : List Host.Cell) (a : Nat) : Byte := Tab.get memDefault a m
/-- Memory and the banks, and the bank of every saved wafer, are in canonical form; a saved bank holds the bytes of one wafer. -/
def MemCanonical (s : State) : Prop :=
  Memory.wf s.mem.phys = true ∧ Memory.wf s.mem.bank = true ∧
  ∀ v ∈ s.saved, ∀ m ∈ v.wafers, Memory.wf m.bank = true ∧ ∀ c ∈ m.bank, c.1 < 64 * Config.bankBytes
/-- ATOM's new value from the old one and the operand, w bits wide (R281). -/
def atomValue (op w : Nat) (sg : Bool) (old b : Nat) : Nat :=
  match op with
  | 0 => (old + b) % 2 ^ w
  | 1 => old &&& b
  | 2 => old ||| b
  | 3 => old ^^^ b
  | 4 => if (if sg then signed w b < signed w old else b < old) then b else old
  | 5 => if (if sg then signed w old < signed w b else old < b) then b else old
  | _ => b

end Sys2Proof.Claims

open Sys2Proof Sys2Proof.Machine Sys2Proof.Claims

/-- Words of R212 whose whole effect is the token they emit (R213 to R217, R220, R221, R230, R231, R233); MOVI and MOVHI reach every
value from -2^59 to 2^59 - 1. -/
def Obligations.MovementWordsEmit : Prop :=
  ∀ h : Hd,
    (∀ a, Emits (.movCopy h a) h (carrying [0]) always fun _ ts => { tk ts 0 with vc := a.vco }) ∧
    (∀ p, Emits (.movi h p) h (carrying [0]) always fun s ts => lane64Result s ts (p.signExtend 64)) ∧
    (∀ p, Emits (.movhi h p) h (computing [0]) always fun s ts =>
      lane64Result s ts (((tk ts 0).data.extractLsb' 0 30).zeroExtend 64 + (p.signExtend 64 <<< 30))) ∧
    (∀ p, Emits (.fan h p) h (carrying [0]) always fun _ ts => tk ts 0) ∧
    (∀ p, Fires (.drop h p) h (fun _ => carrying [0]) always (fun s _ => s) fun _ _ => []) ∧
    (∀ p, Fires (.steer h p) h (fun _ => ⟨[0, 1], [0, 1], [1], []⟩) always (fun s _ => s) fun _ ts =>
      [if pred (tk ts 1) then outA (tk ts 0) else outB (tk ts 0)]) ∧
    (∀ p, Emits (.sel h p) h ⟨[0, 1, 2], [0, 1, 2], [0], []⟩ always fun _ ts => if pred (tk ts 0) then tk ts 1 else tk ts 2) ∧
    (∀ p, Fires (.merge h p) h (fun s => ⟨[s.earlier s.cur.node s.cur.key], [0, 1], [], []⟩) always (fun s _ => s) fun _ ts =>
      [outBoth (tk ts 0)]) ∧
    (∀ p, Emits (.plog h p) h ⟨[0, 1], [0, 1], [0, 1], []⟩ always fun _ ts =>
      { tk ts 0 with
        fl := { nil := false, endf := (tk ts 0).fl.endf || (tk ts 1).fl.endf, last := (tk ts 0).fl.last || (tk ts 1).fl.last }
        data := if h.fn.getLsbD ((if pred (tk ts 0) then 2 else 0) + if pred (tk ts 1) then 1 else 0) then 1 else 0 }) ∧
    (∀ p, Emits (.cnst h p) h (carrying [0]) always fun s ts =>
      lane64Result s ts (s.const s.cur.node.ctx.die s.cur.node.ctx.wafer (p.extractLsb' 0 6).toNat)) ∧
    (∀ p, Emits (.ord h p) h (carrying (if p.getLsbD 0 then [0, 1, 2] else [0, 1])) always fun _ ts =>
      { tk ts 0 with fl := {}, data := 0 }) ∧
    (∀ x, Emits (.strm h x) h (carrying [0]) always fun s ts => result s.cur.word ts
      (strmPayload (s.stream s.cur.node.ctx.die s.cur.node.ctx.wafer (x.id.extractLsb' 0 4).toNat))) ∧
    (∀ a, Fires (.movImmediate h a) h (fun _ => carrying [0])
        (fun s ts => fmtOf (s.ent a.vci) < 18 ∧ fmtOf (s.ent a.vco) < 18 ∧
          s.scaleOutFault s.cur.node a.vco (validLanes (fmtOf (s.ent a.vco)) (tk ts 0)) = none)
        (fun s ts => s.wrote s.cur.node a.vco (validLanes (fmtOf (s.ent a.vco)) (tk ts 0)))
        (fun s ts => [outBoth (result s.cur.word ts
          (s.encodeLanes a (List.replicate (fmtLanes (fmtOf (s.ent a.vco))) (immVal (fmtOf (s.ent a.vci)) a.imm))))])) ∧
    (∀ v : Int, -2 ^ 59 ≤ v → v < 2 ^ 59 → ∃ lo hi : BitVec 30,
      ((lo.signExtend 64).extractLsb' 0 30).zeroExtend 64 + (hi.signExtend 64 <<< 30) = BitVec.ofInt 64 v)


/-- Tag words, exits and carry registers complete (R222 to R229, R234): the request, the token into the other instance, or the
effect held until the instance commits. -/
def Obligations.TagAndExitWordsAct : Prop :=
  ∀ h : Hd,
    (∀ p st b, Acts (.taga h p) h (carrying [0])
      (whenever fun s => s.here = some st ∧ s.block s.cur.node.ctx = some b ∧
        (bits p 0 3 = lvl s + 1 ∨ (bits p 0 3 = lvl s ∧ (b.spec = true ∨ (st.tagRec s.cur.key).bind (·.cont) = some true))))
      (fun s ts => s.setStrand { st with reqs := st.reqs ++ [⟨s.cur.node, s.cur.key, tk ts 0, BitVec.ofNat 3 (bits p 0 3),
        if bits p 0 3 = lvl s + 1 then some s.cur.key else (st.tagRec s.cur.key).bind (·.parent), 0, false⟩] })) ∧
    (∀ p, Holds (.tagf h p) h (carrying [0]) 127 (whenever fun s => bits p 0 3 = lvl s) fun _ _ => .tagf (bits p 0 3)) ∧
    (∀ p st, Acts (.tagxDown h p) h ⟨[0, 1], [0, 1], [1], [1]⟩
      (fun s ts => s.here = some st ∧ (tagOf (tk ts 1)).lvl.toNat = lvl s + 1 ∧
        st.grantedTo s.cur.node.ctx s.cur.key (tagOf (tk ts 1)) = true)
      (fun s ts => s.emitInto s.cur.node (tagOf (tk ts 1)) h (outBoth (tk ts 0)))) ∧
    (∀ p st q, Holds (.tagxUp h p) h (carrying [0]) 127
      (whenever fun s => s.here = some st ∧ s.cur.key.lvl ≠ 0 ∧ (st.tagRec s.cur.key).bind (·.parent) = some q)
      (fun s ts => .leave ((targetsOf h (outBoth (tk ts 0))).map fun d =>
        ⟨⟨s.cur.node.ctx, d.1⟩, d.2, q, { tk ts 0 with age := 0 }⟩))) ∧
    (∀ p, Acts (.wadv h p) h ⟨[0, 1, 2], [0, 1, 2], [2], [1]⟩
      (fun s ts => pred (tk ts 2) = true ∧ contHere s ≠ some false ∧ (tagOf (tk ts 1)).lvl = s.cur.key.lvl)
      (fun s ts => (s.setCont s.cur.node.ctx s.cur.key true).emitInto s.cur.node (tagOf (tk ts 1)) h
        (outBoth { tk ts 0 with wave := (tk ts 0).wave + 1 }))) ∧
    (∀ p, Acts (.wadv h p) h ⟨[0, 2], [0, 1, 2], [2], []⟩
      (fun s ts => pred (tk ts 1) = false ∧ contHere s ≠ some true)
      (fun s _ => clearSlot (s.setCont s.cur.node.ctx s.cur.key false) s.cur.node s.cur.key 1)) ∧
    (∀ p, Fires (.gate h p) h (fun s => ⟨[s.earlier s.cur.node s.cur.key], [0, 1], [], []⟩)
      (whenever fun s => s.keptOf s.cur.node s.cur.key = none)
      (fun s _ => s.setKept ⟨s.cur.node, s.cur.key, [], [], []⟩) (fun _ ts => [outBoth (tk ts 0)])) ∧
    (∀ c, Holds (.exit h c) h (carrying [0]) 127 always fun _ _ => .exit c.exn none) ∧
    (∀ c b, Holds (.brb h c) h (carrying [0]) 127 (whenever fun s => s.block s.cur.node.ctx = some b) fun _ _ =>
      .exit c.exn (some (b.own + c.boff.signExtend 64 * 16))) ∧
    (∀ p st b, Emits (.rdk h p) h (carrying [0])
      (whenever fun s => s.here = some st ∧ s.block s.cur.node.ctx = some b ∧
        (b.krd (bits p 0 5) = true → b.kwr (bits p 0 5) = true → st.oldest s.cur.key = true))
      fun s ts => lane64Result s ts (Tab.get 0 (bits p 0 5) st.k)) ∧
    (∀ p, Holds (.wrk h p) h ⟨[0], [0], [], [0]⟩ 127 always fun _ ts =>
      .carry (bits p 0 5) ((tk ts 0).data.extractLsb' 0 64)) ∧
    (∀ x, Holds (.eosd h x) h (carrying [0]) 127 always fun _ _ => .eosd (bits x.id 0 4))

/-- MRGO takes a token no wave earlier than the next expected, at most 15 ahead of it and alone of its wave into its window of 16,
and lets go what its window can release (R43, R219). -/
def Obligations.MrgoTakes : Prop :=
  ∀ h p, Fires (.mrgo h p) h (fun s => ⟨[s.earlier s.cur.node s.cur.key], [0, 1], [], []⟩)
    (fun s ts =>
      let m := s.window s.cur.node s.cur.key.lvl (tk ts 0).wave
      s.mrgoHas s.cur.node s.cur.key = true ∧ s.waveKnown s.cur.node.ctx s.cur.key.lvl = true ∧
        ((tk ts 0).wave - m.next).toNat < 16 ∧ m.win.length < 16 ∧ ∀ x ∈ m.win, x.tok.wave ≠ (tk ts 0).wave)
    (fun s ts =>
      let m := s.window s.cur.node s.cur.key.lvl (tk ts 0).wave
      s.release h { m with win := m.win ++ [⟨s.cur.node, s.earlier s.cur.node s.cur.key, s.cur.key, tk ts 0⟩] })
    (fun _ _ => [])

/-- The arithmetic words of R236: the exact lane results, fitted to VCO. IDX: a + w × c, w the waves since the first of the
level's current entry (R232); CMP: the comparison of exact values (R240). -/
def Obligations.ArithmeticWordsEmit : Prop :=
  Arith .iadd [0, 1] (fun _ _ l => val l 0 + val l 1) ∧
  Arith .isub [0, 1] (fun _ _ l => val l 0 - val l 1) ∧
  Arith .imul [0, 1] (fun _ _ l => val l 0 * val l 1) ∧
  Arith .imulh [0, 1] (fun _ e l => (val l 0 * val l 1).fdiv ((2 ^ e.w : Nat) : Int)) ∧
  Arith .imad [0, 1, 2] (fun _ _ l => val l 0 * val l 1 + val l 2) ∧
  Arith .ineg [0] (fun _ _ l => -val l 0) ∧
  Arith .iabs [0] (fun _ _ l => (val l 0).natAbs) ∧
  Arith .imin [0, 1] (fun _ _ l => min (val l 0) (val l 1)) ∧
  Arith .imax [0, 1] (fun _ _ l => max (val l 0) (val l 1)) ∧
  Arith .addi [0, 1] (fun a _ l => val l 0 + signed 16 a.imm.toNat) ∧
  Arith .clamp [0, 1, 2] (fun _ _ l => min (max (val l 0) (val l 1)) (val l 2)) ∧
  (∀ h a, Emits (.idx h a) h (computing (slotsA a [0, 1]))
    (fun s ts => s.formatFault a arithLimits (slotsA a [0, 1]) ts = none ∧ s.waveKnown s.cur.node.ctx s.cur.key.lvl = true)
    fun s ts => s.intResult a (slotsA a [0, 1])
      (fun e l => fitInt e.fo e.sat (val l 0 + ((tk ts 0).wave - s.wave0 s.cur.key).toNat * val l 1)) ts) ∧
  (∀ h a, Emits (.icmp h a) h (computing (slotsA a [0, 1])) (fun s ts => s.formatFault a cmpLimits (slotsA a [0, 1]) ts = none)
    fun s ts => s.cmpResult h a (slotsA a [0, 1]) ts)

/-- DIV and REM (R237): the exact quotient rounded in the mode of RND or of VCO, the remainder that matches it, and a zero divisor, which
gives VCO's bound of the dividend's sign and the dividend; both fitted by R91. Each mode's rounding, the mode chosen, the bounds of S48,
the signed minimum over -1, and the table of -7 over 2. -/
def Obligations.DivisionRounds : Prop :=
  Arith .idiv [0, 1] (fun _ e l =>
    if val l 1 = 0 then (if 0 ≤ val l 0 then intMax e.fo else intMin e.fo) else roundQuot e.rnd (val l 0) (val l 1)) ∧
  Arith .irem [0, 1] (fun _ e l =>
    if val l 1 = 0 then val l 0 else val l 0 - val l 1 * roundQuot e.rnd (val l 0) (val l 1)) ∧
  (∀ a b : Int, b ≠ 0 → roundQuot .rtz a b = a.tdiv b ∧ roundQuot .rdn a b = a.fdiv b ∧ roundQuot .rup a b = -((-a).fdiv b) ∧
    2 * (a - b * roundQuot .rne a b).natAbs ≤ b.natAbs ∧
    (2 * (a - b * roundQuot .rne a b).natAbs = b.natAbs → roundQuot .rne a b % 2 = 0)) ∧
  (∀ (s : State) (a : FmtA), (s.laneEnv a).rnd = if a.rnd = 0 then rndOf (s.ent a.vco) else Rnd.ofCode (a.rnd.toNat - 1)) ∧
  intMin 15 = -(2 ^ 47 - 2) ∧ intMax 15 = 2 ^ 47 - 1 ∧
  fitInt 9 false (2 ^ 31) = 2 ^ 31 ∧ fitInt 9 true (2 ^ 31) = 2 ^ 31 - 1 ∧
  ([Rnd.rne, .rtz, .rup, .rdn].map fun r => (roundQuot r (-7) 2, -7 - 2 * roundQuot r (-7) 2)) = [(-4, 1), (-3, -1), (-3, -1), (-4, 1)]

/-- The bitwise words of R236, R238 and R239, and the address words of R236 and R241, on w-bit codes. -/
def Obligations.BitwiseWordsEmit : Prop :=
  LaneWord .iand [0, 1] (bitLimits true) (fun _ e l => code e l 0 &&& code e l 1) ∧
  LaneWord .ior [0, 1] (bitLimits true) (fun _ e l => code e l 0 ||| code e l 1) ∧
  LaneWord .ixor [0, 1] (bitLimits true) (fun _ e l => code e l 0 ^^^ code e l 1) ∧
  LaneWord .inot [0] (bitLimits true) (fun _ e l => 2 ^ e.w - 1 - code e l 0) ∧
  LaneWord .ishl [0, 1] (bitLimits false) (fun _ e l =>
    if e.w ≤ code e l 1 then 0 else code e l 0 * 2 ^ code e l 1 % 2 ^ e.w) ∧
  LaneWord .ishr [0, 1] (bitLimits false) (fun _ e l => if e.w ≤ code e l 1 then 0 else code e l 0 / 2 ^ code e l 1) ∧
  LaneWord .isar [0, 1] (bitLimits false) (fun _ e l => sarCode e.w [code e l 0, code e l 1]) ∧
  LaneWord .irot [0, 1] (bitLimits false) (fun _ e l =>
    (code e l 0 * 2 ^ (code e l 1 % e.w) % 2 ^ e.w) ||| (code e l 0 / 2 ^ (e.w - code e l 1 % e.w))) ∧
  LaneWord .iclz [0] (bitLimits false) (fun _ e l => if code e l 0 = 0 then e.w else e.w - 1 - Nat.log2 (code e l 0)) ∧
  LaneWord .ipopc [0] (bitLimits false) (fun _ e l => popCount e.w (code e l 0)) ∧
  LaneWord .ibfx [0, 1] (bitLimits false) (fun _ e l =>
    let f := fieldOf e.w (code e l 1)
    let v := code e l 0 / 2 ^ f.1 % 2 ^ f.2
    if f.2 = 0 then 0 else if isSigned e.fo then wrap e.w (signed f.2 v) else v) ∧
  LaneWord .ibfi [0, 1, 2] (bitLimits false) (fun _ e l =>
    let f := fieldOf e.w (code e l 1)
    code e l 0 - code e l 0 / 2 ^ f.1 % 2 ^ f.2 * 2 ^ f.1 + (l.getD 2 (0, 0)).1 % 2 ^ f.2 * 2 ^ f.1) ∧
  LaneWord .lea [0, 1, 2] addrLimits (fun _ e l => (code e l 0 + code e l 1 * code e l 2) % 2 ^ e.w) ∧
  LaneWord .aff [0, 1, 2] addrLimits (fun _ e l =>
    let rs := signed 32 (code e l 2 / 2 ^ 32)
    let cs := signed 32 (code e l 2)
    wrap e.w (if code e l 1 = 0 then (code e l 0 : Int) * cs
      else ((code e l 0 / code e l 1 : Nat) : Int) * rs + ((code e l 0 % code e l 1 : Nat) : Int) * cs))

/-- The float words of R246, R247 and R250. -/
def Obligations.FloatWordsEmit : Prop :=
  FloatWord .fadd [0, 1] (fun _ r l => sumVals r [v0 l, v1 l]) ∧
  FloatWord .fsub [0, 1] (fun _ r l => sumVals r [v0 l, (v1 l).neg]) ∧
  FloatWord .fmul [0, 1] (fun _ _ l => mulVal (v0 l) (v1 l)) ∧
  FloatWord .fma [0, 1, 2] (fun _ r l => sumVals r [mulVal (v0 l) (v1 l), v2 l]) ∧
  FloatWord .fmin [0, 1] (fun _ _ l => minVal (v0 l) (v1 l)) ∧
  FloatWord .fmax [0, 1] (fun _ _ l => maxVal (v0 l) (v1 l)) ∧
  FloatWord .fabs [0] (fun _ _ l => (v0 l).abs) ∧
  FloatWord .fneg [0] (fun _ _ l => (v0 l).neg) ∧
  FloatWord .frcp [0] (fun _ _ l => recip (v0 l)) ∧
  FloatWord .frsq [0] (fun _ _ l => rsqrt (v0 l)) ∧
  FloatWord .fex2 [0] (fun _ _ l => exp2Val (v0 l)) ∧
  FloatWord .flg2 [0] (fun _ _ l => log2Val (v0 l)) ∧
  FloatWord .ftnh [0] (fun _ _ l => tanhVal (v0 l)) ∧
  FloatWord .fexs [0, 1] (fun _ r l => expVal (sumVals r [v0 l, (v1 l).neg])) ∧
  FloatWord .fscl [0, 1] (fun a _ l => (v0 l).shift (if a.ims then signed 16 a.imm.toNat else sclExp (v1 l))) ∧
  FloatWord .frnd [0] (fun _ r l => integral r (v0 l)) ∧
  Converts .fcvt (cvtLimits isFloat isFloat) ∧
  Converts .itof (cvtLimits isInt isFloat) ∧
  Converts .ftoi (cvtLimits isFloat isInt) ∧
  (∀ h a, Emits (.fcmp h a) h (computing (slotsA a [0, 1])) (fun s ts => s.formatFault a fcmpLimits (slotsA a [0, 1]) ts = none)
    fun s ts =>
      let rs := (s.floatLanes a (slotsA a [0, 1]) ts (lanesIn s a ts)).map fun l => fcond h.fn.toNat (v0 l) (v1 l)
      { result s.cur.word ts (condResult (fmtOut s a) rs (tk ts 0).nlane).1 with
        nlane := (condResult (fmtOut s a) rs (tk ts 0).nlane).2 })

/-- The lane movers of R251 and R252, and VRED, VDOT and VSCAN (R253): lane 0, or a prefix per lane. How many lanes of a VSELM with an
immediate are valid, and how many lanes of an immediate VPACK joins, is free (log entry 21). -/
def Obligations.LaneMoversEmit : Prop :=
  Moves .vbcst (fun a => ⟨slotsA a [0, 1], slotsA a [0, 1], (slotsA a [0, 1]).filter (· != 0), slotsA a [0, 1]⟩)
    (fun a s ts => s.laneFault a ts = none)
    (fun a s ts => List.replicate (s.beatLanes a) ((s.moved (tk ts 0)).getD (s.laneNumber a ts) 0)) fullBeat ∧
  Moves .vshuf controlSlots (fun a s ts => s.moverFault a true (ts.take 1) = none)
    (fun a s ts => (List.range (s.beatLanes a)).map fun i => (s.moved (tk ts 0)).getD (bits (s.control a ts) (8 * i) 8) 0)
    fullBeat ∧
  Moves .vcmpr controlSlots
    (fun a s ts => s.moverFault a true (ts.take 1) = none ∧ vcmprCodes s a ts ≠ [])
    (fun a s ts => vcmprCodes s a ts) (fun a s ts => nlaneFor (fmtOut s a) (vcmprCodes s a ts).length) ∧
  (∀ h a, Emits (.vcmpr h a) h (controlSlots a)
    (fun s ts => s.moverFault a true (ts.take 1) = none ∧ vcmprCodes s a ts = []) fun s ts => nilResult s.cur.word ts) ∧
  Moves .vexpd controlSlots (fun a s ts => s.moverFault a true (ts.take 1) = none)
    (fun a s ts => (List.range (s.beatLanes a)).map fun i => if bit (s.control a ts) i then
      (s.moved (tk ts 0)).getD ((List.range i).countP fun j => bit (s.control a ts) j) 0 else 0) fullBeat ∧
  (∀ (s : State) (a : FmtA) (t0 t1 : Tok), a.ims = false → s.control a [t0, t1] = t1.data) ∧
  (∀ (s : State) (a : FmtA) (t0 : Tok), a.ims = true → s.control a [t0] = (s.immTok a (s.beatLanes a)).data) ∧
  (∀ h a, a.ims = false → Emits (.vselm h a) h ⟨[0, 1, 2], [0, 1, 2], [0], [0, 1, 2]⟩
    (fun s ts => s.moverFault a false (ts.drop 1) = none)
    fun s ts => s.moverResult a ts [tk ts 1, tk ts 2]
      ((List.range (validLanes (fmtIn s a) (tk ts 1))).map fun i =>
        if bit (tk ts 0).data i then (s.moved (tk ts 1)).getD i 0 else (s.moved (tk ts 2)).getD i 0) (tk ts 1).nlane) ∧
  (∀ h a, a.ims = true → Fires (.vselm h a) h (fun _ => ⟨[0, 2], [0, 2], [0], [0, 2]⟩)
    (fun s ts => s.moverFault a false (ts.drop 1) = none) (fun s _ => s.spent)
    fun s ts =>
      let nl := vselmLanes s a ts
      [outBoth (s.moverResult a ts [tk ts 1] ((List.range (validLanes (fmtIn s a) { nlane := nl })).map fun i =>
        if bit (tk ts 0).data i then s.immCode a else (s.moved (tk ts 1)).getD i 0) nl)]) ∧
  (∀ h a, Emits (.vlane h a) h ⟨slotsA a [0, 1], slotsA a [0, 1], (slotsA a [0, 1]).filter (· != 0), slotsA a [0, 1]⟩
    (fun s ts => s.laneFault a ts = none) fun s ts =>
      if h : s.laneNumber a ts < (s.moved (tk ts 0)).length then
        s.moverResult a ts [tk ts 0] [(s.moved (tk ts 0))[s.laneNumber a ts]] 0
      else nilResult s.cur.word ts) ∧
  (∀ h a, Fires (.viota h a) h (fun _ => carrying [0]) (whenever fun s => viotaFault a s = none)
    (fun s _ => s.wrote s.cur.node a.vco (lanesOut s a))
    fun s ts => [outBoth { result s.cur.word ts (s.encodeLanes a ((List.range (lanesOut s a)).map fun (i : Nat) =>
      intVal ((i : Int) + if a.ims then signed 16 a.imm.toNat else 0))) with nlane := allLanes (fmtOut s a) }]) ∧
  (∀ h a, a.ims = false → Emits (.vpack h a) h ⟨[0, 1], [0, 1], [], [0, 1]⟩
    (fun s ts => vpackFault a s ts = none) fun s ts =>
      s.moverResult a ts ts (s.moved (tk ts 0) ++ s.moved (tk ts 1))
        (nlaneFor (fmtOut s a) ((s.moved (tk ts 0)).length + (s.moved (tk ts 1)).length))) ∧
  (∀ h a, a.ims = true → Fires (.vpack h a) h (fun _ => ⟨[0], [0], [], [0]⟩)
    (fun s ts => vpackFault a s ts = none) (fun s _ => s.spent) fun s ts =>
      let l := s.moved (tk ts 0) ++ s.moved (tk (s.packed a ts) 1)
      [outBoth (s.moverResult a ts ts l (nlaneFor (fmtOut s a) l.length))]) ∧
  (∀ h a, Fires (.vunpk h a) h (fun _ => ⟨[0], [0], [], [0]⟩) (fun s ts => s.moverFault a false ts = none) (fun s _ => s)
    fun s ts =>
      let lo := (s.moved (tk ts 0)).take (s.beatLanes a / 2)
      let hi := (s.moved (tk ts 0)).drop (s.beatLanes a / 2)
      [outA (s.moverResult a ts ts lo (nlaneFor (fmtOut s a) lo.length)),
       outB (if hi = [] then nilResult s.cur.word ts else s.moverResult a ts ts hi (nlaneFor (fmtOut s a) hi.length))]) ∧
  (∀ h a, Fires (.vred h a) h (fun _ => computing [0]) (fun s ts => s.formatFault a redLimits [0] ts (some 1) = none)
    (fun s _ => s.wrote s.cur.node a.vco 1)
    fun s ts => [outBoth { result s.cur.word ts (s.encodeLanes a [s.vred h a ts]) with nlane := 0 }]) ∧
  (∀ h a, Fires (.vdot h a) h (fun _ => computing (slotsA a [0, 1]))
    (fun s ts => s.formatFault a redLimits (slotsA a [0, 1]) ts (some 1) = none)
    (fun s _ => s.wrote s.cur.node a.vco 1)
    fun s ts => [outBoth { result s.cur.word ts (s.encodeLanes a [s.vdot a ts]) with nlane := 0 }]) ∧
  (∀ h a, Fires (.vscan h a) h (fun _ => computing [0]) (fun s ts => s.formatFault a redLimits [0] ts = none)
    (fun s ts => s.wrote s.cur.node a.vco (s.vscan h a ts).length)
    fun s ts => [outBoth (result s.cur.word ts (s.encodeLanes a (s.vscan h a ts)))])

/-- Loads issue once their access is granted, and their node waits for the beats read (R276 to R280, R155). -/
def Obligations.LoadWordsIssue : Prop :=
  ∀ (h : Hd) (m : FmtM) (st : Strand) (a : Acc) (t u : State) (b : Bytes),
    Acts (.ld h m) h (computing [0])
      (fun s ts => widthFault m (widthOf h) s ts = none ∧ m.space ≠ 4 ∧
        Granted s m ts (widthOf h) false (opcode s.cur.word) st a t ∧ MayRead s t m ts (widthOf h) st a ∧
        t.loadBytes st m ts a (widthOf h) = (some b, u))
      (fun s ts => loads s u m ts [outBoth (u.loaded m ts b 0)]) ∧
    Acts (.ldb h m) h (computing [0])
      (fun s ts => rawFault m s ts = none ∧ m.space ≠ 4 ∧ m.space ≠ 5 ∧ Granted s m ts 48 false (opcode s.cur.word) st a t ∧
        MayRead s t m ts 48 st a ∧ t.loadBytes st m ts a 48 = (some b, u))
      (fun s ts => loads s u m ts [outBoth (u.loaded m ts b (allLanes (fmtOf (u.ent m.vc))))]) ∧
    Acts (.ldb h m) h (computing [0])
      (fun s ts => rawFault m s ts = none ∧ m.space = 4 ∧ Granted s m ts 48 false (opcode s.cur.word) st a t ∧
        MayRead s t m ts 48 st a ∧
        (t.mayEvict (t.home (a.base + (a.addr - a.base) / 192 * 192)) a.kidx).readHome { a with cv := false } 48 = (some b, u))
      (fun s ts => loads s u m ts [outBoth (u.loaded m ts (u.underStores m ts a true b) (allLanes (fmtOf (u.ent m.vc))))]) ∧
    (∀ bs, Acts (.ldl h m) h (computing [0])
      (fun s ts => s.vcFault m = none ∧ Granted s m ts 192 false 0x84 st a t ∧ MayRead s t m ts 192 st a ∧
        t.readBeats st m ts a 4 0 = (some bs, u))
      (fun s ts => loads s u m ts (u.lineOuts m ts bs))) ∧
    (∀ as, Acts (.lds h m) h (computing [0])
      (fun s ts => laneFault m (widthOf h) s ts = none ∧ s.here = some st ∧ s.notTurn m ts = false ∧
        s.laneAccs st m (widthOf h) (s.laneAddrs (tk ts 0)) = .ok as ∧
        ∀ x ∈ as, s.portBusy s.cur.node x (widthOf h) = false ∧ s.rmwBusy s.cur.node m.space x.va (widthOf h) = false)
      (fun s ts => loads s s m ts [outBoth (s.loaded m ts
        ⟨as.flatMap fun x => (overlay x.addr ⟨memRead s.mem.bank x.addr (widthOf h), false⟩
          (s.forwarded s.cur.node (tk ts 0).wave m.msq.toNat true)).bytes, false⟩ (BitVec.ofNat 7 (as.length - 1)))]))

/-- LDB in space 101 reads a beat of the pool page that its sequence address names (R278, R392); PREF issues and changes no memory, and a
page it can translate may enter the TLBs (R279). -/
def Obligations.PoolLoadAndPrefIssue : Prop :=
  (∀ (h : Hd) (m : FmtM) (st : Strand) (sq hg pos b : Nat) (page : Nat) (va : Nat) (e : Ste) (owner : Nat) (t1 t2 t3 u : State)
    (d : BitVec 32) (a : Acc) (r : Bytes), m.space = 5 →
    Acts (.ldb h m) h (computing [0])
      (fun s ts => rawFault m s ts = none ∧ s.notTurn m ts = false ∧ s.seqBusy = false ∧ m.off = 0 ∧
        seqAddr (lane0 (tk ts 0) % 2 ^ 64) = (sq, hg, pos, b) ∧ s.seqStuck sq = false ∧ b ≤ rbOf s ∧
        (s.poolPlace m ts sq hg pos).got s = .ok (some (page, va, e, owner)) t1 ∧ (readDesc page).got t1 = .ok d t2 ∧
        bit d 16 = false ∧ (portAcc (va + 48 * b) false).got t2 = .ok a t3 ∧ t3.here = some st ∧ t3.ahead st a = false ∧
        t3.readHome a 48 = (some r, u) ∧ r.poi = false)
      (fun s ts => loads s u m ts [outBoth (u.loaded m ts (u.underStores m ts a false r) (allLanes (fmtOf (u.ent m.vc))))])) ∧
  (∀ (h : Hd) (m : FmtM) (st : Strand) (s : State) (ts : List Tok), CanFire s h ⟨[0], [0, 1, 2], [], [0]⟩ ts →
    s.here = some st → s.notTurn m ts = false → s.nodeWaits st s.cur.node m.space (effAddr m 48 (tk ts 0)) = false →
    ∃ t, exec (.pref h m) s = .next (fired s (t.issue m ts) h [0] []) ∧ (m.space = 5 → t = s) ∧
      (t = s ∨ ∃ a, s.translate s.cur.node.ctx.die s.cur.node.ctx.wafer st.part st.stamp (effAddr m 48 (tk ts 0)) false = (.ok a, t)))

/-- Stores issue: the effect waits in the commit buffer for the bytes at the address of R274, and the node emits its token
(R30, R155, R276 to R280). -/
def Obligations.StoreWordsIssue : Prop :=
  ∀ (h : Hd) (m : FmtM) (st : Strand) (a : Acc) (t : State),
    (∀ i, i = .st h m ∨ i = .stnt h m → Fires i h (fun _ => ⟨[0, 1], [0, 1], [0], [0, 1]⟩)
      (fun s ts => widthFault m (widthOf h) s ts = none ∧ Granted s m ts (widthOf h) true (opcode s.cur.word) st a t ∧
        (a.bank = true → (tk ts 1).fl.poi = false) ∧
        (m.space = 4 ∨ t.undecodable a (at_ a (leBytes (widthOf h) (tk ts 1).data.toNat)) = false))
      (fun _ ts => (t.hold m.msq.toNat (tk ts 0).wave
        (t.storeEff m a (leBytes (widthOf h) (tk ts 1).data.toNat) (tk ts 1).fl.poi)).issue m ts)
      (fun _ ts =>
        let u := t.hold m.msq.toNat (tk ts 0).wave (t.storeEff m a (leBytes (widthOf h) (tk ts 1).data.toNat) (tk ts 1).fl.poi)
        [outBoth (u.zeroTok ts)])) ∧
    Fires (.stb h m) h (fun _ => ⟨[0, 1], [0, 1], [0], [0, 1]⟩)
      (fun s ts => rawFault m s ts = none ∧ Granted s m ts 48 true (opcode s.cur.word) st a t ∧
        (a.bank = true → (tk ts 1).fl.poi = false) ∧ (m.space = 4 ∨ t.undecodable a (at_ a (t.validBytes (tk ts 1))) = false))
      (fun _ ts => (t.hold m.msq.toNat (tk ts 0).wave (t.storeEff m a
        (if m.space = 4 then bytesOf (t.laneData (tk ts 1)) else t.validBytes (tk ts 1)) (tk ts 1).fl.poi)).issue m ts)
      (fun _ ts =>
        let u := t.hold m.msq.toNat (tk ts 0).wave (t.storeEff m a
          (if m.space = 4 then bytesOf (t.laneData (tk ts 1)) else t.validBytes (tk ts 1)) (tk ts 1).fl.poi)
        [outBoth (u.zeroTok ts)]) ∧
    (∀ as, Fires (.sts h m) h (fun _ => ⟨[0, 1], [0, 1], [0], [0, 1]⟩)
      (fun s ts => laneFault m (widthOf h) s ts = none ∧ s.here = some st ∧ s.notTurn m ts = false ∧
        s.laneAccs st m (widthOf h) (s.laneAddrs (tk ts 0)) = .ok as ∧ (tk ts 1).fl.poi = false)
      (fun s ts => (s.hold m.msq.toNat (tk ts 0).wave (.store (as.headD {})
        ((List.range as.length).flatMap fun i => at_ (as.getD i {})
          (((s.validBytes (tk ts 1)).drop (widthOf h * i)).take (widthOf h))) false false)).issue m ts)
      (fun s ts => [outBoth ((s.hold m.msq.toNat (tk ts 0).wave (.store (as.headD {})
        ((List.range as.length).flatMap fun i => at_ (as.getD i {})
          (((s.validBytes (tk ts 1)).drop (widthOf h * i)).take (widthOf h))) false false)).zeroTok ts)])) ∧
    Fires (.enq h m) h (fun _ => ⟨[0, 1], [0, 1], [0], [0, 1]⟩)
      (fun s ts => Granted s m ts 48 true 0x8A st a t ∧ a.ss = false ∧ (a.bank = true → (tk ts 1).fl.poi = false))
      (fun _ ts => (t.hold m.msq.toNat (tk ts 0).wave (.enq a (t.laneData (tk ts 1)) (tk ts 1).fl.poi)).issue m ts)
      (fun _ ts => [outBoth ((t.hold m.msq.toNat (tk ts 0).wave (.enq a (t.laneData (tk ts 1)) (tk ts 1).fl.poi)).zeroTok ts)])

/-- Read-modify-write words ATOM, CAS, FATOM and DEQ, RDCI and CNTR .snap issue and wait, with the tokens they took, until their instance is
settled (R30, R227, R281 to R283, R285, R288, R291); an atomic keeps the VC entries and header words of its firing too (R87, R88). -/
def Obligations.ReadModifyWriteWordsIssue : Prop :=
  ∀ (h : Hd) (m : FmtM) (st : Strand) (a : Acc) (t : State),
    Acts (.atom h m) h (computing [0, 1])
      (fun s ts => atomVc m (atomSize h) s ts = none ∧ Granted s m ts (atomSize h) true (opcode s.cur.word) st a t)
      (fun _ ts => (t.queueRmw m.msq.toNat [0, 1] ts (t.atomNums m ts)).issue m ts) ∧
    Acts (.cas h m) h (computing [0, 1, 2])
      (fun s ts => atomVc m (atomSize h) s ts = none ∧ Granted s m ts (atomSize h) true (opcode s.cur.word) st a t ∧ a.ss = false)
      (fun _ ts => (t.queueRmw m.msq.toNat [0, 1, 2] ts (t.atomNums m ts)).issue m ts) ∧
    Acts (.fatom h m) h (computing [0, 1])
      (fun s ts => fatomVc m s ts = none ∧ Granted s m ts 48 true (opcode s.cur.word) st a t)
      (fun _ ts => (t.queueRmw m.msq.toNat [0, 1] ts (t.atomNums m ts)).issue m ts) ∧
    Acts (.deq h m) h (computing [0])
      (fun s ts => Granted s m ts 48 true (opcode s.cur.word) st a t ∧ a.ss = false)
      (fun _ ts => (t.queueRmw m.msq.toNat [0] ts (t.atomNums m ts)).issue m ts) ∧
    (∀ p, Acts (.rdci h p) h (carrying [0]) always (fun s ts => s.queueRmw 127 [0] ts)) ∧
    (∀ x, Acts (.cntrSnap h x) h (carrying [0]) always (fun s ts => s.queueRmw 127 [0] ts))

/-- FNC, DFNC, SARM, QFNC and counter reads (R286, R287, R289 to R291). That CNTR of a link completes with a free value for an ID of 72 or
above, to which R291 gives no link, is the model's choice (log entry 100). -/
def Obligations.FenceAndCounterWordsComplete : Prop :=
  ∀ h : Hd,
    (∀ m, Acts (.fnc h m) h (carrying [0]) (fun s ts => s.notTurn m ts = false) (fun s ts =>
      (s.hold m.msq.toNat (tk ts 0).wave (.fnc m.scope { s.zeroTok ts with fl := {} } [])).issue m ts)) ∧
    (∀ m st t, Acts (.dfnc h m) h (computing [0, 1])
      (fun s ts => s.here = some st ∧ s.notTurn m ts = false ∧ s.nodeWaits st s.cur.node 0 (effAddr m 192 (tk ts 0)) = false ∧
        s.rangeFault st (effAddr m 192 (tk ts 0)) (lane0 (tk ts 1) / 65536 + 2) (lane0 (tk ts 1)) = (none, t))
      (fun _ ts => (t.hold m.msq.toNat (tk ts 0).wave (.dfnc (effAddr m 192 (tk ts 0)) (BitVec.ofNat 64 (lane0 (tk ts 1)))
        (t.zeroTok ts))).issue m ts)) ∧
    (∀ x, Holds (.sarm h x) h (computing [0]) 127 (fun _ ts => goodDesc ((tk ts 0).data.extractLsb' 0 256) = true)
      fun _ ts => .sarm (bits x.id 0 4) ((tk ts 0).data.extractLsb' 0 256)) ∧
    (∀ x, Holds (.qfnc h x) h (carrying [0]) 127 always fun _ _ => .qfnc (x.aux.extractLsb' 0 18)) ∧
    (∀ x, Emits (.cntrRead h x) h (carrying [0]) always fun s ts =>
      counterTok s ts (s.routing s.cur.node.ctx.die x.id.toNat (bits x.aux 0 4 + 1)) (bits x.aux 0 4)) ∧
    (∀ x, Emits (.cntrStall h x) h (carrying [0]) always fun s ts =>
      counterTok s ts ((Tab.get 0 (s.stallKey x) s.fab.stall).zeroExtend 384) 0) ∧
    (∀ x, x.id.toNat < 72 → Emits (.cntrLink h x) h (carrying [0]) always fun s ts =>
      counterTok s ts (BitVec.ofNat 384 (pack ((List.range 5).map fun i =>
        (64 * i, 64, (Tab.get 0 (linkKey x.id.toNat i) s.eng.links).toNat)))) 5) ∧
    (∀ x, 72 ≤ x.id.toNat → ∀ s ts, CanFire s h (carrying [0]) ts → ∃ d,
      exec (.cntrLink h x) s = .next (fired s { s with ctr := s.ctr + 5 } h [0] [outBoth (counterTok s ts d 5)]))

/-- Instances and tags: commit, the end of a return tail, a generation's advance, a grant (R32, R35, R36, R38, R222, R226, R292). -/
def Obligations.InstanceStepsComplete : Prop :=
  ∀ (s : State) (st : Strand) (die task l : Nat),
    (∀ u x, s.strandOf (Who.ctx u) = some st → st.inst (Who.ctx u) (Who.key u) = some x → s.mayCommit st x = true →
      exec (.instanceCommit u) s = .next (s.commit st.die st.task x)) ∧
    (∀ u x, s.strandOf (Who.ctx u) = some st → st.inst (Who.ctx u) (Who.key u) = some x → x.tail = true → x.due = 0 →
      st.frozen = false → s.hasToken x.ctx x.key = false → (∀ r ∈ st.reqs, ¬(r.node.ctx = x.ctx ∧ r.key = x.key)) →
      (∀ r ∈ s.flt.regs, ¬(r.node.ctx = x.ctx ∧ r.key = x.key)) →
      exec (.returnTailEnd u) s = .next ((((s.releaseAll st.die st.task x).dropKept x.ctx x.key).onStrand st.die st.task fun y =>
        Strand.freeLevel { y with insts := y.insts.filter fun i => !(i.ctx = x.ctx && i.key = x.key) } x.key.lvl.toNat).dropStale
          st.die st.task)) ∧
    (s.strand die task = some st → st.frozen = false → l < 8 → (st.level l).adv = true → s.inFlight st l ((st.level l).gen + 1) = false →
      exec (.generationAdvance die task l) s = .next (s.advance st l)) ∧
    (∀ r b reserve, s.strand die task = some st → st.nextReq l = some r → s.block r.node.ctx = some b → st.frozen = false →
      st.saving = false → (st.level l).free = false → s.latchEmpty r.node = true →
      st.grantable r (s.levelRoom st r.node.ctx.slot l) = some reserve →
      exec (.tagGrant die task l) s = .next (s.grant st r reserve (s.levelRoom st r.node.ctx.slot l)))

/-- Answers and held effects reach their places: R155, R153, R159, R158, R287, R112, R117, R312, R324. -/
def Obligations.MemoryEventsComplete : Prop :=
  ∀ (s : State) (n : Nat),
    (∀ r st, s.mem.resp[n]? = some r → s.strandOf r.node.ctx = some st → st.liveAt r.node.ctx r.key = true →
      s.latchEmpty r.node = true →
      exec (.memoryResponse n) s = .next
        (let t := ({ s with mem := { s.mem with resp := drop1 n s.mem.resp } } : State).emit r.node r.key
          (Hd.ofWord (s.wordAt r.node)) r.outs
         if r.late then t.lateDone r.node r.key else t)) ∧
    (∀ p, s.mem.pend[n]? = some p → p.stuck = false → s.parked p = false → s.pendFenced p = false →
      p.behind (s.mem.pend.take n) = false → s.rmwFirst p = false →
      exec (.storePerform n) s = .next (s.performStore p (s.mem.pend.take n))) ∧
    (∀ p sc tok before, s.mem.pend[n]? = some p → p.eff = .fnc sc tok before → s.parked p = false → s.pendFenced p = false →
      s.fenceWaits p before = false →
      exec (.fenceComplete n) s = .next (((s.dropPend p.seq).answerPend p tok).unfence p)) ∧
    (∀ p, s.mem.pend[n]? = some p → s.parked p = false → s.pendFenced p = false → s.releasedFirst n p = false →
      ((∃ e d, p.eff = .sarm e d) ∨ s.storesOpen p = false) →
      exec (.engineRelease n) s = .next (s.passOn p)) ∧
    (∀ p lo len tok, s.mem.pend[n]? = some p → p.eff = .dfnc lo len tok → s.parked p = false → s.pendFenced p = false →
      (∀ q ∈ s.mem.pend.take n, sameCell q.node p.node = false) → (∀ va, s.partWalkWaits p.part va = false) →
      exec (.dfncCompletion n) s = .next
        (((s.flushRange (bits (s.partEntry p.part) 352 64) (len.toNat / 65536 + 2) lo len.toNat).dropPend p.seq).answerPend p tok)) ∧
    (∀ die wafer sel r, (s.mat.portq.find? fun r => r.store = storeKey die wafer sel) = some r →
      (s.store (storeKey die wafer sel)).feed = none → s.pagedWaits r = false →
      exec (.storePortApply die wafer sel) s = .next
        (({ s with mat := { s.mat with portq := dropFirst (fun x => x = r) s.mat.portq } } : State).applyPort r)) ∧
    (∀ o, s.mat.offers[n]? = some o →
      (∀ q ∈ s.mat.offers.take n, ¬(q.die = o.die ∧ q.wafer = o.wafer ∧ q.reg = o.reg ∧ (q.who = none ∨ q.who = o.who))) →
      (o.who = none ∨ ∃ x k st, o.who = some (x, k) ∧ s.strandOf x.ctx = some st ∧ s.settled st k = true) →
      exec (.thresholdOffer n) s = .next
        (({ s with mat := { s.mat with offers := drop1 n s.mat.offers } } : State).makeOffer o)) ∧
    (∀ q t, s.pages.seqq[n]? = some q → q.stuck = false → s.allReady = true → q.waits (s.pages.seqq.take n) = false →
      (appendPerform q.node q.key q.op).got { s with cur := { s.cur with node := q.node, key := q.key } } q.step = .ok () t →
      exec (.sequencePortApply n) s = .next
        { t with cur := s.cur, pages := { t.pages with seqq := t.pages.seqq.filter fun x => x.seq != q.seq } }) ∧
    (∀ y st, s.fab.yielded[n]? = some y → s.strandOf y.node.ctx = some st → st.liveAt y.node.ctx y.key = true → y.left = 0 →
      s.latchEmpty y.node = true → st.frozen = false → st.saving = false →
      exec (.yldRelease n) s = .next (({ s with fab := { s.fab with yielded := drop1 n s.fab.yielded } } : State).emit
        y.node y.key (Hd.ofWord (s.wordAt y.node)) [outBoth y.tok]))

/-- A read-modify-write whose instance is settled performs as its word says (R30, R227); its answer returns to its node. -/
def Obligations.SettledWordsPerform : Prop :=
  ∀ (s : State) (n : Nat) (r : Rmw) (st : Strand) (t : State) (outs : List Out),
    Settled s n r st → (actingFor s r st).performRmw r = .fires t outs →
    exec (.settledRmwPerform n) s = .next (performed t r outs)

/-- Channel, header and quantisation words (R254 to R257). -/
def Obligations.ChannelWordsComplete : Prop :=
  ∀ h : Hd,
    (∀ p, Holds (.vcset h p) h ⟨[0], [0], [0], []⟩ 127 (fun _ ts => (tk ts 0).fl.nil = false ∧ bits (tk ts 0).data 0 7 = 0)
      fun _ ts => .vcset (p.extractLsb' 0 6) ((tk ts 0).data.extractLsb' 0 32)) ∧
    (∀ p, Acts (.vcset h p) h ⟨[0], [0], [0], []⟩ (fun _ ts => (tk ts 0).fl.nil = true) (fun s _ => s)) ∧
    (∀ p, Emits (.vcget h p) h (carrying [0]) always fun s ts =>
      result s.cur.word ts ((s.ent (p.extractLsb' 0 5)).zeroExtend 384)) ∧
    (∀ a, Emits (.hdr h a) h ⟨[0], [0], [], [0]⟩ (fun _ ts => (tk ts 0).nlane.toNat ≤ 11) fun _ ts =>
      { tk ts 0 with vc := a.vco, fl := { (tk ts 0).fl with hdr := true, last := false, endf := false } }) ∧
    (∀ a, Fires (.qnt h a) h (fun _ => computing [0]) (fun s ts => s.formatFault a qntLimits [0] ts (some 0) = none)
      (fun s _ => s) fun s ts =>
        let l := s.vals s.cur.node 0 (tk ts 0)
        let sc := qntScale (fmtOut s a) (maxAbs l)
        let codes := l.map fun v => encodeElem (fmtOut s a) (s.rndOfA a) true (v.unscaled sc)
        [outA { result s.cur.word ts (packLanes (fmtOut s a) codes) with nlane := nlaneFor (fmtOut s a) l.length },
         outB { result s.cur.word ts (BitVec.ofNat 384 (pack [(24, 8, sc), (16, 8, l.length), (0, 12, maxmCode (fmtOut s a) codes)]))
                with nlane := 0 }]) ∧
    (∀ a, Fires (.dqnt h a) h (fun _ => computing (slotsA a [0, 1])) (fun s ts => dqntFault a s ts = none)
      (fun s ts => s.wrote s.cur.node a.vco (s.dqnt a ts).length)
      fun s ts => [outBoth { result s.cur.word ts (s.encodeLanes a (s.dqnt a ts)) with
        nlane := nlaneFor (fmtOut s a) (s.dqnt a ts).length }]) ∧
    (∀ a, Emits (.sclx h a) h (computing (slotsA a [0, 1])) (fun s ts => s.formatFault a sclxLimits (slotsA a [0, 1]) ts = none)
      fun s ts => result s.cur.word ts (packLanes 16 ((List.range (validLanes 16 (tk ts 0))).map fun i =>
        sclxCode ((s.codes (tk ts 0)).getD i 0)
          ((if a.ims then List.replicate (validLanes 16 (tk ts 0)) (a.imm.toNat % 256) else s.codes (tk ts 1)).getD i 0)))) ∧
    (∀ a, Fires (.i4xp h a) h (fun _ => computing [0])
      (fun s ts => s.formatFault a i4xpLimits [0] ts (some ((lanesIn s a ts + 3) / 4 * 4)) = none)
      (fun s ts => s.wrote s.cur.node a.vco (s.i4xp ts).length)
      fun s ts => [outBoth { result s.cur.word ts (s.encodeLanes a (s.i4xp ts)) with nlane := nlaneFor 1 (s.i4xp ts).length }]) ∧
    (∀ a, Fires (.i4xu h a) h (fun _ => computing [0])
      (fun s ts => s.formatFault a i4xuLimits [0] ts (some (s.i4xu a ts).length) = none ∧ i4xuFirst a % lanesOut s a = 0)
      (fun s ts => s.wrote s.cur.node a.vco (s.i4xu a ts).length)
      fun s ts => [outBoth (if s.i4xu a ts = [] then nilResult s.cur.word ts
        else { result s.cur.word ts (s.encodeLanes a (s.i4xu a ts)) with nlane := nlaneFor (fmtOut s a) (s.i4xu a ts).length })])

/-- TRAP and BKPT of a settled instance fault exactly with cause 0x01 and 0x02, CODE their immediate: the node's fault register holds
the fault and its operands stay (R320, R353, R409). -/
def Obligations.TrapAndBreakpointFault : Prop :=
  ∀ (h : Hd) (p : BitVec 30) (s : State) (ts : List Tok), CanFire s h (carrying [0]) ts → s.hereSettled = true →
    exec (.trap h p) s = .next (s.takeFault s.cur.node s.cur.key (tk ts 0).wave (taken h [0])
      { cause := 0x01, code := p.extractLsb' 0 16 }) ∧
    exec (.bkpt h p) s = .next (s.takeFault s.cur.node s.cur.key (tk ts 0).wave (taken h [0])
      { cause := 0x02, code := p.extractLsb' 0 16 })

/-- The other system words (R321 to R329, R74, R75). -/
def Obligations.SystemWordsComplete : Prop :=
  ∀ (h : Hd) (st : Strand),
    (∀ p, Holds (.svc h p) h (computing [0]) 127 (whenever fun s => s.here = some st) fun s ts =>
      .launch (bits p 12 3) (bits p 0 12)
        (((List.range 6).map fun i => BitVec.ofNat 64 (lane64 (tk ts 0) i)) ++ [callerWord st.task s.cur.node s.cur.key]) false 0) ∧
    (∀ p, Fires (.rdsr h p) h (fun _ => carrying [0]) (whenever fun s => s.here = some st) (fun s _ => s.spent) fun s ts =>
      let t := result s.cur.word ts (word64 (s.specialReg st s.cur.node.ctx (bits p 0 8)))
      [outBoth { t with nlane := if t.fl.nil then t.nlane else 0 }]) ∧
    (∀ p, Holds (.wrsr h p) h (computing [0]) 127 (fun _ ts => bits (tk ts 0).data 48 2 ≠ 3) fun _ ts =>
      .wrsr (bits p 0 3) ((tk ts 0).data.extractLsb' 0 64)) ∧
    (∀ p, Holds (.cpri h p) h (carrying [0]) 127 always fun _ _ => .cpri (p.extractLsb' 0 4) (bit p 4)) ∧
    (∀ p, Acts (.yld h p) h (carrying [0]) always fun s ts =>
      { s with fab := { s.fab with yielded := s.fab.yielded ++ [⟨s.cur.node, s.cur.key, tk ts 0, bits p 0 16⟩] } }) ∧
    (∀ p, Holds (.done h p) h (carrying [0]) 127 always fun _ _ => .done (if bit p 12 then some (bits p 0 12) else none)) ∧
    (∀ x holder, Acts (.steal h x) h (carrying [0])
      (whenever fun s => s.hereSettled = true ∧ s.strand (bits x.aux 12 3) (bits x.aux 0 12) = some holder ∧
        holder.steals.length < 16)
      fun s ts => (s.markRmw s.cur.node s.cur.key (tk ts 0).wave).onStrand holder.die holder.task fun y =>
        { y with steals := y.steals ++ [⟨s.cur.node, 0, s.cur.key, { result s.cur.word ts 0 with fl := {} }⟩] }) ∧
    (∀ x, Fires (.steal h x) h (fun _ => carrying [0])
      (whenever fun s => s.hereSettled = true ∧ s.strand (bits x.aux 12 3) (bits x.aux 0 12) = none ∧
        ∀ v ∈ s.saved, v.strand.is (bits x.aux 12 3) (bits x.aux 0 12) = false)
      (fun s ts => s.markRmw s.cur.node s.cur.key (tk ts 0).wave)
      fun s ts => [outA (emptied (result s.cur.word ts 0))]) ∧
    (∀ p, Fires (.spltClaim h p) h (fun _ => computing [0])
      (fun s ts => s.here = some st ∧ s.settled st s.cur.key = true ∧ lane0 (tk ts 0) ≠ 0)
      (fun s ts => (s.setCarry st.die st.task (bits p 16 5)
        (claimRange (lane0 (tk ts 0)) (Tab.get 0 (bits p 16 5) st.k)).2).markRmw s.cur.node s.cur.key (tk ts 0).wave)
      fun s ts =>
        let u := (s.setCarry st.die st.task (bits p 16 5)
          (claimRange (lane0 (tk ts 0)) (Tab.get 0 (bits p 16 5) st.k)).2).markRmw s.cur.node s.cur.key (tk ts 0).wave
        [outA (rangeTok (result u.cur.word ts 0) (claimRange (lane0 (tk ts 0)) (Tab.get 0 (bits p 16 5) st.k)).1)]) ∧
    (∀ x, Fires (.perf h x) h (fun _ => carrying [0]) (fun s _ => bit x.aux 0 = false ∨ s.hereSettled = true)
      (fun s ts =>
        let u := (s.perfRead s.cur.node.ctx.die x.id.toNat).2
        if bit x.aux 0 then
          { u.markRmw u.cur.node u.cur.key (tk ts 0).wave with
            eng := { u.eng with perf := Tab.put 0 (perfKey s.cur.node.ctx.die x.id.toNat) 0 u.eng.perf } } else u)
      fun s ts =>
        let u := (s.perfRead s.cur.node.ctx.die x.id.toNat).2
        let v := if bit x.aux 0 then u.markRmw u.cur.node u.cur.key (tk ts 0).wave else u
        [outBoth (result v.cur.word ts (word64 (s.perfRead s.cur.node.ctx.die x.id.toNat).1.toNat))]) ∧
    (∀ p d u, Fires (.frd h p) h (fun _ => carrying [0])
      (whenever fun s => s.here = some st ∧ st.fault ≠ 0 ∧ s.recordBeat st (bits p 0 4) = some (d, u))
      (fun _ _ => u) fun _ ts => [outBoth (result u.cur.word ts d)]) ∧
    (∀ p, Emits (.frd h p) h (carrying [0]) (whenever fun s => s.here = some st ∧ st.fault = 0) fun s ts =>
      nilResult s.cur.word ts) ∧
    (∀ p, Holds (.resm h p) h (computing [0]) 127 always fun _ ts =>
      .resm ((tk ts 0).data.extractLsb' 0 64) ((tk ts 0).data.extractLsb' 64 2) (bit (tk ts 0).data 66))

/-- The steal form of SPLT answers the oldest queued request as R74 says: with cur and hi in its carry register and grain G, NIL when
hi - cur < 2G, and else [mid, hi) with mid = cur + ceil((hi - cur) / 2), the register keeping [cur, mid); it emits the same to its TA. -/
def Obligations.SpltStealAnswers : Prop :=
  ∀ (h : Hd) (p : BitVec 30) (s t : State) (ts : List Tok) (st : Strand) (q : LTok) (rest : List LTok), 1 ≤ bits p 0 16 →
    t = s.deliverSteal s.cur.node s.cur.key → CanFire t h (computing [0]) ts → t.here = some st →
    t.settled st t.cur.key = true → st.steals = q :: rest →
    let kn := Tab.get 0 (bits p 16 5) st.k
    let cur := bits kn 0 32
    let hi := bits kn 32 32
    let mid := cur + (hi - cur + 1) / 2
    let few : Prop := (hi : Int) - cur < 2 * bits p 0 16
    let reply := fun (x : Tok) => if few then { x with fl := { nil := true }, data := 0 }
      else { x with fl := {}, data := BitVec.ofNat 384 (mid + hi * 2 ^ 32), nlane := 1 }
    exec (.spltSteal h p) s = .next
      (let u := ((t.setCarry st.die st.task (bits p 16 5) (if few then kn else BitVec.ofNat 64 (cur + mid * 2 ^ 32))).markRmw
         t.cur.node t.cur.key (tk ts 0).wave).onStrand st.die st.task fun x => { x with steals := rest }
       fired t (u.respond q.node q.key [outA (reply q.tok)] false) h [0] [outA (reply (tk ts 0))])

/-- XPK, XFER, DCNT and TRDY (R293, R294, R296, R297): the packet, or the request held until the instance commits. The flags of a packed
beat are the model's choice (log entry 159). -/
def Obligations.EngineWordsComplete : Prop :=
  ∀ h : Hd,
    (∀ p, Fires (.xpk h p) h (fun _ => ⟨[0, 1], [0, 1], [], [0, 1]⟩) always (fun s _ => s) fun s ts =>
      [outA (s.xpkBeat ts (tk ts 0) (packet p (tk ts 0))), outB (s.xpkBeat ts (tk ts 1) (tk ts 1).data)]) ∧
    (∀ (s : State) ts src d, (∀ t ∈ ts, t.fl.nil = false) → let t := s.xpkBeat ts src d
      t.data = d ∧ t.vc = vcOut s.cur.word (tk ts 0) ∧ t.nlane = allLanes (fmtOf (s.ent t.vc)) ∧ t.fl.poi = src.fl.poi ∧
        t.fl.retry = src.fl.retry) ∧
    (∀ x, Holds (.xfer h x) h (computing [0, 1]) 127 always fun _ ts =>
      .engine (bits x.id 0 4) (.xfer (tk ts 0).data (tk ts 1).data)) ∧
    (∀ x, bit x.aux 15 = true → Holds (.dcnt h x) h (computing [0]) 127 always fun _ ts =>
      .dcnt (bits x.aux 12 3) (bits x.aux 0 12) (bits (tk ts 0).data 0 16)) ∧
    (∀ x, bit x.aux 15 = false → Holds (.dcnt h x) h (carrying [0]) 127 always fun _ _ =>
      .dcnt (bits x.aux 12 3) (bits x.aux 0 12) 1) ∧
    (∀ x, Holds (.trdy h x) h (computing [0, 1]) 127 always fun _ ts =>
      .launch (bits x.aux 12 3) (bits x.aux 0 12)
        (((List.range 6).map fun i => BitVec.ofNat 64 (lane64 (tk ts 0) i)) ++ [BitVec.ofNat 64 (lane64 (tk ts 1) 0)])
        (bit x.aux 15) (x.aux.extractLsb' 16 4))

/-- GATH, SCAT and COLL take their tokens in SEQ order, keep them, and hold the request once the last has come (R94, R295, R298). -/
def Obligations.CollectingWordsComplete : Prop :=
  ∀ (h : Hd) (x : FmtX) (s t : State) (ts : List Tok),
    (s.bySeq s.cur.node s.cur.key 0 (BitVec.ofNat 16 (came s)) = some t →
      CanFire t h ⟨indexSlots s, [0, 1], indexSlots s, []⟩ ts → t.cur = s.cur →
      exec (.gath h x) s = .next (fired t
        (if (tk ts 0).fl.last then asksGather t false x (withIndex s t ts) else t.setKept (withIndex s t ts)) h (indexSlots s) [])) ∧
    (s.bySeq s.cur.node s.cur.key 0 (BitVec.ofNat 16 (came s)) = some t → (∀ k ∈ keptHere s, k.hasLast = false) →
      CanFire t h ⟨indexSlots s, [0, 1, 2], indexSlots s, []⟩ ts → t.cur = s.cur →
      exec (.scat h x) s = .next (fired t
        (if (tk ts 0).fl.last = true ∧ (withIndex s t ts).rowsNeeded ≤ (withIndex s t ts).rowsHere
         then asksGather t true x (withIndex s t ts) else t.setKept (withIndex s t ts)) h (indexSlots s) [])) ∧
    (∀ k, keptHere s = some k →
      (k.hasLast = true ∨ s.bySeq s.cur.node s.cur.key 0 (BitVec.ofNat 16 k.toks.length) = none) →
      s.bySeq s.cur.node s.cur.key 2 (BitVec.ofNat 16 k.rowsHere) = some t → CanFire t h ⟨[2], [0, 1, 2], [], []⟩ ts →
      t.cur = s.cur →
      exec (.scat h x) s = .next (fired t
        (let k := t.addRow k (tk ts 0)
         if k.hasLast = true ∧ k.rowsNeeded ≤ k.rowsHere then asksGather t true x k else t.setKept k) h [2] [])) ∧
    (s.bySeq s.cur.node s.cur.key 0 (BitVec.ofNat 16 (came s)) = some t → CanFire t h (computing [0]) ts → t.cur = s.cur →
      collFault t ts = none →
      exec (.coll h x) s = .next (fired t
        (let k := (keptHere s).getD ⟨s.cur.node, s.cur.key, [], [], []⟩
         let toks := k.toks ++ [{ tk ts 0 with data := t.laneData (tk ts 0) }]
         let ents := k.nums ++ [(t.ent (tk ts 0).vc).toNat]
         if bits x.aux 0 16 < toks.length
         then (t.unkeep t.cur.node t.cur.key).hold 127 (tk toks 0).wave
           (.engine 17 (.coll x.id.toNat h.fn (tk toks 0).vc (ents.map (BitVec.ofNat 32)) toks))
         else t.setKept { k with toks := toks, nums := ents }) h [0] []))

/-- RLD, RST, RATM and GLAZE issue (R299 to R301): RLD reads its own module's page, or asks the module its page lies on. -/
def Obligations.RemoteWordsIssue : Prop :=
  ∀ (h : Hd) (m : FmtM) (st : Strand) (a : Acc) (t u : State) (b : Bytes),
    Acts (.rld h m) h ⟨[0, 1], [0, 1], [0], [0]⟩
      (fun s ts => RemoteGranted s m ts false 0xD8 st a t ∧ MayRead s t m ts 48 st a ∧ a.hmod = t.module ∧ t.readHome a 48 = (some b, u))
      (fun s ts => loads s u m ts
        [outA (u.loaded m (ts.take 1) (u.underStores m ts a false b) (allLanes (fmtOf (u.ent m.vc)))),
         outB (completion (result u.cur.word (ts.take 1) 0) false)]) ∧
    (∀ g, Acts (.rld h m) h ⟨[0, 1], [0, 1], [0], [0]⟩
      (fun s ts => RemoteGranted s m ts false 0xD8 st a t ∧ MayRead s t m ts 48 st a ∧ a.hmod ≠ t.module ∧
        t.binding 0 st.part s.cur.node.ctx.die a.hmod a.hdie.toNat = some g)
      (fun s ts => (t.issue m ts).askRemote g a st.step s.cur.node t.cur.key m.vc (result t.cur.word (ts.take 1) 0))) ∧
    Acts (.rst h m) h ⟨[0, 1, 2], [0, 1, 2], [0], [0, 1]⟩
      (fun s ts => s.vcFault m = none ∧ RemoteGranted s m ts true 0xD9 st a t)
      (fun _ ts => if t.afterGlaze m then
          (t.hold m.msq.toNat (tk ts 0).wave (.rst a (t.recordOf a (tk ts 1)).1 (t.recordOf a (tk ts 1)).2
            (BitVec.ofNat 5 (fmtOf (t.ent m.vc))) (tk ts 1).fl.poi (result t.cur.word (ts.take 2) 0))).issue m ts
        else (t.queueRmw m.msq.toNat [0, 1, 2] ts (t.atomNums m ts)).issue m ts) ∧
    Acts (.ratm h m) h ⟨[0, 1, 2], [0, 1, 2], [0, 1], [0, 1]⟩
      (fun s ts => s.vcFault m = none ∧ RemoteGranted s m ts true 0xDA st a t)
      (fun _ ts => (t.queueRmw m.msq.toNat [0, 1, 2] ts (t.atomNums m ts)).issue m ts) ∧
    Acts (.glaze h m) h (carrying [0]) (fun s ts => s.notTurn m ts = false)
      (fun s ts => (s.hold m.msq.toNat (tk ts 0).wave (.glaze { s.zeroTok ts with fl := {} })).issue m ts)

/-- The tile's words that act once settled (R260 to R262, R264, R266): the firing queues them with the token taken. -/
def Obligations.TileWordsIssue : Prop :=
  ∀ h : Hd,
    (∀ a, Acts (.mlds h a) h ⟨[0], [0], [], [0]⟩ (fun s ts => mldsFault a s ts = none)
      fun s ts => s.queueRmw 127 [0] ts (fmtOf (s.ent a.vci) :: s.weightScales a (tk ts 0))) ∧
    (∀ p, Acts (.mswp h p) h (carrying [0]) always fun s ts => s.queueRmw 127 [0] ts) ∧
    (∀ p, Acts (.mctl h p) h (carrying [0]) always fun s ts => s.queueRmw 127 [0] ts) ∧
    (∀ p, Acts (.mclr h p) h (carrying [0]) always fun s ts => s.queueRmw 127 [0] ts) ∧
    (∀ p, Acts (.vdclSystolic h p) h (computing [0]) (fun _ ts => bits (tk ts 0).data 24 8 ≠ 255) fun s ts => s.queueRmw 127 [0] ts)

/-- What they do when they perform, behind the tile words queued before them: MLDS writes its row into the shadow plane, MSWP exchanges
the planes, MCTL sets ACCF, MCLR drops entries of partial sums, VDCL replaces the tag's declaration. That a weight beat of an abandoned
accumulation is one of its instance is the model's choice (log entry 164). -/
def Obligations.TileWordsPerform : Prop :=
  ∀ (s : State) (n : Nat) (r : Rmw) (st : Strand), Settled s n r st →
    (actingFor s r st).tileDue r.node (·.before r) = false →
    let u := actingFor s r st
    let x := u.tile r.node
    let t := (opsOf r).headD {}
    (opcode r.word = 0xA7 → u.abandoned r.node r.key = true → exec (.settledRmwPerform n) s = .next (performed u r [])) ∧
    (opcode r.word = 0xA7 → u.abandoned r.node r.key = false → r.ops.map (·.1) = [0] → exec (.settledRmwPerform n) s = .next (performed (u.setTile r.node
      { x with shadow := Tab.put {} t.seq.toNat ⟨t.data, r.nums.headD 2, r.nums.drop 1, t.fl.poi⟩ x.shadow }) r [])) ∧
    (opcode r.word = 0xA8 → exec (.settledRmwPerform n) s = .next
      (performed (u.setTile r.node { x with plane := x.shadow, shadow := x.plane }) r [])) ∧
    (opcode r.word = 0xA9 → exec (.settledRmwPerform n) s = .next
      (performed (u.setTile r.node { x with accf := bit r.word 0 }) r [])) ∧
    (opcode r.word = 0xAC → exec (.settledRmwPerform n) s = .next
      (performed (u.setTile r.node { x with tags := x.tags.filter fun y => !clears u r y }) r [])) ∧
    (opcode r.word = 0xB0 → r.ops.map (·.1) = [0] → exec (.settledRmwPerform n) s = .next
      (performed (u.setTile r.node { x with decls := (r.node.ctx.slot, r.key, declares r t) ::
        (x.decls.filter fun y => !(y.1 = r.node.ctx.slot && y.2.1 = r.key)) }) r []))

/-- MFIR delivers a beat of the k-step that is due to the entry of its tag, running the k-steps that are whole, and MDRN drains a final entry's 64 sums in eight
tokens (R263, R264). -/
def Obligations.TileStreamsComplete : Prop :=
  ∀ (h : Hd) (a : FmtA) (s : State) (ts : List Tok),
    let n := s.cur.node
    let k := s.cur.key
    let old := s.tagOf n k
    (∀ t q, t = s.nextStep n k old → q = (tk ts 0).seq.toNat → t.cur = s.cur → CanFire t h ⟨[0], [0], [], [0]⟩ ts →
      (old.dropped = false ∨ old.over = true) → old.wants q = true →
      mfirFault a (t.overstated (tk ts 0) (t.tagFor n old q).1) t ts = none → t.crumbFault n 0 (tk ts 0) = none →
      t.tileDue n (fun _ => true) = false → t.tileFrozen n k = false →
      exec (.mfir h a) s = .next
        (let b := t.tileBeat (tk ts 0)
         let x := (t.tagFor n old q).1
         let y := { x with beats := x.beats ++ [b], seen := x.seen + 1, ending := if b.ends then some (q / 8) else x.ending }
         fired t ((t.spent.putTag n (t.tagFor n old q).2 (t.tileRun n (tk ts 0) (t.accSat n.ctx) 64 y)).stopWeights n k) h [0] [])) ∧
    (CanFire s h ⟨[0], [0], [], [0]⟩ ts → old.dropped = true → old.over = false → s.tileDue n (fun _ => true) = false →
      s.tileFrozen n k = false →
      exec (.mfir h a) s = .next
        (fired s (s.putTag n (s.tile n) (old.discard ((tk ts 0).seq.toNat / 8) (s.endsStep n (tk ts 0)))) h [0] [])) ∧
    (∀ x, (s.tile n).tags.find? (fun y => y.key = k && y.slot = n.ctx.slot) = some x →
      CanFire s h (carrying [0]) ts → mdrnFault a s ts = none → s.tileDue n (fun _ => true) = false → x.final = true →
      x.drained = false → fmtOf (s.ent a.vci) = x.fmt → x.poison = [] →
      exec (.mdrn h a) s = .next (fired s
        ((s.drainOuts a ts x 8 0).2.spent.putTag n ((s.drainOuts a ts x 8 0).2.tile n) { x with drained := true }) h [0]
        (s.drainOuts a ts x 8 0).1))

/-- Verdict words that fire once (R266, R268, R270, R271). -/
def Obligations.VerdictWordsEmit : Prop :=
  ∀ h : Hd,
    (∀ p, Emits (.vdclDeclare h p) h (carrying [0]) always fun s ts => result s.cur.word ts
      (BitVec.ofNat 384 (pack [(0, 3, h.fn.toNat), (3, 3, bits p 0 3), (6, 1, bits p 4 1)]))) ∧
    (∀ a, Emits (.bnds h a) h (computing [0, 1]) (fun s ts => bndsFault a s ts = none) fun s ts =>
      result s.cur.word ts (BitVec.ofNat 384 (encodeFloat 11 .rup false (s.bnds a ts)))) ∧
    (∀ p st, Acts (.thrp h p) h (computing [0])
      (whenever fun s => s.here = some st ∧ (bit p 3 = true → s.inMask st.part (bits p 10 3) (bits p 4 6) = true))
      fun s ts => (s.hold 127 (tk ts 0).wave (.offer (if bit p 3 then bits p 10 3 else s.cur.node.ctx.die)
        (if bit p 3 then bits p 4 6 else s.cur.node.ctx.wafer) (bits p 0 3) (s.thrpValue (tk ts 0)))).spent) ∧
    (∀ a, Fires (.vpik h a) h
      (fun _ => ⟨slotsA a [0, 1], slotsA a [0, 1], (slotsA a [0, 1]).filter (· != 0), slotsA a [0, 1]⟩)
      (fun s ts => vpikFault a (slotsA a [0, 1]) s ts = none)
      (fun s ts => s.wrote s.cur.node a.vco (s.vpik a ts).length)
      fun s ts => [outBoth (
        let t := result s.cur.word ts (s.encodeLanes a (s.vpik a ts))
        if fmtOut s a = 17 then { t with nlane := nlaneFor 17 (s.vpik a ts).length } else t)]) ∧
    (∀ a, Emits (.iscr h a) h ⟨[0], [0], [], [0]⟩ (fun s ts => iscrFault a s ts = none) fun s ts =>
      let r := condResult (fmtOut s a) ((s.sides (tk ts 0)).map (iscrTest (bits a.imm 0 2))) (tk ts 0).nlane
      { result s.cur.word ts r.1 with nlane := r.2 })

/-- VACC adds its beats in SEQ order, the declaration taken with the first, and TOPK keeps the best candidates and emits them with the
LAST token (R267, R269). -/
def Obligations.AccumulatingWordsComplete : Prop :=
  ∀ (h : Hd) (a : FmtA) (s t : State) (ts : List Tok), t.cur = s.cur →
    (let all := vaccBeats a ++ [2]
     keptHere s = none → s.nextBeats a s.cur.node s.cur.key 0 = some t → CanFire t h ⟨all, all, all, []⟩ ts →
      vaccFault a (fun s ts => s.openVacc (tk ts 2)) t ts = none → declFault (tk (t.vaccToks a ts) 2) = none →
      ∃ u outs, t.vaccBeat a (t.openVacc (tk (t.vaccToks a ts) 2)) ts = .fires u outs ∧
        exec (.vacc h a) s = .next (fired t u h all outs)) ∧
    (∀ k, keptHere s = some k → s.nextBeats a s.cur.node s.cur.key (Vacc.ofKept k).next = some t →
      CanFire t h ⟨vaccBeats a, vaccBeats a ++ [2], if (Vacc.ofKept k).crumbed then [] else vaccBeats a, []⟩ ts →
      ((Vacc.ofKept k).crumbed = false → vaccFault a (fun _ _ => Vacc.ofKept k) t ts = none) →
      ∃ u outs, t.vaccBeat a (Vacc.ofKept k) ts = .fires u outs ∧ exec (.vacc h a) s = .next (fired t u h (vaccBeats a) outs)) ∧
    (∀ nums, nums = ((keptHere s).map (·.nums)).getD [0] →
      s.bySeq s.cur.node s.cur.key 0 (BitVec.ofNat 16 (nums.headD 0)) = some t →
      CanFire t h ⟨[0], [0], [], []⟩ ts → topkFault a t ts = none →
      exec (.topk h a) s = .next
        (let r := t.topkTake a (topkList (nums.drop 1)) (if (tk ts 0).fl.nil then [] else t.topkScores (tk ts 0))
         if (tk ts 0).fl.last then fired t (r.2.unkeep s.cur.node s.cur.key) h [0] (r.2.topkOuts a ts r.1)
         else fired t (r.2.setKept ⟨s.cur.node, s.cur.key, [], [], (nums.headD 0 + 1) :: topkFlat r.1⟩) h [0] []))

/-- Match words that act on a store (R304, R305, R311): the operation is held until the instance commits and a zero token shows the
issue; KPUT first keeps its key beats, and KCNT asks the port at once. -/
def Obligations.MatchStoreWordsComplete : Prop :=
  ∀ (h : Hd) (c : FmtK),
    Fires (.kdef h c) h (fun _ => computing [0])
      (fun s ts => noneOf (s.kdefCodes (s.ownStore c) c.keyvc (tk ts 0).data))
      (fun s ts => ported s c ts (.kdef (tk ts 0).data)) zeroOut ∧
    Fires (.kdel h c) h (fun _ => computing [0]) (fun s _ => noneOf (s.putCodes (s.ownStore c) c.keyvc))
      (fun s ts => ported (s.reserve (s.ownStore c)) c ts (.kdel ((tk ts 0).data.extractLsb' 0 32)))
      (fun s ts => zeroOut (s.reserve (s.ownStore c)) ts) ∧
    Fires (.kgen h c) h (fun _ => carrying [0]) (fun s _ => noneOf (s.storeCodes (s.ownStore c) c.keyvc))
      (fun s ts => ported s c ts .kgen) zeroOut ∧
    Fires (.ksid h c) h (fun _ => carrying [0]) (fun s _ => noneOf (s.storeCodes (s.ownStore c) c.keyvc))
      (fun s ts => ported s c ts .ksid) zeroOut ∧
    Fires (.kflt h c) h (fun _ => computing [0])
      (fun _ ts => c.filt ≠ 0 ∧ bits (tk ts 0).data 14 18 = 0 ∧ bits (tk ts 0).data 6 2 = 0)
      (fun s ts => s.hold 127 (tk ts 0).wave (.kflt c.filt.toNat ((tk ts 0).data.extractLsb' 0 96)))
      zeroOut ∧
    Acts (.kcnt h c) h (carrying [0]) (fun s _ => noneOf (s.storeCodes (s.ownStore c) c.keyvc))
      (fun s ts => s.askPort (s.ownStore c) s.cur.node s.cur.key c.keyvc (.kcnt (s.opsOf [0] ts))
        (s.locHere (tk ts 0).wave)) ∧
    (∀ (s t : State) (ts : List Tok), KeyBeat s t (s.ownStore c) false → CanFire t h ⟨[0], [0, 1, 2], [0], []⟩ ts →
      noneOf ((t.putCodes (s.ownStore c) c.keyvc).filter fun x => x.1 != 4 && x.1 != 12) →
      exec (.kput h c) s = .next (fired t
        (t.setKept ⟨s.cur.node, s.cur.key, [], keyBeatsKept s ++ [tk ts 0], []⟩) h [0] [])) ∧
    (∀ (s t : State) (ts : List Tok), KeyBeat s t (s.ownStore c) true → CanFire t h ⟨[0, 1, 2], [0, 1, 2], [0, 1], []⟩ ts →
      noneOf (t.putCodes (s.ownStore c) c.keyvc) →
      exec (.kput h c) s = .next (
        let beats := keyBeatsKept s ++ [tk ts 0]
        let op : PortOp := .kput (beats.map (keyData (fmtOf (t.keyEnt (s.ownStore c))))) ((tk ts 1).data.extractLsb' 0 128)
          (t.laneData (tk ts 2)) (tk ts 2).fl.poi
        let u := (t.unkeep s.cur.node s.cur.key).reserve (s.ownStore c)
        fired t (ported u c beats op) h [0, 1, 2] (zeroOut u beats)))

/-- KQRY keeps its query beats and asks its store's port with the last (R306, R112). -/
def Obligations.QueryWordsComplete : Prop :=
  ∀ (h : Hd) (c : FmtK) (s t : State) (ts : List Tok),
    (KeyBeat s t (s.ownStore c) false → CanFire t h ⟨[0], [0, 1], [0], []⟩ ts →
      noneOf (t.storeCodes (s.ownStore c) c.keyvc) →
      exec (.kqry h c) s = .next (fired t
        (t.setKept ⟨s.cur.node, s.cur.key, [], keyBeatsKept s ++ [tk ts 0], []⟩) h [0] [])) ∧
    (∀ u len, KeyBeat s t (s.ownStore c) true → CanFire t h ⟨[0, 1], [0, 1], [0, 1], []⟩ ts →
      noneOf (t.storeCodes (s.ownStore c) c.keyvc) →
      (if (t.store (s.ownStore c)).desc.kind = 1 then t.sequenceLen (bits (tk ts 1).data 32 32) else (.ok 0, t)) = (.ok len, u) →
      bits (tk ts 1).data 192 192 = 0 → bits (tk ts 1).data 118 10 = 0 → (c.mode = 2 → c.k = 0) →
      (t.mergeFeed h = true → h.ta = noTarget) →
      exec (.kqry h c) s = .next (fired t
        ((u.unkeep s.cur.node s.cur.key).sendQuery c h (s.ownStore c)
          ((keyBeatsKept s ++ [tk ts 0]).map (fun x => (0, x)) ++ t.opsOf [1] [tk ts 1])) h [0, 1] []))

/-- KMRG and KSMX take one token of a listed store that has not finished: a result is kept, and the last end mark emits the merged
result, unless a buffer is gone; values on another module are asked for first (R309, R310, R114, R115). -/
def Obligations.MergeWordsComplete : Prop :=
  ∀ (h : Hd) (c : FmtK) (s : State) (ts : List Tok), CanFire s h (mergeSlots s) ts →
    (let m := mergeHere s ts
     let t := tk ts 0
     m.refuses (if isMark t then t.from else some (bits t.data 160 23)) = false →
     (isMark t = false → ∀ p, m.last.find? (fun x => bits x.data 160 23 = bits t.data 160 23) = some p → scoreBefore t p = false) →
     (isMark t = true → m.retry = false → t.fl.retry = false → mergeNin m.ctl.data < m.fin + 1 →
       Fetchable s (s.fetches true m) ∧ (s.fetches true m = [] → s.winners s.cur.node s.cur.key [] 0 m.cands ≠ none)) →
     ∃ u outs, kmrgBody (if c.k = 0 then 64 else c.k.toNat) s m t = .fires u outs ∧
       exec (.kmrg h c) s = .next (fired s u h (mergeSlots s).rd outs)) ∧
    (let m := mergeHere s ts
     let t := tk ts 0
     m.refuses (some (if t.fl.retry || t.fl.nil then t.from.getD (bits t.data 0 23) else bits t.data 0 23)) = false →
     (m.retry = false → t.fl.retry = false → mergeNin m.ctl.data < m.fin + 1 →
       let all := { m with cands := if t.fl.nil then m.cands else m.cands ++ [t] }
       Fetchable s (s.fetches false all) ∧
         (s.fetches false all = [] → all.cands ≠ [] → ∀ g ∈ all.parts, s.fetched s.cur.node s.cur.key [] g none ≠ none)) →
     ∃ u outs, ksmxBody s m t = .fires u outs ∧ exec (.ksmx h c) s = .next (fired s u h (mergeSlots s).rd outs))

/-- Sequence page words (R313 to R318, R390): SPLK answers at once, SPAP, SPWN and SPRG hold their effect, SPFK and SPRL wait until
their instance is settled. -/
def Obligations.PageWordsComplete : Prop :=
  ∀ h : Hd,
    (∀ m sq hg pos b page va e owner d t u, Acts (.splk h m) h (computing [0])
      (fun s ts => pageAddr ts = (sq, hg, pos, b) ∧ s.notTurn m ts = false ∧ s.seqBusy = false ∧ s.seqStuck sq = false ∧
        (resolvePos sq hg pos).got s = .ok (some (page, va, e, owner)) t ∧ (readDesc page).got t = .ok d u)
      (fun s ts => (u.issue m ts).respond s.cur.node u.cur.key [outBoth { result u.cur.word ts (BitVec.ofNat 384 (pack
        [(0, 64, va), (64, 64, page), (128, 64, refcOf d)])) with nlane := 2 }] false)) ∧
    (∀ m sq hg pos b t, Acts (.splk h m) h (computing [0])
      (fun s ts => pageAddr ts = (sq, hg, pos, b) ∧ s.notTurn m ts = false ∧ s.seqBusy = false ∧ s.seqStuck sq = false ∧
        (resolvePos sq hg pos).got s = .ok none t)
      (fun s ts => (t.issue m ts).respond s.cur.node t.cur.key [outBoth (nilResult t.cur.word ts)] false)) ∧
    (∀ m sq hg pos b page a t, Fires (.spap h m) h (fun _ => ⟨[0, 1], [0, 1], [0], [0, 1]⟩)
      (fun s ts => pageAddr ts = (sq, hg, pos, b) ∧ s.notTurn m ts = false ∧ s.seqBusy = false ∧ s.seqStuck sq = false ∧
        (appendCheck s.cur.node s.cur.key sq hg pos b).got s = .ok (page, a) t)
      (fun _ ts => (t.hold m.msq.toNat (tk ts 0).wave (.spap ⟨sq, hg, pos, b, t.laneData (tk ts 1), (t.validBytes (tk ts 1)).length,
        page, (tk ts 1).fl.poi, (tk ts 1).fl.last, if a.ss then none else some a.addr⟩)).issue m ts)
      (fun _ ts => zeroOut t ts)) ∧
    (∀ p, Acts (.spfk h p) h (computing [0]) always fun s ts => s.queueRmw 127 [0] ts) ∧
    (∀ p, Acts (.sprl h p) h (computing [0]) always fun s ts => s.queueRmw 127 [0] ts) ∧
    (∀ p, Fires (.spwn h p) h (fun _ => computing [0]) always
      (fun s ts => s.hold 127 (tk ts 0).wave (.spwn (bits p 0 8) (BitVec.ofNat 64 (lane0 (tk ts 0)))))
      (fun s ts => [outBoth ((s.hold 127 (tk ts 0).wave (.spwn (bits p 0 8) (BitVec.ofNat 64 (lane0 (tk ts 0))))).zeroTok ts)])) ∧
    (∀ p, Fires (.sprg h p) h (fun _ => computing [0]) always
      (fun s ts => s.hold 127 (tk ts 0).wave (.sprg (bits (tk ts 0).data 0 32) (bit p 0)))
      (fun s ts => [outBoth ((s.hold 127 (tk ts 0).wave (.sprg (bits (tk ts 0).data 0 32) (bit p 0))).zeroTok ts)]))

/-- Register and branch words of the sequencer (R331, R53): QSET, QADD, QLOOP, QBR and QPRD. -/
def Obligations.SequencerRegisterWords : Prop :=
  ∀ (q : SeqW) (s : State) (st : Strand), Sequencing s st →
    exec (.qset q) s = .next (nextWord (s.writeReg st q.da.toNat (operandOf s st q)) st) ∧
    exec (.qadd q) s = .next (nextWord (s.writeReg st q.da.toNat (s.readReg st q.da.toNat + operandOf s st q)) st) ∧
    exec (.qloop q) s = .next (
      let v := s.readReg st q.da.toNat
      if v = 0 then nextWord s st
      else if v = 1 then nextWord (s.writeReg st q.da.toNat 0) st
      else branch (s.writeReg st q.da.toNat (v - 1)) st q) ∧
    (holdsCond q.fn.toNat (s.readReg st q.da.toNat).toInt (s.readReg st q.db.toNat).toInt →
      exec (.qbr q) s = .next (branch s st q)) ∧
    (q.fn.toNat < 7 → ¬holdsCond q.fn.toNat (s.readReg st q.da.toNat).toInt (s.readReg st q.db.toNat).toInt →
      exec (.qbr q) s = .next (nextWord s st)) ∧
    ((bit q.imm 11 = true → bits q.imm 8 2 < st.slots.length) →
      exec (.qprd q) s = .next (nextWord
        (s.onStrand st.die st.task fun x => { x with exitMap := Tab.put 0 (bits q.imm 0 3) (q.imm.extractLsb' 8 4) x.exitMap }) st))

/-- Sequencer words that start a phase, arm a stream, wait, contribute to a glaze or end the strand (R332 to R334, R328, R156). That the
strand's step advances at its QGLZ is the model's choice (log entry 41), and so is the key of the stream that QARM arms (log entry 43). -/
def Obligations.SequencerPhaseWords : Prop :=
  ∀ (q : SeqW) (s : State) (st : Strand) (k : Key), Sequencing s st →
    (bits q.fn 0 2 < st.slots.length → s.drained st = true → st.l0 = some k →
      exec (.qcfgLabel q) s = .next (s.enterSlot st.die st.task (bits q.fn 0 2) (st.sqpc + q.imm.signExtend 64 * 8)) ∧
      exec (.qcfgRegister q) s = .next (s.enterSlot st.die st.task (bits q.fn 0 2) (s.readReg st q.da.toNat))) ∧
    (st.l0 = some k → s.streamPending st (bits q.da 0 4) = false →
      (let d := setBits (Tab.get 0 (bits q.da 0 4) st.sd) 0 64 (s.readReg st q.db.toNat).toNat
       goodDesc d = true → exec (.qarmRegister q) s = .next (nextWord (armsAll s st (bits q.da 0 4) d k) st)) ∧
      (goodDesc (s.constDesc st (bits q.imm 0 6)) = true → exec (.qarmConstants q) s =
        .next (nextWord (armsAll s st (bits q.da 0 4) (s.constDesc st (bits q.imm 0 6)) k) st)) ∧
      (goodDesc (Tab.get 0 (bits q.da 0 4) st.sd) = true → exec (.qarmKeep q) s =
        .next (nextWord (armsAll s st (bits q.da 0 4) (Tab.get 0 (bits q.da 0 4) st.sd) k) st))) ∧
    ((∀ w ∈ st.wafers, (s.stream st.die w (bits q.da 0 4)).armed = false ∨ (s.stream st.die w (bits q.da 0 4)).fin = true) →
      exec (.qwaitStream q) s = .next (nextWord s st)) ∧
    exec (.qwaitCycles q) s = .next (s.setStrand { st with mode := .cycles q.imm.toNat }) ∧
    (s.drained st = true → exec (.qend q) s = .next (s.endStrand st.die st.task none)) ∧
    (st.step = (s.domain st.part).step →
      let g : List Glz := st.glz ++ [⟨none, st.step, s.mem.nextSeq, []⟩]
      exec (.qglzWait q) s = .next (s.setStrand { st with mode := .glaze q.da.toNat, glz := g, step := st.step + 1 }) ∧
      exec (.qglzNowait q) s = .next (s.setStrand { st with sqpc := st.sqpc + 8, glz := g, step := st.step + 1 }))

/-- Tokens move and age (R19, R45, R46, R24), and a starving context is forced (R69). -/
def Obligations.TokenEventsComplete : Prop :=
  ∀ (s : State) (n : Nat),
    (∀ x d, let j := s.pick x.left.length
      s.fab.latch[n]? = some x → x.left[j]? = some d → (∀ y ∈ s.fab.latch.take n, y.node ≠ x.node) →
      s.held x.node.ctx = false → s.mayPass (.inl x.node) = true → s.mrgoWaits ⟨⟨x.node.ctx, d.1⟩, d.2, x.key, x.tok⟩ = false →
      let rest := drop1 j x.left
      let latch := if rest.isEmpty then drop1 n s.fab.latch else upd (fun y => { y with left := rest }) n s.fab.latch
      let t : LTok := ⟨⟨x.node.ctx, d.1⟩, d.2, x.key, x.tok⟩
      let u := (withFab s fun f => { f with latch := latch }).spent
      let v := if rest.isEmpty then u.passed (.inl x.node) else u
      (t.node.cell = x.node.cell → s.partRoom t.node = true → exec (.tokenArrival .latch n) s =
        .next (withFab v fun f => { f with part := f.part ++ [t] })) ∧
      (t.node.cell ≠ x.node.cell → s.injects x.node = true → exec (.tokenArrival .latch n) s =
        .next (withFab v fun f => { f with net := f.net ++ [Flight.inject x.node t] }))) ∧
    (∀ x, s.fab.net[n]? = some x → x.home = true → s.partRoom x.tok.node = true → exec (.tokenArrival .net n) s =
      .next (withFab s fun f => { f with net := drop1 n f.net, part := f.part ++ [x.tok] })) ∧
    (∀ t st, s.fab.part[n]? = some t → s.strandOf t.node.ctx = some st → s.stale t = false → s.wadvDiscards st t = false →
      t.tok.fl.hdr = false → s.inTurn (s.fab.part.take n) t = true →
      (s.writeWalk t = none → s.operandRoom st t = true → exec (.tokenArrival .part n) s = .next
        ((((withFab s fun f => { f with part := drop1 n f.part }).joinStore t).writeFrame t).wadvPredicate t)) ∧
      (∀ e x y, s.writeWalk t = some (e, x) → x.takeBeat t.tok = some y → s.held t.node.ctx = false →
        exec (.tokenArrival .part n) s = .next { withFab s fun f => { f with part := drop1 n f.part } with
          eng := { s.eng with streams := Tab.put {} e y s.eng.streams } })) ∧
    (∀ t, s.fab.part[n]? = some t → t.tok.fl.hdr = true → s.inTurn (s.fab.part.take n) t = true → s.stale t = false →
      exec (.headerBeatLatch n) s = .next
        (((withFab s fun f => { f with part := drop1 n f.part }).countBeat t.node t.port).latchHeader t)) ∧
    (8 ≤ s.fab.agePhase → exec .tokenAgeTick s = .next (withFab s fun f => { f with
      latch := f.latch.map (fun x => { x with tok := older x.tok }), part := ageToks f.part
      net := f.net.map (fun x => { x with tok := { x.tok with tok := older x.tok.tok } })
      ostore := ageToks f.ostore, mrgo := f.mrgo.map (fun m => { m with win := ageToks m.win }), agePhase := f.agePhase - 8 })) ∧
    (∀ die wafer cell x, (∀ f ∈ s.fab.forced, f.1 ≠ cellKey die wafer cell) → x < 4 →
      s.forces ⟨⟨die, wafer, x⟩, 2 * cell⟩ = true → (∀ y < x, s.forces ⟨⟨die, wafer, y⟩, 2 * cell⟩ = false) →
      exec (.starvationForce die wafer cell) s = .next (withFab s fun f => { f with
        forced := f.forced ++ [(cellKey die wafer cell, x)] }))

/-- Phases, configurations, placing, saving and restoring strands, and priorities (R53, R64, R65, R62, R71 to R73, R70, R373, R331). -/
def Obligations.StrandEventsComplete : Prop :=
  ∀ (s : State) (die task : Nat) (st : Strand), s.strand die task = some st →
    (st.mode ≠ .ended → s.phaseOver st = true →
      (s.foldsAsked st = false → exec (.phaseEnd die task) s = .next (s.endPhase die task)) ∧
      (s.foldsAsked st = true → exec (.phaseEnd die task) s = .next ((s.kill die task st.liveKeys).askFolds st))) ∧
    (st.mode = .ended → s.drained st = true → exec (.phaseEnd die task) s = .next (s.endStrand die task (st.done.getD none))) ∧
    (st.frozen = false → st.saving = false →
      (∀ j cfg k, st.mode = .load j cfg → s.drained st = true → st.l0 = some k →
        exec (.configLoad die task) s = .next (s.load st j cfg)) ∧
      (∀ j cfg, st.mode = .loaded j cfg → s.clashes st j = [] → s.mayFlip st j = true →
        (st.wafers.length ≤ 16 → exec (.configFlip die task) s = .next (((st.ctxs j).foldl State.flip1 s).startPhase st.die st.task j)) ∧
        (16 < st.wafers.length → exec (.configFlip die task) s = .next (s.setStrand { st with mode := .flipping j cfg [] 0 }))) ∧
      (∀ j cfg acked age, st.mode = .flipping j cfg acked age →
        (s.clashes st j = [] → (∀ w ∈ st.wafers, w ∈ acked) → s.mayFlip st j = true →
          exec (.configFlip die task) s = .next (((st.ctxs j).foldl State.flip1 s).startPhase st.die st.task j)) ∧
        (∀ w, s.clashes st j = [] → age < 1024 → w ∈ st.wafers →
          (st.unacked acked age)[s.pick (st.unacked acked age).length]? = some w →
          exec (.configFlip die task) s = .next (s.spent.setStrand { st with mode := .flipping j cfg (acked ++ [w]) age })) ∧
        (∀ w, 1024 ≤ age → st.wafers.find? (fun x => !acked.contains x) = some w →
          exec (.isolationGateTimeout die task w) s = .next
            ((s.dropShadows st j).loadFault st j cfg { kind := 1, cause := 0x16, node := ⟨⟨die, w, st.slotOf j⟩, 0⟩ }))) ∧
      (st.mode = .cycles 0 → exec (.qwaitExpiry die task) s =
        .next (s.setStrand { st with mode := .run, sqpc := st.sqpc + 8 }))) ∧
    (st.saving = true → s.quiet st = true → s.saveWaits st st.lead = false → exec (.strandSave die task) s = .next (s.finishSave st)) ∧
    (st.saving = false → s.movable st = true → (s.plan die).planned st = true →
      exec (.strandSave die task) s = .next ((s.plan die).setStrand { st with saving := true }))

/-- The allocator, once its plan for a blocked record stands, places the first record that fits, restores a saved strand, and refuses a
record that no set can hold (R62, R73, R366); a written priority reaches its contexts (R70). -/
def Obligations.PlacementEventsComplete : Prop :=
  ∀ (s : State) (die : Nat),
    (let u := s.plan die
     (∀ r ws slots, u.nextPlace die = some (.onto r ws slots) → r.restore = false →
       exec (.allocatorPlace die) s = .next (u.placeNew die r ws slots)) ∧
     (∀ r code, u.nextPlace die = some (.discard r code) → exec (.allocatorPlace die) s = .next
       ((u.takeRecord die r).report { kind := 2, cause := 0x14, code := code, die := die, task := r.task }
         (entPart (s.taskEntry die r.task)) (.launch die r.task))) ∧
     (∀ r ws slots v, u.nextPlace die = some (.onto r ws slots) → r.restore = true → u.savedOf die r.task = some v →
       exec (.strandRestore die r.task) s = .next (u.restoreOnto v r ws slots))) ∧
    (∀ n w x l, s.sch.prioq[n]? = some w → s.mayReach n w = x :: l →
      let left := w.left.filter (· != (x :: l).getD (s.pick (l.length + 1)) x)
      (left = [] → exec (.priorityChangeArrival n) s = .next
        (({ s.spent with sch := { s.sch with prioq := drop1 n s.sch.prioq } } : State).setPrios (w.ctxs.map fun c => (c, w.prio)))) ∧
      (left ≠ [] → exec (.priorityChangeArrival n) s = .next
        { s.spent with sch := { s.sch with prioq := upd (fun w => { w with left := left }) n s.sch.prioq } }))

/-- Stream engines: a beat is read, a beat leaves toward its target, a pending descriptor starts (R149, R234). -/
def Obligations.StreamEventsComplete : Prop :=
  ∀ (s : State) (die wafer e : Nat),
    (∀ st b a t, let x := s.stream die wafer e
      s.strand die x.task = some st → x.mayWrite = false → x.mayRequest = true → st.frozen = false → st.saving = false → wafer ∈ st.wafers →
      s.engineRead (st.asker wafer) (st.step != (s.domain st.part).step) (bits x.desc 233 3) (beatAddr x.desc x.next) 48 = .ok (b, a) t →
      exec (.streamBeatRequest die wafer e) s = .next (t.setStream die wafer e { x with next := x.next + 1, returns := x.returns ++
        [(x.next, { beatTok x.desc x.next with data := beatOf b.bytes, fl := { (beatTok x.desc x.next).fl with poi := b.poi } }, true)] })) ∧
    (∀ st i u c rest t, let x := s.stream die wafer e
      let n := walkNode die wafer x
      s.strand die x.task = some st → wafer ∈ st.wafers → x.mayWrite = true → x.returns = (i, u, c) :: rest →
      let y : Stream := { x.sentOne i rest with consumed := x.consumed + 1 }
      (u.fl.nil = true → exec (.streamBeatRequest die wafer e) s = .next (s.setStream die wafer e y)) ∧
      (u.fl.nil = false → s.engineWrite ⟨st.asker wafer, st.task, st.step, s.locOf st n (x.key.getD Key.zero)⟩ (bits x.desc 233 3)
          (beatAddr x.desc i) (s.rowBytes n u) u.fl.poi (s.rowFmt n u) 0 = .ok () t →
        exec (.streamBeatRequest die wafer e) s = .next (t.setStream die wafer e y))) ∧
    (∀ i u a rest k st, let x := s.stream die wafer e
      let n := walkNode die wafer x
      let me : Node ⊕ (Nat × Nat) := .inr (streamKey die wafer e, i)
      x.returns = (i, u, a) :: rest → x.key = some k → x.writes = false → x.slot < 4 → s.strandOf n.ctx = some st → st.gated n.ctx = false →
      s.mayPass me = true →
      let t : Tok := { u with nlane := allLanes (s.fmtAt n u.vc) }
      exec (.streamBeatReturn die wafer e) s = .next (((s.passed me).setStream die wafer e (x.sentOne i rest)).enterBeat
        ⟨n, bits x.desc 211 2, k, { t with fl := crumbFlags (s.fmtAt n t.vc) t }⟩ (if a then some (x.desc, i) else none))) ∧
    (∀ d k slot task, let x := s.stream die wafer e
      x.pending = some (d, k, slot, task) → (x.fin = true ∨ x.armed = false) →
      exec (.streamPendingStart die wafer e) s = .next (s.setStream die wafer e (startWalk d k slot task)))

/-- Engines: a request's next element, its end and its counter, migrations, rows and scatters (R147, R138, R150, R161, R295, R387). When
the new frame of a migration fails is the model's choice (log entry 174). -/
def Obligations.EngineEventsComplete : Prop :=
  ∀ (s : State) (n q : Nat),
    exec (.engineOperationStart n q) s = .next (s.runHead n q) ∧
    (∀ b0 b1 r task part wafers l i ended rest, s.queue n q = .op (.xfer b0 b1) r task part wafers l true i false ended :: rest →
      (if packetOp b0 = 2 then i ≠ 0 ∨ ∀ g ∈ s.mem.migs, ¬(g.queue = queueKey n q ∧ g.stage = 1) else packetTotal b0 ≤ i) →
      (∀ x ∈ s.pod.sent, ¬(x.kind = 0 ∧ x.node = l.node ∧ x.key = l.key)) →
      (∀ x ∈ s.pod.remotes, ¬(x.kind = 0 ∧ x.node = l.node ∧ x.key = l.key)) →
      exec (.transferComplete n q) s = .next
        (if bit b0 236 then (s.setQueue n q rest).decrement n (bits b0 224 12) 1 else s.setQueue n q rest)) ∧
    (∀ g, s.mem.migs[n]? = some g → g.stage = 1 → exec (.migrationFinalWindow n) s = .next
      (if s.newFrameFails then s.abandonMigr n g else s.spent.finalWindow n g)) ∧
    (∀ g, s.mem.migs[n]? = some g → g.stage = 2 → (∀ st ∈ s.strands, g.stamp ≤ st.stamp) →
      ∃ t, exec (.migrationRelease n) s = .next t ∧ t.mem.migs = drop1 n s.mem.migs ∧
        t.mem.redirect = s.mem.redirect.filter (fun r => r != (g.old, g.new, g.size, g.stamp)) ∧ t.mem.phys = s.mem.phys) ∧
    (∀ r st, s.eng.rows[n]? = some r → s.strandOf r.node.ctx = some st → st.liveAt r.node.ctx r.key = true → r.remote = none →
      s.latchEmpty r.node = true → r.out.a = true → exec (.gatherRowReturn n) s = .next
        (({ s with eng := { s.eng with rows := drop1 n s.eng.rows } } : State).emit r.node r.key (Hd.ofWord (s.wordAt r.node)) [r.out])) ∧
    (∀ aux desc idx rows t rr task part wafers l i ended rest,
      s.queue n 16 = .op (.gath true aux desc idx rows t) rr task part wafers l true i false ended :: rest → gathTotal desc idx ≤ i →
      (∀ x ∈ s.pod.sent, ¬(x.kind = 0 ∧ x.node = l.node ∧ x.key = l.key)) →
      (∀ x ∈ s.pod.remotes, ¬(x.kind = 0 ∧ x.node = l.node ∧ x.key = l.key)) →
      exec (.scatterCompletion n) s = .next
        ((s.setQueue n 16 rest).respond l.node l.key [outA (gathEnd t (gathTotal desc idx))] true))

/-- A step-shared write is buffered, a contribution counted, a module enters and leaves the barrier, and the records are applied when
it is released (R171, R173, R174, R175, R395). -/
def Obligations.GlazeEventsComplete : Prop :=
  ∀ (s : State) (n : Nat),
    (∀ x, s.pod.sent[n]? = some x → s.bufferFull x.grec = false → x.kind ≠ 0 → exec (.glazeWriteAccept n) s = .next
      ((withPod s fun p => { p with sent := drop1 n p.sent, records := p.records ++ [x.grec] }).respond x.node x.key
        (sentOuts x.kind x.tok x.ans false) x.late)) ∧
    (∀ x, s.pod.sent[n]? = some x → s.bufferFull x.grec = false → x.kind = 0 → exec (.glazeWriteAccept n) s = .next
      (withPod s fun p => { p with sent := drop1 n p.sent, records := p.records ++ [x.grec] })) ∧
    (∀ st g rest, s.strands[n]? = some st → st.glz = g :: rest → g.step = (s.domain st.part).step → s.glazeWaits st g = false →
      exec (.glazeContribution n) s = .next ((s.setStrand { st with glz := rest }).setDomain st.part
        { s.domain st.part with contrib := (s.domain st.part).contrib ++ [(st.die, st.task, g.who)] })) ∧
    (n < 64 → bit (s.domain n).reg 63 = true → (s.domain n).entered = false → s.pod.buddy = 0 → s.pod.fenced = false →
      (s.domain n).npart + 1 ≤ (s.domain n).contrib.length →
      exec (.glazeBarrierEnter n) s = .next (s.setDomain n { s.domain n with entered := true })) ∧
    (∀ lg, s.treeParent 3 n = some lg → s.allEntered n = true → (s.domain n).sentUp = false → ∀ child,
      exec (.barrierFlit n child false) s = .next
        ((s.setDomain n { s.domain n with sentUp := true }).sendFlit lg
          (.barrier n false (s.domain n).step (s.domain n).heard) false)) ∧
    (∀ c ∈ s.treeChildren 3 n, s.glazeReleased n = true → c.1 ∉ (s.domain n).down → exec (.barrierFlit n c.1 true) s = .next
      ((s.setDomain n { s.domain n with down := (s.domain n).down ++ [c.1] }).sendFlit c.1 (.barrier n true (s.domain n).step 0) false)) ∧
    ((s.domain n).entered = true → s.glazeReleased n = true →
      (∀ r ∈ s.pod.records, r.dom = n → parityOf r.step = parityOf (s.domain n).step →
        s.memReady (s.frameAcc n (s.home r.pa)) = true) →
      exec (.glazeRelease n) s = .next (s.releaseGlaze n))

/-- Flits, retraining, heartbeats, failed peers and the steps of recovery (R165 to R169, R398, R399, R403, R405); a collective's vector goes
up or its sum down, and its result reaches the nodes of COLL (R176, R298). -/
def Obligations.LinkEventsComplete : Prop :=
  (∀ (s : State) (lg : Nat),
    (∀ f, let l := s.link lg
      bit l.word 63 = true → l.training = false → bit s.host.ready (47 + lg / 9) = true →
      (f.fecOk = false ∨ f.seq.toNat ≠ l.rx.toNat % 65536 → exec (.flitReceive lg f) s = .next (s.askReplay lg)) ∧
      (f.fecOk = true → f.seq.toNat = l.rx.toNat % 65536 →
        f.pmac = Config.pmac (Tab.get 0 (bindPart l.word) s.host.linkKeys) (flitNonce lg l.rx.toNat) (bareFlit f) →
        (f.last = false → exec (.flitReceive lg f) s = .next (s.takeFlit lg f)) ∧
        (f.last = true → exec (.flitReceive lg f) s = .next (
          let secure := !l.clear && f.ciph
          match s.completed lg f with
          | none => s.takeFlit lg f
          | some b =>
            if secure = false ∧ s.carriesSecret (bindPart l.word) (l.word.extractLsb' 49 8) b = true then s.dropFlit lg 2
            else if s.flitWaits (bindPart l.word) b = true then s
            else (s.takeFlit lg f).useMessage lg (bindPart l.word) secure b)))) ∧
    (bit (s.link lg).word 63 = true → exec (.laneRetrain lg) s = .next (s.setLink lg { s.link lg with training := true })) ∧
    ((s.link lg).training = true → exec (.retrainComplete lg true) s = .next
      (s.setLink lg { s.link lg with training := false, failed := 0, replays := [], replay := (s.link lg).kept.length })) ∧
    ((s.link lg).training = true → (s.link lg).failed < 2 → exec (.retrainComplete lg false) s = .next
      (s.setLink lg { s.link lg with failed := (s.link lg).failed + 1 })) ∧
    exec .heartbeatSend s = .next ((s.pod.links.filter fun l => bit l.2.word 63 && bits l.2.word 33 3 = 3).foldl
      (fun (s : State) l => s.sendFlit l.1 .heartbeat false) s) ∧
    (20 * 1300000 ≤ Tab.get 0 lg s.pod.heard → lg ∉ s.pod.peersFailed →
      exec (.peerFailureDetect lg) s = .next (s.declareFailed lg)) ∧
    (s.pod.fenced = true →
      exec (.recovery .fence) s = .next s.fenceJob ∧
      (∀ lmod, let t := if bit s.pod.recovery 62 then
          (withPod s fun p => { p with recovery := setBits (setBits p.recovery 40 8 lmod.toNat) 62 1 0 }) else s
        exec (.recovery (.remap lmod)) s = .next (if bit t.pod.recovery 63 then t.copyToBuddy t.sharedLines else t)) ∧
      (∀ die task, exec (.recovery (.reload die task)) s = .next (s.relaunch die task)) ∧
      exec (.recovery .restore) s = .next s.sendCopies ∧
      exec (.recovery .resume) s = .next (withPod s fun p => { p with fenced := false, peersFailed := [] }).retryPorts)) ∧
  (∀ (s : State) (n : Nat) (c : Coll) (own : List Tok), s.eng.colls[n]? = some c → c.own = some own →
    (c.sent = false → (∀ l ∈ s.treeChildren 2 c.part, ∃ k ∈ c.kids, k.1 = l.1) →
      let beats := if c.bad then [] else c.total (fun lg => bits (Tab.get {} lg s.pod.links).word 49 8) own
      (∀ lg, s.treeParent 2 c.part = some lg → exec (.collectiveContribution n) s = .next
        ((s.setColl n { c with sent := true }).sendFlit lg
          (.collUp c.part c.id c.fn (BitVec.ofNat 5 (fmtOf c.fmt)) beats) (collConf c.fn))) ∧
      (s.treeParent 2 c.part = none → s.module.toNat = (s.domain c.part).root → exec (.collectiveContribution n) s = .next
        ((s.setColl n { c with sent := true, result := some beats }).collDown c beats (!c.bad)))) ∧
    (∀ beats, c.result = some beats → beats ≠ [] → exec (.collectiveResult n) s = .next
      (({ s with eng := { s.eng with colls := drop1 n s.eng.colls } } : State).respond c.node c.key (collOuts own beats) true)))

/-- A taken fault freezes its strand and asks for its record, the record is written once it can be, and rings and bounds are reported
(R353 to R357, R367 to R370). -/
def Obligations.FaultEventsComplete : Prop :=
  ∀ (s : State),
    (∀ die task st r rest, s.strand die task = some st → st.frozen = false →
      insSort FaultReg.le (s.effective st) = r :: rest →
      exec (.faultTakesEffect die task) s = .next ((s.setStrand { st with frozen := true }).report
        { s.locOf st r.node r.key with
          kind := 0, cause := r.cause, code := r.code.toNat, addr := r.addr, wave := r.wave.toNat, detail := r.detail.toNat }
        st.part (.exact st.die st.task r.node r.key))) ∧
    (∀ n r die task node key st, s.flt.reqs[n]? = some r → r.subject = .exact die task node key → s.strand die task = some st →
      s.landed st = true → s.recordWaits r = false →
      exec (.faultRecordWrite n) s = .next
        (({ s with flt := { s.flt with reqs := drop1 n s.flt.reqs } } : State).writeRecord r (s.mayRerun die task node key))) ∧
    (∀ n r, s.flt.reqs[n]? = some r → (∀ die task node key, r.subject ≠ .exact die task node key) → s.recordWaits r = false →
      exec (.faultRecordWrite n) s = .next
        (({ s with flt := { s.flt with reqs := drop1 n s.flt.reqs } } : State).writeRecord r false)) ∧
    (∀ die wafer, s.checkOpen die wafer = true → exec (.backPressureCheck die wafer) s = .next ((List.range 4).foldl (fun (s : State) x =>
      match s.strandOf ⟨die, wafer, x⟩ with
      | none => s
      | some st => (List.range 128).foldl (fun (s : State) i => s.reportRings st ⟨die, wafer, x⟩ i) s)
      { s with flt := { s.flt with checks := Tab.put 0 (waferKey die wafer) s.host.time.toNat s.flt.checks } })) ∧
    (∀ n st i r, s.strands[n]? = some st → st.reqs[i]? = some r →
      st.reqs.findIdx? (fun r => boundOn (Tab.get 0 st.die s.flt.tagBound) r.waited && !r.told) = some i →
      exec (.tagWaitBound n) s = .next ((s.tagReport st r.lvl.toNat false r.parent r.node r.key r.trig.wave).setStrand
        { st with reqs := upd (fun r => { r with told := true }) i st.reqs }))

/-- The ports hold no write back. -/
def settled (s : State) : State := withHost s fun h => { h with waiting := [] }

/-- What the host does to the module: launches, register writes, reads that clear, TDISP and IDE, reset, readiness and clocks
(R7, R58, R59, R136, R345, R348, R350, R357, R401, R402, R404, R413). -/
def Obligations.HostEventsComplete : Prop :=
  ∀ (s : State),
    (s.host.waiting = [] → ∀ port,
      (∀ tok, s.launchWaits tok = false → s.launchAccepted tok = true → exec (.launchToken port tok) s = .next
        (settled (s.launch (launchDie tok) (launchTask tok) (launchOps tok) (bit tok 20) (tok.extractLsb' 16 4)))) ∧
      (∀ die, die < 8 → bit s.host.ready die = true →
        exec (.tlbInvalidation ⟨port, die⟩) s = .next (settled (s.invalidateTlb die)) ∧
        (∀ v, (∀ o va, s.hostRecordAt die (Tab.get 0 die s.flt.hostVa) = some o → o.va = some va → s.partWaits o.part va = false) →
          exec (.hostResume die ⟨port, v⟩) s = .next
            (settled (s.resume (s.hostRecordAt die (Tab.get 0 die s.flt.hostVa)) (bits v 0 2) (bit v 2)))) ∧
        (∀ off v ide, off < 0x100000 → off % 8 = 0 → s.barReadWaits (dieWindow die + off) v = false →
          exec (.registerWrite (dieWindow die + off) ⟨port, v⟩ ide) s = .next (settled (s.writeDieReg die off v ide)))) ∧
      (∀ off v ide, off < 0x100000 → off % 8 = 0 → s.barReadWaits (moduleWindow + off) v = false →
        exec (.registerWrite (moduleWindow + off) ⟨port, v⟩ ide) s = .next (settled (s.writeModuleReg off v ide))) ∧
      (∀ v, exec (.freePageWrite ⟨port, v⟩) s = .next
        (settled { s with pages := { s.pages with free := s.pages.free ++ [v.toNat % 2 ^ 32] } })) ∧
      (∀ lg v, lg < 72 →
        exec (.bindingWrite lg false ⟨port, v⟩) s = .next (settled (s.writeBinding lg v)) ∧
        exec (.bindingWrite lg true ⟨port, v⟩) s = .next
          (settled (withPod s fun p => { p with links := Tab.put {} lg { Tab.get {} lg p.links with tag := v } p.links }))) ∧
      (∀ v, (bit v 63 = true → ∀ l ∈ s.sharedLines, s.paReady (s.home l.1) = true) →
        let t := withPod s fun p => { p with
          recovery := setBits (setBits p.recovery 40 16 (bits v 40 16)) 62 2 (bits v 62 2) }
        (bit v 63 = true → bit s.pod.recovery 63 = false →
          exec (.buddyCopyEnable ⟨port, v⟩) s = .next (settled (t.copyToBuddy t.sharedLines))) ∧
        (bit v 63 = false ∨ bit s.pod.recovery 63 = true → exec (.buddyCopyEnable ⟨port, v⟩) s = .next (settled t))) ∧
      (∀ b, s.maySetFlag b = true → exec (.readinessFlagSet b) s = .next
        (settled (withHost s fun h => { h with ready := withReady (setBits h.ready b 1 1) })))) ∧
    (s.host.waiting = [] →
      (∀ rd, exec (.hostAccessDiscarded rd) s = .next (withHost (settled s.spent) fun h => { h with
        errors := BitVec.ofNat 64 (min (2 ^ 64 - 1) (h.errors.toNat + 1)) })) ∧
      exec .hostErrorCounterRead s = .next (withHost (settled s.spent) fun h => { h with errors := 0 }) ∧
      (∀ die, bit s.host.ready die = true →
        exec (.faultSummaryRead die) s = .next { settled s.spent with flt := { s.flt with summary := Tab.put 0 die 0 s.flt.summary } } ∧
        exec (.correctedErrorRead die) s = .next
          { settled s.spent with flt := { s.flt with corrected := Tab.put 0 die 0 s.flt.corrected } })) ∧
    (∀ p, s.tstate p = 0 → exec (.tdispRequest p .lock) s = .next (s.setTstate p 1)) ∧
    (∀ p, s.tstate p = 1 → exec (.tdispRequest p .start) s = .next (s.setTstate p 2)) ∧
    (∀ p, p < 64 → s.tstate p ≠ 0 → exec (.tdispStop p) s = .next ((s.setTstate p 0).clearPart p)) ∧
    (∀ p, s.tstate p ≠ 3 → exec (.ideIntegrityFailure p) s = .next (s.tdiFault p 1)) ∧
    exec .clockThrottle s = .next (withHost s fun h => { h with lowered := true }) ∧
    exec .clockRestore s = .next (withHost s fun h => { h with lowered := false })

/-- A module reset and a thermal shutdown leave the reset state, but for the model's own fields and the key that the device makes
for slot 0 (R350, R347, R402; log entry 1). -/
def Obligations.ResetEventsComplete : Prop :=
  ∀ s : State, ∃ key,
    exec .moduleReset s = .next { State.reset with
      cur := s.cur, agenda := s.agenda, ctr := s.ctr + 1
      host := { State.reset.host with keys := Tab.put 0 0 key State.reset.host.keys } } ∧
    exec .thermalShutdown s = exec .moduleReset s

/-- Tchizer answers SPDM requests of slots 0 to 9 once its flag is set (R349, R401); a measurement answers as R349 lists. -/
def Obligations.SpdmRequestsAnswered : Prop :=
  ∀ (s : State) (q : SpdmReq), q.slot < 10 → bit s.host.ready 46 = true →
    (let old := Tab.get 0 (spdmKey q) s.host.spdm
     exec (.getVersion q) s = .next (answered s q 1 (s.spdm 1 q)) ∧
     exec (.getCapabilities q) s = .next (answered s q (max 2 old) (s.spdm 2 q)) ∧
     exec (.negotiateAlgorithms q) s = .next (answered s q (max 3 old) (s.spdm 3 q)) ∧
     exec (.getDigests q) s = .next (answered s q (max 3 old) (s.spdm 4 q)) ∧
     exec (.getCertificate q) s = .next (answered s q (max 3 old) (s.spdm 5 q)) ∧
     exec (.challenge q) s = .next (answered s q (max 3 old) (s.spdm 6 q)) ∧
     exec (.getMeasurements q) s = .next (answered s q (max 3 old) (s.measurement q)) ∧
     exec (.keyExchange q) s = .next (answered s q (max 4 old) (s.spdm 8 q)) ∧
     exec (.finish q) s = .next (answered s q (max 5 old) (s.spdm 9 q))) ∧
    (∀ p, q.slot < 8 → q.param = 16 + p → p < 64 → s.measurement q =
      if Config.firmwareGood q.slot then Tab.get 0 (handlerKey q.slot p) s.host.digests else Config.spdmAnswer 0x7F q.slot q.param) ∧
    (1 ≤ q.param → q.param ≤ 2 → s.measurement q =
      if q.slot < 8 ∧ Config.firmwareGood q.slot = false then Config.spdmAnswer 0x7F q.slot q.param
      else Config.firmwareDigest q.slot q.param)

/-- One step runs the activity that comes next: the word of a node, unless another at its cell comes first (R68), or the word at SQPC,
decoded, as exec of it for that node or sequencer; an event as exec of it; a cycle; and, with an empty agenda, what the device chooses. -/
def Obligations.StepRunsDecoded : Prop :=
  ∀ (s : State) (rest : List Activity),
    (∀ n k, s.agenda = .fire n k :: rest → ({ s with agenda := rest } : State).outranked n k = true →
      step s = .next { s with agenda := rest }) ∧
    (∀ n k bs i tail, s.agenda = .fire n k :: rest → ({ s with agenda := rest } : State).outranked n k = false →
      s.nodeBytes n = some bs → decode bs = .ok (i, tail) →
      step s = exec i { s with agenda := rest, cur := ⟨n, k, s.wordAt n, n.ctx.die, 0⟩ }) ∧
    (∀ die task bs t st i tail, s.agenda = .word die task :: rest →
      ({ s with agenda := rest } : State).seqBytes die task = .bytes bs t → t.strand die task = some st → isSeqOpcode bs = true →
      decode bs = .ok (i, tail) →
      step s = exec i { t with cur := ⟨Node.zero, Key.zero, BitVec.ofNat 64 (leNat (bs.take 8)), die, task⟩ }) ∧
    (∀ i, s.agenda = .event i :: rest → step s = exec i { s with agenda := rest }) ∧
    (s.agenda = .cycle :: rest → step s = .next (State.tick { s with agenda := rest })) ∧
    (∀ a, s.agenda = [] → s.choose = .inl a → step s = step { s.spent with agenda := [a] }) ∧
    (∀ f, s.agenda = [] → s.choose = .inr f → step s = f s.spent)

/-- Words that the spec writes out decode to what it says they are (R197, R199, R205). -/
def Obligations.DecodeWords : Prop :=
  decodeTableWord 64 0x010018FFC428FFFF = some (.movImmediate ⟨0, 0, 0x31, 0x1FF⟩ ⟨2, 2, true, 0, 0xFFFF⟩) ∧
  decodeTableWord 64 0x0A3438AD00000000 = some (.plog ⟨13, 0, 0x71, 0xB4⟩ 0) ∧
  decodeTableWord 64 0x2001128CD2980005 = some (.iadd ⟨0, 1, 0x25, 0x33⟩ ⟨9, 9, true, 0, 5⟩) ∧
  decodeTableWord 64 0x35000A7FC6380104 = some (.ibfx ⟨0, 0, 0x14, 0x1FF⟩ ⟨3, 3, true, 0, 0x104⟩) ∧
  decodeTableWord 64 0x430034FFC428BC80 = some (.fma ⟨0, 0, 0x69, 0x1FF⟩ ⟨2, 2, true, 0, 0xBC80⟩) ∧
  decodeTableWord 64 0x8108147FD2080003 = some (.st ⟨2, 0, 0x28, 0x1FF⟩ ⟨9, 2, 0, 0, 3⟩) ∧
  decodeTableWord 64 0x88401C7FD40C0001 = some (.cas ⟨16, 0, 0x38, 0x1FF⟩ ⟨10, 3, 0, 0, 1⟩) ∧
  decodeTableWord 64 0x93040C7FC000000B = some (.cntrSnap ⟨1, 0, 0x18, 0x1FF⟩ ⟨0, 11⟩) ∧
  decodeTableWord 64 0xA000FFFFC1400000 = some (.xfer ⟨0, 0, 0x1FF, 0x1FF⟩ ⟨5, 0⟩) ∧
  decodeTableWord 64 0xB100127FC8600000 = some (.vacc ⟨0, 0, 0x24, 0x1FF⟩ ⟨4, 6, false, 0, 0⟩) ∧
  decodeTableWord 64 0xC200FF8A08184000 = some (.kqry ⟨0, 0, 0x1FF, 0x28⟩ ⟨4, 3, 2, 0, 0, 0⟩) ∧
  decodeTableWord 64 0xD100FFFFC000A000 = some (.spap ⟨0, 0, 0x1FF, 0x1FF⟩ ⟨0, 0, 0, 5, 0⟩) ∧
  decodeTableWord 64 0xF20C8622FFFFFFF6 = some (.qbr ⟨3, 0, 0x43, 8, true, false, 0xFFFFFFF6⟩) ∧
  decodeTableWord 64 0xF600020200001200 = some (.qadd ⟨0, 0, 1, 0, true, false, 0x1200⟩)

/-- Decode and encode agree: the bytes of every well-formed instruction that has a word decode to it, whatever follows them. -/
def Obligations.DecodeOfEncode : Prop :=
  ∀ (i : Instr) (w : BitVec 64) (rest : List Byte), i.wellFormed = true → encode i = some w →
    decode (leBytes 8 w.toNat ++ rest) = .ok (i, rest)

/-- No bit of a word is dropped: what decodes is well formed, and its word is the one decoded. -/
def Obligations.EncodeOfDecode : Prop :=
  ∀ (bs rest : List Byte) (i : Instr), decode bs = .ok (i, rest) →
    i.wellFormed = true ∧ ∃ w, encode i = some w ∧ bs = leBytes 8 w.toNat ++ rest

/-- After reset every VC entry is 0x03F8_0000 (R84), no readiness flag is set and every byte of memory reads as zero (R350); nothing is
loaded, no strand and no ready record exists, no fault is pending, and memory is canonical. That a bank reads as zero is the model's
choice (log entry 2). -/
def Obligations.ResetState : Prop :=
  (∀ die wafer cell vc, State.reset.vcEntry die wafer cell vc = 0x03F80000) ∧ State.reset.host.ready = 0 ∧
  (∀ a, byteAt State.reset.mem.phys a = 0) ∧ (∀ a, byteAt State.reset.mem.bank a = 0) ∧
  (∀ c, State.reset.block c = none) ∧ State.reset.strands = [] ∧ State.reset.saved = [] ∧ State.reset.sch.ready = [] ∧
  State.reset.flt.regs = [] ∧ State.reset.flt.reqs = [] ∧ State.reset.fab.ostore = [] ∧ State.reset.fab.net = [] ∧
  (∀ die c, Tab.get 0 (taskKey die c) State.reset.sch.counters = 0) ∧ State.reset.host.errors = 0 ∧ MemCanonical State.reset

/-- Predicate modes (R20): slot 3 is read in every mode but 00; the node performs in modes 00 and 11, in 01 when the predicate is true
and in 10 when it is false; a predicate is bit 0 of the payload and false when NIL; and a node that does not perform consumes its
operands and emits nothing. Words that take their tokens in an order of their own are not among the words named. -/
def Obligations.PredicateModes : Prop :=
  (∀ t : Tok, pred t = true ↔ t.data.getLsbD 0 = true ∧ t.fl.nil = false) ∧
  (∀ (h : Hd) (t : Tok), performs h (some t) = true ↔
    h.pm = 0 ∨ (h.pm = 1 ∧ pred t = true) ∨ (h.pm = 2 ∧ pred t = false) ∨ h.pm = 3) ∧
  (∀ (h : Hd) (rd : List Nat), taken h rd = if h.pm = 0 then rd else rd ++ [3]) ∧
  (∀ (s : State) (i : Instr) (h : Hd) (rd ever : List Nat) (m : Nat) (ts : List Tok), shape s i = some (h, rd, ever, m) →
    s.mayFire s.cur.node s.cur.key = true → s.operands s.cur.node s.cur.key (taken h rd) = some ts →
    performs h (s.slotTok s.cur.node s.cur.key 3) = false → s.tokenFault s.cur.node s.cur.key h ⟨rd, ever, [], []⟩ = none →
    exec i s = .next (((s.consumeAll s.cur.node s.cur.key (taken h rd)).markIssued s.cur.node).markMsq s.cur.node s.cur.key
      (tk ts 0).wave m))

/-- Frame of the dataflow words: whatever their firing comes to, it changes tokens of its node, its latch, its issue mark, the beats
counted of streams and its fault register, and nothing else; memory and strands stay as they were. -/
def Obligations.DataflowFrame : Prop :=
  ∀ (i : Instr) (s t : State), dataflow i = true → exec i s = .next t → Apart s t ∧ t.mem = s.mem ∧ t.strands = s.strands

/-- Frame of the words whose effect waits: of memory and what waits on it, only the queue of read-modify-writes changes. -/
def Obligations.WaitingFrame : Prop :=
  ∀ (i : Instr) (s t : State), waiting i = true → exec i s = .next t → Apart s t ∧
    t.mem = { s.mem with rmwq := t.mem.rmwq, nextSeq := t.mem.nextSeq }

/-- Frame of the memory words at their firing: every byte of every bank stays; every byte of memory stays unless a plain line of the L2
that was written is evicted, as it may be at any access (R137); and no released effect moves. -/
def Obligations.MemoryWordFrame : Prop :=
  ∀ (i : Instr) (s t : State), touching i = true → exec i s = .next t → Apart s t ∧ t.mem.bank = s.mem.bank ∧ t.mem.pend = s.mem.pend ∧
    t.mem.redirect = s.mem.redirect ∧ ((∀ e ∈ s.mem.plain, e.2.dirty = false) → t.mem.phys = s.mem.phys)

/-- Frame of the sequencer words: tokens, memory, schedulers, stores, tiles, pages, links and host registers stay; of its own strand the
word changes only registers, SQPC, the exit map, its state, the step and its glaze contributions; a constants-plane word only when it is
the destination, and a stream only when it is the engine named, on the strand's wafers. -/
def Obligations.SequencerFrame : Prop :=
  ∀ (i : Instr) (q : SeqW) (s t : State), steering i = some q → exec i s = .next t →
    t.cur = s.cur ∧ t.agenda = s.agenda ∧ t.ctr = s.ctr ∧ t.fab = s.fab ∧ t.sch = s.sch ∧ t.mem = s.mem ∧ t.mat = s.mat ∧
    t.tiles = s.tiles ∧ t.pages = s.pages ∧ t.pod = s.pod ∧ t.saved = s.saved ∧ t.host = s.host ∧
    t.pl = { s.pl with consts := t.pl.consts } ∧ t.eng = { s.eng with streams := t.eng.streams } ∧
    t.flt = { s.flt with reqs := t.flt.reqs } ∧
    (∀ x ∈ s.strands, x.is s.cur.die s.cur.task = false → x ∈ t.strands) ∧
    (∀ y ∈ t.strands, y ∈ s.strands ∨ (y.is s.cur.die s.cur.task = true ∧ ∃ x ∈ s.strands,
      y = { x with sqpc := y.sqpc, q := y.q, i := y.i, k := y.k, sd := y.sd, exitMap := y.exitMap, mode := y.mode, step := y.step, glz := y.glz })) ∧
    (∀ key, Tab.get 0 key t.pl.consts ≠ Tab.get 0 key s.pl.consts → ∃ st, s.strand s.cur.die s.cur.task = some st ∧ ∃ w ∈ st.wafers,
      0x40 ≤ q.da.toNat ∧ key = waferKey st.die w * 64 + (q.da.toNat - 0x40)) ∧
    (∀ key, Tab.get {} key t.eng.streams ≠ Tab.get {} key s.eng.streams → ∃ st, s.strand s.cur.die s.cur.task = some st ∧
      ∃ w ∈ st.wafers, key = streamKey st.die w (bits q.da 0 4))

/-- A released store performs at its home: the bytes it stores, the last one to each address, and no other byte of its bank or, in an
ordinary page of this module, of memory (R153, R160). A store to another module's page stores nothing here (log entry 20). -/
def Obligations.StoresPerformExactly : Prop :=
  ∀ (s : State) (n : Nat) (p : Pend) (a : Acc) (bs : List (Nat × Byte)) (poi : Bool), MemCanonical s →
    s.mem.pend[n]? = some p → p.eff = .store a bs poi false → p.stuck = false → s.parked p = false → s.pendFenced p = false →
    p.behind (s.mem.pend.take n) = false → s.rmwFirst p = false →
    s.memReady a = true → ∃ t, exec (.storePerform n) s = .next t ∧
      (a.bank = true → t.mem.phys = s.mem.phys ∧ ∀ x, byteAt t.mem.bank x =
        (((bs.filter fun b => b.1 = x).getLast?).map (·.2)).getD (byteAt s.mem.bank x)) ∧
      (a.bank = false → a.hmod ≠ s.module → t.mem.phys = s.mem.phys ∧ t.mem.bank = s.mem.bank) ∧
      (∀ bytes, a.bank = false → a.hmod = s.module → a.cv = false → poi = false → bs = at_ a bytes → bytes ≠ [] →
        a.base ≤ a.addr → a.addr + bytes.length ≤ a.base + a.size → s.mem.redirect = [] → s.mem.poi = [] → s.mem.bad = [] →
        t.mem.bank = s.mem.bank ∧ ∀ x, byteAt t.mem.phys x =
          if a.addr ≤ x ∧ x < a.addr + bytes.length then bytes.getD (x - a.addr) 0 else byteAt s.mem.phys x)

/-- ATOM and CAS perform in a bank once settled, when nothing that issued before them at their port and meets their bytes waits (R157): the bytes
at the address take the new value of R281 and R282, with the operands as their entries read them at the firing (R87), every other byte stays, and
the old value goes to the node. -/
def Obligations.AtomsPerform : Prop :=
  ∀ (s : State) (n : Nat) (r : Rmw) (st : Strand) (a : Acc) (size : Nat), MemCanonical s → Settled s n r st →
    (opcode r.word = 0x87 ∨ opcode r.word = 0x88) → size = (if bit r.word 54 then 8 else 4) →
    ((actingFor s r st).access st r.node (fmtM r.word).space.toNat (effAddr (fmtM r.word) size (tk (opsOf r) 0)) size true
      (opcode r.word)).1 = .ok a → a.bank = true →
    (actingFor s r st).pendAhead r.node a size (s.rmwTop r) true = false → (actingFor s r st).rmwAhead r a.va size = false →
    let old := memRead s.mem.bank a.addr size
    let lane := fun i => r.lane (opsOf r) i (8 * size)
    let new := if opcode r.word = 0x87
      then atomValue (bits r.word 50 4) (8 * size) (isSigned r.fmt) (leNat old) (lane 1)
      else if leNat old = lane 1 then lane 2 else leNat old
    ∃ t, exec (.settledRmwPerform n) s = .next t ∧ t.mem.phys = s.mem.phys ∧
      (∀ x, byteAt t.mem.bank x =
        if a.addr ≤ x ∧ x < a.addr + size then BitVec.ofNat 8 (new / 256 ^ (x - a.addr)) else byteAt s.mem.bank x) ∧
      t.mem.resp = s.mem.resp ++ [⟨r.node, r.key, [outBoth (loadedIn r.word r.fmt (opsOf r) ⟨old, false⟩ 0)], false, s.mem.nextSeq⟩]

/-- Every step keeps memory and the banks in canonical form, which is the model's own: equal memories are equal data. -/
def Obligations.StepsKeepMemoryCanonical : Prop :=
  ∀ s t : State, MemCanonical s → step s = .next t → MemCanonical t
end

