-- ==== Sys2Proof/Laws/Fire.lean ====
section
/-! SUPPORT. What one firing can do (R19, R20, R353): one lemma with every case, and one for the firing that performs. -/

namespace Sys2Proof.Machine

/-- Every outcome of a firing: nothing happens; a fault is taken and no operand is consumed; the node is cancelled; a NIL
operand makes it emit NIL; or its body runs. -/
theorem fire_cases {s : State} {h : Hd} {sl : Slots} {msq : Nat} {pre : State → List Tok → Option Exn}
    {body : State → List Tok → Res} {o : Host.Outcome State Fault Refusal} (hx : s.fire h sl msq pre body = o) :
    o = .next s ∨
    (∃ w took x, o = .next (s.takeFault s.cur.node s.cur.key w took x)) ∨
    (∃ w, o = .next (((s.consumeAll s.cur.node s.cur.key (sl.rd ++ (if h.pm = 0 then [] else [3]))).markIssued
        s.cur.node).markMsq s.cur.node s.cur.key w msq)) ∨
    (∃ w t, o = .next ((((s.consumeAll s.cur.node s.cur.key (sl.rd ++ (if h.pm = 0 then [] else [3]))).markIssued
        s.cur.node).markMsq s.cur.node s.cur.key w msq).emit s.cur.node s.cur.key h [outBoth t])) ∨
    (∃ ts w took x s', body s ts = .stops s' x ∧ o = .next (s'.takeFault s.cur.node s.cur.key w took x)) ∨
    (∃ ts s' outs, body s ts = .fires s' outs ∧
      o = .next (((s'.consumeAll s.cur.node s.cur.key (sl.rd ++ (if h.pm = 0 then [] else [3]))).markIssued
        s.cur.node).emit s.cur.node s.cur.key h outs)) := by
  subst hx
  unfold State.fire
  dsimp only
  split
  · exact .inl rfl
  · split
    · split
      · exact .inl rfl
      · exact .inr (.inl ⟨_, _, _, rfl⟩)
    · split
      · split
        · exact .inr (.inl ⟨_, _, _, rfl⟩)
        · exact .inr (.inr (.inl ⟨_, rfl⟩))
      · split
        · exact .inr (.inl ⟨_, _, _, rfl⟩)
        · split
          · exact .inr (.inr (.inr (.inl ⟨_, _, rfl⟩)))
          · split
            · exact .inl rfl
            · exact .inr (.inl ⟨_, _, _, rfl⟩)
            · rename_i hb
              exact .inr (.inr (.inr (.inr (.inl ⟨_, _, _, _, _, hb, rfl⟩))))
            · rename_i hb
              exact .inr (.inr (.inr (.inr (.inr ⟨_, _, _, hb, rfl⟩))))

/-- The operands there, the predicate true, no check failing and no NIL in a slot that cancels: the body's effect happens. -/
theorem fire_performs {s : State} {h : Hd} {sl : Slots} {msq : Nat} {pre : State → List Tok → Option Exn}
    {body : State → List Tok → Res} {ts : List Tok} {s' : State} {outs : List Out}
    (may : s.mayFire s.cur.node s.cur.key = true)
    (ops : (s.operands s.cur.node s.cur.key (sl.rd ++ (if h.pm = 0 then [] else [3]))).map (List.take sl.rd.length) = some ts)
    (prd : performs h (s.slotTok s.cur.node s.cur.key 3) = true)
    (chk : pre s ts = none) (tok : s.tokenFault s.cur.node s.cur.key h sl = none)
    (nil : ∀ q ∈ sl.nils, ((s.slotTok s.cur.node s.cur.key q).map (·.fl.nil)).getD false = false)
    (run : body s ts = .fires s' outs) :
    s.fire h sl msq pre body =
      .next (((s'.consumeAll s.cur.node s.cur.key (sl.rd ++ (if h.pm = 0 then [] else [3]))).markIssued
        s.cur.node).emit s.cur.node s.cur.key h outs) := by
  obtain ⟨all, read, rfl⟩ := Option.map_eq_some_iff.1 ops
  unfold State.fire
  dsimp only
  rw [if_neg (by simp [may]), read]
  dsimp only
  rw [if_neg (by simp [prd]), chk, tok]
  dsimp only [Option.or]
  rw [if_neg, run]
  rw [List.any_eq_true]
  rintro ⟨q, hq, hn⟩
  have hq := nil q hq
  split at hn
  · rename_i h; rw [h] at hq; exact Bool.false_ne_true (hq.symm.trans hn)
  · exact Bool.false_ne_true hn

end Sys2Proof.Machine
end

