-- ==== Sys2Proof/Laws/Memory.lean ====
section
/-! SUPPORT. Tables and memory: a read after a write, and that every operation over memory keeps its canonical form. -/

namespace Sys2Proof.Machine

variable {α : Type}

/-! The canonical form. -/

theorem Tab.wfFrom_iff [DecidableEq α] (d : α) (t : Tab α) (lo : Option Nat) :
    Tab.wfFrom d lo t = true ↔ (∀ l ∈ lo, ∀ e ∈ t, l < e.1) ∧ t.Pairwise (fun a b => a.1 < b.1) ∧ ∀ e ∈ t, e.2 ≠ d := by
  induction t generalizing lo with
  | nil => simp [Tab.wfFrom]
  | cons e t ih =>
    obtain ⟨k, v⟩ := e
    simp only [Tab.wfFrom, Bool.and_eq_true, ih, decide_eq_true_eq, List.pairwise_cons, List.mem_cons, forall_eq_or_imp,
      Option.mem_def, Option.some.injEq, forall_eq']
    cases lo with
    | none => simp; tauto
    | some l =>
      simp only [decide_eq_true_eq, Option.some.injEq, forall_eq']
      constructor
      · rintro ⟨⟨h, hv⟩, hk, hp, hd⟩
        exact ⟨⟨h, fun e he => h.trans (hk e he)⟩, ⟨hk, hp⟩, hv, hd⟩
      · rintro ⟨⟨h, -⟩, ⟨hk, hp⟩, hv, hd⟩
        exact ⟨⟨h, hv⟩, hk, hp, hd⟩

/-- A canonical table: keys strictly rising, no entry that an unlisted key would read as. -/
theorem Tab.wf_iff [DecidableEq α] (d : α) (t : Tab α) :
    Tab.wf d t = true ↔ t.Pairwise (fun a b => a.1 < b.1) ∧ ∀ e ∈ t, e.2 ≠ d := by
  simp [Tab.wf, Tab.wfFrom_iff]

/-! One entry. -/

theorem Tab.mem_ins {k : Nat} {v : α} {t : Tab α} {e : Nat × α} (h : e ∈ Tab.ins k v t) : e = (k, v) ∨ e ∈ t := by
  induction t with
  | nil => simpa [Tab.ins] using h
  | cons x t ih =>
    simp only [Tab.ins] at h
    split at h
    · simpa using h
    · split at h
      · rcases List.mem_cons.mp h with h | h
        · exact .inl h
        · exact .inr (List.mem_cons_of_mem _ h)
      · rcases List.mem_cons.mp h with h | h
        · exact .inr (h ▸ List.mem_cons_self)
        · exact (ih h).imp_right (List.mem_cons_of_mem _)

theorem Tab.del_sublist (k : Nat) (t : Tab α) : (Tab.del k t).Sublist t := by
  induction t with
  | nil => exact .slnil
  | cons x t ih =>
    simp only [Tab.del]
    split
    · exact List.sublist_cons_self _ _
    · exact ih.cons_cons _

theorem Tab.ins_sorted {k : Nat} {v : α} {t : Tab α} (h : t.Pairwise fun a b => a.1 < b.1) :
    (Tab.ins k v t).Pairwise fun a b => a.1 < b.1 := by
  induction t with
  | nil => simp [Tab.ins]
  | cons x t ih =>
    obtain ⟨j, w⟩ := x
    have ⟨hx, ht⟩ := List.pairwise_cons.mp h
    simp only [Tab.ins]
    split
    · refine List.pairwise_cons.mpr ⟨fun e he => ?_, h⟩
      rcases List.mem_cons.mp he with rfl | he
      · assumption
      · exact lt_trans ‹_› (hx e he)
    · split
      · exact List.pairwise_cons.mpr ⟨fun e he => ‹j = k› ▸ hx e he, ht⟩
      · refine List.pairwise_cons.mpr ⟨fun e he => ?_, ih ht⟩
        rcases Tab.mem_ins he with rfl | he
        · show j < k; omega
        · exact hx e he

/-- Writing an entry keeps the canonical form. -/
theorem Tab.put_wf [DecidableEq α] {d v : α} {k : Nat} {t : Tab α} (h : Tab.wf d t = true) : Tab.wf d (Tab.put d k v t) = true := by
  rw [Tab.wf_iff] at h ⊢
  unfold Tab.put
  split
  · exact ⟨h.1.sublist (Tab.del_sublist k t), fun e he => h.2 e ((Tab.del_sublist k t).subset he)⟩
  · refine ⟨Tab.ins_sorted h.1, fun e he => ?_⟩
    rcases Tab.mem_ins he with rfl | he
    · assumption
    · exact h.2 e he

theorem Tab.get_ins (d v : α) (k j : Nat) (t : Tab α) : Tab.get d j (Tab.ins k v t) = if k = j then v else Tab.get d j t := by
  induction t with
  | nil => simp [Tab.ins, Tab.get]
  | cons x t ih =>
    obtain ⟨i, w⟩ := x
    simp only [Tab.ins]
    split
    · simp [Tab.get]
    · split
      · subst i; simp only [Tab.get]; split <;> simp_all
      · simp only [Tab.get, ih]
        split
        · simp_all; omega
        · simp_all

theorem Tab.get_absent {d : α} {k : Nat} {t : Tab α} (h : ∀ e ∈ t, e.1 ≠ k) : Tab.get d k t = d := by
  induction t with
  | nil => rfl
  | cons x t ih =>
    simp only [Tab.get, if_neg (h x List.mem_cons_self)]
    exact ih fun e he => h e (List.mem_cons_of_mem _ he)

theorem Tab.get_del {d : α} {k j : Nat} {t : Tab α} (h : t.Pairwise fun a b => a.1 < b.1) :
    Tab.get d j (Tab.del k t) = if k = j then d else Tab.get d j t := by
  induction t with
  | nil => simp [Tab.del, Tab.get]
  | cons x t ih =>
    obtain ⟨i, w⟩ := x
    have ⟨hx, ht⟩ := List.pairwise_cons.mp h
    simp only [Tab.del]
    split
    · subst i
      split
      · subst j
        exact Tab.get_absent fun e he => (hx e he).ne'
      · simp [Tab.get, *]
    · simp only [Tab.get, ih ht]
      split
      · simp_all; omega
      · simp_all

/-- A read after a write: the value written at its own key, the old value at any other. -/
theorem Tab.get_put [DecidableEq α] {d v : α} {k j : Nat} {t : Tab α} (h : Tab.wf d t = true) :
    Tab.get d j (Tab.put d k v t) = if k = j then v else Tab.get d j t := by
  unfold Tab.put
  split
  · subst v; exact Tab.get_del ((Tab.wf_iff d t).mp h).1
  · exact Tab.get_ins d v k j t

/-! Runs of bytes. -/

theorem memWrite_wf {m : List Host.Cell} {a : Nat} {bs : List Byte} (h : Memory.wf m = true) : Memory.wf (memWrite m a bs) = true := by
  induction bs generalizing m a with
  | nil => exact h
  | cons b bs ih => exact ih (Tab.put_wf h)

theorem memPut_wf {m : List Host.Cell} {l : List (Nat × Byte)} (h : Memory.wf m = true) : Memory.wf (memPut m l) = true := by
  induction l generalizing m with
  | nil => exact h
  | cons x l ih => exact ih (Tab.put_wf h)

/-- A byte after a write of a run: the byte written inside the run, the old byte outside. -/
theorem get_memWrite {m : List Host.Cell} {a j : Nat} {bs : List Byte} (h : Memory.wf m = true) :
    Tab.get memDefault j (memWrite m a bs) = if a ≤ j ∧ j < a + bs.length then bs.getD (j - a) 0 else Tab.get memDefault j m := by
  induction bs generalizing m a with
  | nil => simp [memWrite]
  | cons b bs ih =>
    rw [memWrite, ih (Tab.put_wf h), Tab.get_put h]
    simp only [List.length_cons]
    by_cases hj : a = j
    · subst hj; simp
    · by_cases hin : a + 1 ≤ j ∧ j < a + 1 + bs.length
      · rw [if_pos hin, if_pos (by omega), show j - a = (j - (a + 1)) + 1 by omega]; simp
      · rw [if_neg hin, if_neg hj, if_neg (by omega)]

/-- A byte after writes at single addresses: the last one written there, else the old byte. -/
theorem get_memPut {m : List Host.Cell} {l : List (Nat × Byte)} {j : Nat} (h : Memory.wf m = true) :
    Tab.get memDefault j (memPut m l) = (((l.filter fun b => b.1 = j).getLast?).map (·.2)).getD (Tab.get memDefault j m) := by
  induction l generalizing m with
  | nil => simp [memPut]
  | cons x l ih =>
    obtain ⟨a, b⟩ := x
    rw [memPut, ih (Tab.put_wf h), Tab.get_put h]
    by_cases hj : a = j
    · subst hj
      rw [List.filter_cons_of_pos (by simp), List.getLast?_cons]
      cases (l.filter fun b => decide (b.1 = a)).getLast? <;> simp
    · simp [hj]

/-- A run reads back as it was written. -/
theorem memRead_memWrite {m : List Host.Cell} {a : Nat} {bs : List Byte} (h : Memory.wf m = true) :
    memRead (memWrite m a bs) a bs.length = bs := by
  have key : ∀ n i, n + i ≤ bs.length → memRead (memWrite m a bs) (a + i) n = (bs.drop i).take n := by
    intro n
    induction n with
    | zero => intro i _; simp [memRead]
    | succ n ih =>
      intro i hi
      rw [memRead, get_memWrite h, if_pos (by omega), show a + i + 1 = a + (i + 1) by omega, ih (i + 1) (by omega),
        List.drop_eq_getElem_cons (by omega : i < bs.length), List.take_succ_cons]
      simp [List.getElem?_eq_getElem (by omega : i < bs.length)]
  simpa using key bs.length 0 (by omega)

/-! Moving, filtering and cutting. -/

theorem wf_filter {m : List Host.Cell} (p : Host.Cell → Bool) (h : Memory.wf m = true) : Memory.wf (m.filter p) = true := by
  rw [Memory.wf, Tab.wf_iff] at h ⊢
  exact ⟨h.1.filter p, fun e he => h.2 e (List.mem_of_mem_filter he)⟩

theorem moveCells_wf {m : List Host.Cell} {old new size : Nat} (h : Memory.wf m = true) : Memory.wf (moveCells m old new size) = true := by
  unfold moveCells
  generalize m.filter (fun c => old ≤ c.1 && c.1 < old + size) = l
  have h := wf_filter (fun c => !(decide (new ≤ c.1) && decide (c.1 < new + size))) h
  generalize m.filter _ = t at h ⊢
  induction l generalizing t with
  | nil => exact h
  | cons x l ih => exact ih _ (Tab.put_wf h)

/-- The bytes of one wafer's banks, under keys that start at 0. -/
theorem slice_wf {m : List Host.Cell} {n base : Nat} (hn : 0 < n) (h : Memory.wf m = true) :
    Memory.wf (slice n base m) = true ∧ ∀ c ∈ slice n base m, c.1 < n := by
  rw [Memory.wf, Tab.wf_iff] at h ⊢
  refine ⟨⟨?_, ?_⟩, ?_⟩
  · refine List.pairwise_map.mpr (List.Pairwise.imp_of_mem ?_ (h.1.filter _))
    intro x y hx hy hxy
    have hx : x.1 / n = base := by simpa using List.of_mem_filter hx
    have hy : y.1 / n = base := by simpa using List.of_mem_filter hy
    have hlt : x.1 < y.1 := hxy
    have ex := Nat.div_add_mod x.1 n
    have ey := Nat.div_add_mod y.1 n
    rw [hx] at ex
    rw [hy] at ey
    show x.1 % n < y.1 % n
    omega
  · intro e he
    obtain ⟨x, hx, rfl⟩ := List.mem_map.mp he
    exact h.2 x (List.mem_of_mem_filter hx)
  · intro e he
    obtain ⟨x, -, rfl⟩ := List.mem_map.mp he
    exact Nat.mod_lt _ hn

/-- A wafer's banks replaced by an image of one wafer. -/
theorem splice_wf {m x : List Host.Cell} {n base : Nat} (hn : 0 < n) (h : Memory.wf m = true) (hx : Memory.wf x = true)
    (hlt : ∀ c ∈ x, c.1 < n) : Memory.wf (splice n base x m) = true := by
  rw [Memory.wf, Tab.wf_iff] at h hx ⊢
  have low : ∀ e ∈ m.filter (fun e => e.1 / n < base), e.1 < base * n := fun e he =>
    (Nat.div_lt_iff_lt_mul hn).mp (by simpa using List.of_mem_filter he)
  have mid : ∀ e ∈ x.map (fun e => (base * n + e.1, e.2)), base * n ≤ e.1 ∧ e.1 < (base + 1) * n := by
    intro e he
    obtain ⟨c, hc, rfl⟩ := List.mem_map.mp he
    have := hlt c hc
    simp only [Nat.add_mul, Nat.one_mul]
    omega
  have high : ∀ e ∈ m.filter (fun e => base < e.1 / n), (base + 1) * n ≤ e.1 := fun e he =>
    (Nat.le_div_iff_mul_le hn).mp (by simpa using List.of_mem_filter he)
  refine ⟨?_, ?_⟩
  · unfold splice
    refine List.pairwise_append.mpr ⟨List.pairwise_append.mpr ⟨h.1.filter _, ?_, ?_⟩, h.1.filter _, ?_⟩
    · exact List.pairwise_map.mpr (hx.1.imp fun hab => Nat.add_lt_add_left hab _)
    · intro a ha b hb
      exact lt_of_lt_of_le (low a ha) (mid b hb).1
    · intro a ha b hb
      have hb := high b hb
      rcases List.mem_append.mp ha with ha | ha
      · have := low a ha
        have : base * n ≤ (base + 1) * n := Nat.mul_le_mul_right n (Nat.le_succ base)
        omega
      · exact lt_of_lt_of_le (mid a ha).2 hb
  · intro e he
    rcases List.mem_append.mp he with he | he
    · rcases List.mem_append.mp he with he | he
      · exact h.2 e (List.mem_of_mem_filter he)
      · obtain ⟨c, hc, rfl⟩ := List.mem_map.mp he
        exact hx.2 c hc
    · exact h.2 e (List.mem_of_mem_filter he)

/-- Entries that differ from the default, laid over a table in canonical form. -/
theorem layOver_wf {new m : List Host.Cell} (hn : ∀ e ∈ new, e.2 ≠ memDefault) (h : Memory.wf m = true) :
    Memory.wf (layOver new m) = true := by
  induction new generalizing m with
  | nil => exact h
  | cons e l ih =>
    refine ih (fun x hx => hn x (List.mem_cons_of_mem _ hx)) ?_
    have p := Tab.put_wf (d := memDefault) (k := e.1) (v := e.2) h
    rwa [Tab.put, if_neg (hn e List.mem_cons_self)] at p

/-- The reset memory is canonical, and so are the banks. -/
theorem reset_mem_wf : Memory.wf State.reset.mem.phys = true ∧ Memory.wf State.reset.mem.bank = true := ⟨rfl, rfl⟩

end Sys2Proof.Machine
end

