-- ==== Sys2Proof/Laws/PerInstr.lean ====
section
/-! SUPPORT. Encoding and decoding agree, constructor by constructor (R197, R199, R205): the word of a well-formed instruction parses
to it. The device's own steps have no word. -/

namespace Sys2Proof

theorem firstError_none {l : List Check} (h : firstError l = none) : ∀ c ∈ l, c.1 = true := by
  have grow : ∀ (l : List Check) (e : DecodeError), l.foldl (fun best c =>
      if c.1 then best else
        match best with
        | none => some c.2
        | some e => if c.2.code.toNat < e.code.toNat then some c.2 else some e) (some e) ≠ none := by
    intro l
    induction l with
    | nil => intro e h; cases h
    | cons c l ih =>
      intro e
      simp only [List.foldl_cons]
      split
      · exact ih e
      · split <;> exact ih _
  induction l with
  | nil => intro c hc; cases hc
  | cons c l ih =>
    unfold firstError at h ih
    simp only [List.foldl_cons] at h
    by_cases hc : c.1 = true
    · rw [if_pos hc] at h
      intro d hd
      rcases List.mem_cons.1 hd with rfl | hd
      · exact hc
      · exact ih h d hd
    · rw [if_neg hc] at h
      exact absurd h (grow l _)

theorem ofWord_blockWord (op : BitVec 8) (h : Hd) (p : BitVec 30) : Hd.ofWord (blockWord op h p) = h := by
  simp (disch := omega) only [Hd.ofWord, blockWord, BitVec.extractLsb'_append_eq_of_le, BitVec.extractLsb'_append_eq_of_add_le,
    Nat.reduceSub, BitVec.extractLsb'_eq_self]

theorem opcode_blockWord (op : BitVec 8) (h : Hd) (p : BitVec 30) : (blockWord op h p).extractLsb' 56 8 = op := by
  simp (disch := omega) only [blockWord, BitVec.extractLsb'_append_eq_of_le, Nat.reduceSub, BitVec.extractLsb'_eq_self]

theorem payload_blockWord (op : BitVec 8) (h : Hd) (p : BitVec 30) : (blockWord op h p).extractLsb' 0 30 = p := by
  simp (disch := omega) only [blockWord, BitVec.extractLsb'_append_eq_of_add_le, BitVec.extractLsb'_eq_self]

theorem ofWord_seqWord (op : BitVec 8) (q : SeqW) : SeqW.ofWord (seqWord op q) = q := by
  simp (disch := omega) only [SeqW.ofWord, seqWord, BitVec.extractLsb'_append_eq_of_le, BitVec.extractLsb'_append_eq_of_add_le,
    Nat.reduceSub, BitVec.extractLsb'_eq_self, BitVec.getLsbD_append]
  simp

theorem opcode_seqWord (op : BitVec 8) (q : SeqW) : (seqWord op q).extractLsb' 56 8 = op := by
  simp (disch := omega) only [seqWord, BitVec.extractLsb'_append_eq_of_le, Nat.reduceSub, BitVec.extractLsb'_eq_self]

theorem fmtA_bits (a : FmtA) : FmtA.ofBits a.toBits = a := by
  simp (disch := omega) only [FmtA.ofBits, FmtA.toBits, BitVec.extractLsb'_append_eq_of_le, BitVec.extractLsb'_append_eq_of_add_le,
    Nat.reduceSub, BitVec.extractLsb'_eq_self, BitVec.getLsbD_append]
  simp

theorem ims_bits (a : FmtA) : a.toBits.getLsbD 19 = a.ims := by
  simp only [FmtA.toBits, BitVec.getLsbD_append]
  simp

theorem fmtM_bits (m : FmtM) : FmtM.ofBits m.toBits = m := by
  simp (disch := omega) only [FmtM.ofBits, FmtM.toBits, BitVec.extractLsb'_append_eq_of_le, BitVec.extractLsb'_append_eq_of_add_le,
    Nat.reduceSub, BitVec.extractLsb'_eq_self]

theorem fmtC_bits (c : FmtC) : FmtC.ofBits c.toBits = c := by
  simp (disch := omega) only [FmtC.ofBits, FmtC.toBits, BitVec.extractLsb'_append_eq_of_le, BitVec.extractLsb'_append_eq_of_add_le,
    Nat.reduceSub, BitVec.extractLsb'_eq_self]

theorem fmtK_bits (k : FmtK) : FmtK.ofBits k.toBits = k := by
  simp (disch := omega) only [FmtK.ofBits, FmtK.toBits, BitVec.extractLsb'_append_eq_of_le, BitVec.extractLsb'_append_eq_of_add_le,
    Nat.reduceSub, BitVec.extractLsb'_eq_self]

theorem fmtX_bits (x : FmtX) : FmtX.ofBits x.toBits = x := by
  simp (disch := omega) only [FmtX.ofBits, FmtX.toBits, BitVec.extractLsb'_append_eq_of_le, BitVec.extractLsb'_append_eq_of_add_le,
    Nat.reduceSub, BitVec.extractLsb'_eq_self]

/-- What `parse` makes of a block word, from its opcode. -/
theorem parse_blockWord (op : BitVec 8) (h : Hd) (p : BitVec 30) : parse (blockWord op h p) =
    if op.toNat < 0x20 then parseFlow op.toNat h p
    else if op.toNat < 0x40 then parseInt op.toNat h p
    else if op.toNat < 0x60 then parseFloat op.toNat h p
    else if op.toNat < 0x80 then parseVec op.toNat h p
    else if op.toNat < 0xA0 then parseMem op.toNat h p
    else if op.toNat < 0xC0 then parseEngine op.toNat h p
    else if op.toNat < 0xE0 then parseMatch op.toNat h p
    else if op.toNat < 0xF0 then parseSys op.toNat h p
    else parseSeq op.toNat (SeqW.ofWord (blockWord op h p)) := by
  unfold parse
  simp only [opcode_blockWord, payload_blockWord, ofWord_blockWord]

theorem parse_seqWord {op : BitVec 8} (q : SeqW) (hi : 0xF0 ≤ op.toNat) : parse (seqWord op q) = parseSeq op.toNat q := by
  unfold parse
  simp only [opcode_seqWord, ofWord_seqWord]
  repeat rw [if_neg (by omega)]

namespace Laws

/-- The family: a well-formed instruction's word parses to it. -/
def CodecOk.Statement (i : Instr) : Prop := ∀ w, i.error = none → encode i = some w → parse w = some i

theorem CodecOk.movCopy (h : Hd) (a : FmtA) : CodecOk.Statement (.movCopy h a) := by
  rintro _ he ⟨⟩
  have hc := firstError_none he (!a.ims, .unusedField) (by simp [Instr.checks, FmtA.noIms])
  rw [parse_blockWord]
  change (if !a.toBits.getLsbD 19 then some (.movCopy h (FmtA.ofBits a.toBits)) else some (.movImmediate h (FmtA.ofBits a.toBits)) : Option Instr) = _
  rw [fmtA_bits, ims_bits]
  simp_all

theorem CodecOk.movImmediate (h : Hd) (a : FmtA) : CodecOk.Statement (.movImmediate h a) := by
  rintro _ he ⟨⟩
  have hc := firstError_none he (a.ims, .reservedCode) (by simp [Instr.checks, FmtA.needIms])
  rw [parse_blockWord]
  change (if !a.toBits.getLsbD 19 then some (.movCopy h (FmtA.ofBits a.toBits)) else some (.movImmediate h (FmtA.ofBits a.toBits)) : Option Instr) = _
  rw [fmtA_bits, ims_bits]
  simp_all

theorem CodecOk.movi (h : Hd) (i : BitVec 30) : CodecOk.Statement (.movi h i) := by
  rintro _ _ ⟨⟩
  rw [parse_blockWord]
  rfl
theorem CodecOk.movhi (h : Hd) (i : BitVec 30) : CodecOk.Statement (.movhi h i) := by
  rintro _ _ ⟨⟩
  rw [parse_blockWord]
  rfl
theorem CodecOk.fan (h : Hd) (i : BitVec 30) : CodecOk.Statement (.fan h i) := by
  rintro _ _ ⟨⟩
  rw [parse_blockWord]
  rfl
theorem CodecOk.drop (h : Hd) (i : BitVec 30) : CodecOk.Statement (.drop h i) := by
  rintro _ _ ⟨⟩
  rw [parse_blockWord]
  rfl
theorem CodecOk.steer (h : Hd) (i : BitVec 30) : CodecOk.Statement (.steer h i) := by
  rintro _ _ ⟨⟩
  rw [parse_blockWord]
  rfl
theorem CodecOk.merge (h : Hd) (i : BitVec 30) : CodecOk.Statement (.merge h i) := by
  rintro _ _ ⟨⟩
  rw [parse_blockWord]
  rfl
theorem CodecOk.mrgo (h : Hd) (i : BitVec 30) : CodecOk.Statement (.mrgo h i) := by
  rintro _ _ ⟨⟩
  rw [parse_blockWord]
  rfl
theorem CodecOk.sel (h : Hd) (i : BitVec 30) : CodecOk.Statement (.sel h i) := by
  rintro _ _ ⟨⟩
  rw [parse_blockWord]
  rfl
theorem CodecOk.plog (h : Hd) (i : BitVec 30) : CodecOk.Statement (.plog h i) := by
  rintro _ _ ⟨⟩
  rw [parse_blockWord]
  rfl
theorem CodecOk.taga (h : Hd) (i : BitVec 30) : CodecOk.Statement (.taga h i) := by
  rintro _ _ ⟨⟩
  rw [parse_blockWord]
  rfl
theorem CodecOk.tagf (h : Hd) (i : BitVec 30) : CodecOk.Statement (.tagf h i) := by
  rintro _ _ ⟨⟩
  rw [parse_blockWord]
  rfl
theorem CodecOk.tagxDown (h : Hd) (i : BitVec 30) : CodecOk.Statement (.tagxDown h i) := by
  rintro _ he ⟨⟩
  have hc := firstError_none he (!i.getLsbD 0, .reservedCode) (by simp [Instr.checks])
  rw [parse_blockWord]
  change (if !i.getLsbD 0 then some (.tagxDown h i) else some (.tagxUp h i) : Option Instr) = _
  simp_all

theorem CodecOk.tagxUp (h : Hd) (i : BitVec 30) : CodecOk.Statement (.tagxUp h i) := by
  rintro _ he ⟨⟩
  have hc := firstError_none he (i.getLsbD 0, .reservedCode) (by simp [Instr.checks])
  rw [parse_blockWord]
  change (if !i.getLsbD 0 then some (.tagxDown h i) else some (.tagxUp h i) : Option Instr) = _
  simp_all

theorem CodecOk.wadv (h : Hd) (i : BitVec 30) : CodecOk.Statement (.wadv h i) := by
  rintro _ _ ⟨⟩
  rw [parse_blockWord]
  rfl
theorem CodecOk.gate (h : Hd) (i : BitVec 30) : CodecOk.Statement (.gate h i) := by
  rintro _ _ ⟨⟩
  rw [parse_blockWord]
  rfl
theorem CodecOk.exit (h : Hd) (c : FmtC) : CodecOk.Statement (.exit h c) := by
  rintro _ _ ⟨⟩
  rw [parse_blockWord]
  exact congrArg (fun y => some (Instr.exit h y)) (fmtC_bits c)
theorem CodecOk.brb (h : Hd) (c : FmtC) : CodecOk.Statement (.brb h c) := by
  rintro _ _ ⟨⟩
  rw [parse_blockWord]
  exact congrArg (fun y => some (Instr.brb h y)) (fmtC_bits c)
theorem CodecOk.rdk (h : Hd) (i : BitVec 30) : CodecOk.Statement (.rdk h i) := by
  rintro _ _ ⟨⟩
  rw [parse_blockWord]
  rfl
theorem CodecOk.wrk (h : Hd) (i : BitVec 30) : CodecOk.Statement (.wrk h i) := by
  rintro _ _ ⟨⟩
  rw [parse_blockWord]
  rfl
theorem CodecOk.cnst (h : Hd) (i : BitVec 30) : CodecOk.Statement (.cnst h i) := by
  rintro _ _ ⟨⟩
  rw [parse_blockWord]
  rfl
theorem CodecOk.ord (h : Hd) (i : BitVec 30) : CodecOk.Statement (.ord h i) := by
  rintro _ _ ⟨⟩
  rw [parse_blockWord]
  rfl
theorem CodecOk.idx (h : Hd) (a : FmtA) : CodecOk.Statement (.idx h a) := by
  rintro _ _ ⟨⟩
  rw [parse_blockWord]
  exact congrArg (fun y => some (Instr.idx h y)) (fmtA_bits a)
theorem CodecOk.strm (h : Hd) (x : FmtX) : CodecOk.Statement (.strm h x) := by
  rintro _ _ ⟨⟩
  rw [parse_blockWord]
  exact congrArg (fun y => some (Instr.strm h y)) (fmtX_bits x)
theorem CodecOk.eosd (h : Hd) (x : FmtX) : CodecOk.Statement (.eosd h x) := by
  rintro _ _ ⟨⟩
  rw [parse_blockWord]
  exact congrArg (fun y => some (Instr.eosd h y)) (fmtX_bits x)
theorem CodecOk.iadd (h : Hd) (a : FmtA) : CodecOk.Statement (.iadd h a) := by
  rintro _ _ ⟨⟩
  rw [parse_blockWord]
  exact congrArg (fun y => some (Instr.iadd h y)) (fmtA_bits a)
theorem CodecOk.isub (h : Hd) (a : FmtA) : CodecOk.Statement (.isub h a) := by
  rintro _ _ ⟨⟩
  rw [parse_blockWord]
  exact congrArg (fun y => some (Instr.isub h y)) (fmtA_bits a)
theorem CodecOk.imul (h : Hd) (a : FmtA) : CodecOk.Statement (.imul h a) := by
  rintro _ _ ⟨⟩
  rw [parse_blockWord]
  exact congrArg (fun y => some (Instr.imul h y)) (fmtA_bits a)
theorem CodecOk.imulh (h : Hd) (a : FmtA) : CodecOk.Statement (.imulh h a) := by
  rintro _ _ ⟨⟩
  rw [parse_blockWord]
  exact congrArg (fun y => some (Instr.imulh h y)) (fmtA_bits a)
theorem CodecOk.imad (h : Hd) (a : FmtA) : CodecOk.Statement (.imad h a) := by
  rintro _ _ ⟨⟩
  rw [parse_blockWord]
  exact congrArg (fun y => some (Instr.imad h y)) (fmtA_bits a)
theorem CodecOk.idiv (h : Hd) (a : FmtA) : CodecOk.Statement (.idiv h a) := by
  rintro _ _ ⟨⟩
  rw [parse_blockWord]
  exact congrArg (fun y => some (Instr.idiv h y)) (fmtA_bits a)
theorem CodecOk.irem (h : Hd) (a : FmtA) : CodecOk.Statement (.irem h a) := by
  rintro _ _ ⟨⟩
  rw [parse_blockWord]
  exact congrArg (fun y => some (Instr.irem h y)) (fmtA_bits a)
theorem CodecOk.ineg (h : Hd) (a : FmtA) : CodecOk.Statement (.ineg h a) := by
  rintro _ _ ⟨⟩
  rw [parse_blockWord]
  exact congrArg (fun y => some (Instr.ineg h y)) (fmtA_bits a)
theorem CodecOk.iabs (h : Hd) (a : FmtA) : CodecOk.Statement (.iabs h a) := by
  rintro _ _ ⟨⟩
  rw [parse_blockWord]
  exact congrArg (fun y => some (Instr.iabs h y)) (fmtA_bits a)
theorem CodecOk.imin (h : Hd) (a : FmtA) : CodecOk.Statement (.imin h a) := by
  rintro _ _ ⟨⟩
  rw [parse_blockWord]
  exact congrArg (fun y => some (Instr.imin h y)) (fmtA_bits a)
theorem CodecOk.imax (h : Hd) (a : FmtA) : CodecOk.Statement (.imax h a) := by
  rintro _ _ ⟨⟩
  rw [parse_blockWord]
  exact congrArg (fun y => some (Instr.imax h y)) (fmtA_bits a)
theorem CodecOk.iand (h : Hd) (a : FmtA) : CodecOk.Statement (.iand h a) := by
  rintro _ _ ⟨⟩
  rw [parse_blockWord]
  exact congrArg (fun y => some (Instr.iand h y)) (fmtA_bits a)
theorem CodecOk.ior (h : Hd) (a : FmtA) : CodecOk.Statement (.ior h a) := by
  rintro _ _ ⟨⟩
  rw [parse_blockWord]
  exact congrArg (fun y => some (Instr.ior h y)) (fmtA_bits a)
theorem CodecOk.ixor (h : Hd) (a : FmtA) : CodecOk.Statement (.ixor h a) := by
  rintro _ _ ⟨⟩
  rw [parse_blockWord]
  exact congrArg (fun y => some (Instr.ixor h y)) (fmtA_bits a)
theorem CodecOk.inot (h : Hd) (a : FmtA) : CodecOk.Statement (.inot h a) := by
  rintro _ _ ⟨⟩
  rw [parse_blockWord]
  exact congrArg (fun y => some (Instr.inot h y)) (fmtA_bits a)
theorem CodecOk.ishl (h : Hd) (a : FmtA) : CodecOk.Statement (.ishl h a) := by
  rintro _ _ ⟨⟩
  rw [parse_blockWord]
  exact congrArg (fun y => some (Instr.ishl h y)) (fmtA_bits a)
theorem CodecOk.ishr (h : Hd) (a : FmtA) : CodecOk.Statement (.ishr h a) := by
  rintro _ _ ⟨⟩
  rw [parse_blockWord]
  exact congrArg (fun y => some (Instr.ishr h y)) (fmtA_bits a)
theorem CodecOk.isar (h : Hd) (a : FmtA) : CodecOk.Statement (.isar h a) := by
  rintro _ _ ⟨⟩
  rw [parse_blockWord]
  exact congrArg (fun y => some (Instr.isar h y)) (fmtA_bits a)
theorem CodecOk.irot (h : Hd) (a : FmtA) : CodecOk.Statement (.irot h a) := by
  rintro _ _ ⟨⟩
  rw [parse_blockWord]
  exact congrArg (fun y => some (Instr.irot h y)) (fmtA_bits a)
theorem CodecOk.iclz (h : Hd) (a : FmtA) : CodecOk.Statement (.iclz h a) := by
  rintro _ _ ⟨⟩
  rw [parse_blockWord]
  exact congrArg (fun y => some (Instr.iclz h y)) (fmtA_bits a)
theorem CodecOk.ipopc (h : Hd) (a : FmtA) : CodecOk.Statement (.ipopc h a) := by
  rintro _ _ ⟨⟩
  rw [parse_blockWord]
  exact congrArg (fun y => some (Instr.ipopc h y)) (fmtA_bits a)
theorem CodecOk.ibfx (h : Hd) (a : FmtA) : CodecOk.Statement (.ibfx h a) := by
  rintro _ _ ⟨⟩
  rw [parse_blockWord]
  exact congrArg (fun y => some (Instr.ibfx h y)) (fmtA_bits a)
theorem CodecOk.ibfi (h : Hd) (a : FmtA) : CodecOk.Statement (.ibfi h a) := by
  rintro _ _ ⟨⟩
  rw [parse_blockWord]
  exact congrArg (fun y => some (Instr.ibfi h y)) (fmtA_bits a)
theorem CodecOk.icmp (h : Hd) (a : FmtA) : CodecOk.Statement (.icmp h a) := by
  rintro _ _ ⟨⟩
  rw [parse_blockWord]
  exact congrArg (fun y => some (Instr.icmp h y)) (fmtA_bits a)
theorem CodecOk.addi (h : Hd) (a : FmtA) : CodecOk.Statement (.addi h a) := by
  rintro _ _ ⟨⟩
  rw [parse_blockWord]
  exact congrArg (fun y => some (Instr.addi h y)) (fmtA_bits a)
theorem CodecOk.lea (h : Hd) (a : FmtA) : CodecOk.Statement (.lea h a) := by
  rintro _ _ ⟨⟩
  rw [parse_blockWord]
  exact congrArg (fun y => some (Instr.lea h y)) (fmtA_bits a)
theorem CodecOk.aff (h : Hd) (a : FmtA) : CodecOk.Statement (.aff h a) := by
  rintro _ _ ⟨⟩
  rw [parse_blockWord]
  exact congrArg (fun y => some (Instr.aff h y)) (fmtA_bits a)
theorem CodecOk.clamp (h : Hd) (a : FmtA) : CodecOk.Statement (.clamp h a) := by
  rintro _ _ ⟨⟩
  rw [parse_blockWord]
  exact congrArg (fun y => some (Instr.clamp h y)) (fmtA_bits a)
theorem CodecOk.fadd (h : Hd) (a : FmtA) : CodecOk.Statement (.fadd h a) := by
  rintro _ _ ⟨⟩
  rw [parse_blockWord]
  exact congrArg (fun y => some (Instr.fadd h y)) (fmtA_bits a)
theorem CodecOk.fsub (h : Hd) (a : FmtA) : CodecOk.Statement (.fsub h a) := by
  rintro _ _ ⟨⟩
  rw [parse_blockWord]
  exact congrArg (fun y => some (Instr.fsub h y)) (fmtA_bits a)
theorem CodecOk.fmul (h : Hd) (a : FmtA) : CodecOk.Statement (.fmul h a) := by
  rintro _ _ ⟨⟩
  rw [parse_blockWord]
  exact congrArg (fun y => some (Instr.fmul h y)) (fmtA_bits a)
theorem CodecOk.fma (h : Hd) (a : FmtA) : CodecOk.Statement (.fma h a) := by
  rintro _ _ ⟨⟩
  rw [parse_blockWord]
  exact congrArg (fun y => some (Instr.fma h y)) (fmtA_bits a)
theorem CodecOk.fmin (h : Hd) (a : FmtA) : CodecOk.Statement (.fmin h a) := by
  rintro _ _ ⟨⟩
  rw [parse_blockWord]
  exact congrArg (fun y => some (Instr.fmin h y)) (fmtA_bits a)
theorem CodecOk.fmax (h : Hd) (a : FmtA) : CodecOk.Statement (.fmax h a) := by
  rintro _ _ ⟨⟩
  rw [parse_blockWord]
  exact congrArg (fun y => some (Instr.fmax h y)) (fmtA_bits a)
theorem CodecOk.fabs (h : Hd) (a : FmtA) : CodecOk.Statement (.fabs h a) := by
  rintro _ _ ⟨⟩
  rw [parse_blockWord]
  exact congrArg (fun y => some (Instr.fabs h y)) (fmtA_bits a)
theorem CodecOk.fneg (h : Hd) (a : FmtA) : CodecOk.Statement (.fneg h a) := by
  rintro _ _ ⟨⟩
  rw [parse_blockWord]
  exact congrArg (fun y => some (Instr.fneg h y)) (fmtA_bits a)
theorem CodecOk.fcmp (h : Hd) (a : FmtA) : CodecOk.Statement (.fcmp h a) := by
  rintro _ _ ⟨⟩
  rw [parse_blockWord]
  exact congrArg (fun y => some (Instr.fcmp h y)) (fmtA_bits a)
theorem CodecOk.fcvt (h : Hd) (a : FmtA) : CodecOk.Statement (.fcvt h a) := by
  rintro _ _ ⟨⟩
  rw [parse_blockWord]
  exact congrArg (fun y => some (Instr.fcvt h y)) (fmtA_bits a)
theorem CodecOk.frcp (h : Hd) (a : FmtA) : CodecOk.Statement (.frcp h a) := by
  rintro _ _ ⟨⟩
  rw [parse_blockWord]
  exact congrArg (fun y => some (Instr.frcp h y)) (fmtA_bits a)
theorem CodecOk.frsq (h : Hd) (a : FmtA) : CodecOk.Statement (.frsq h a) := by
  rintro _ _ ⟨⟩
  rw [parse_blockWord]
  exact congrArg (fun y => some (Instr.frsq h y)) (fmtA_bits a)
theorem CodecOk.fex2 (h : Hd) (a : FmtA) : CodecOk.Statement (.fex2 h a) := by
  rintro _ _ ⟨⟩
  rw [parse_blockWord]
  exact congrArg (fun y => some (Instr.fex2 h y)) (fmtA_bits a)
theorem CodecOk.flg2 (h : Hd) (a : FmtA) : CodecOk.Statement (.flg2 h a) := by
  rintro _ _ ⟨⟩
  rw [parse_blockWord]
  exact congrArg (fun y => some (Instr.flg2 h y)) (fmtA_bits a)
theorem CodecOk.ftnh (h : Hd) (a : FmtA) : CodecOk.Statement (.ftnh h a) := by
  rintro _ _ ⟨⟩
  rw [parse_blockWord]
  exact congrArg (fun y => some (Instr.ftnh h y)) (fmtA_bits a)
theorem CodecOk.fexs (h : Hd) (a : FmtA) : CodecOk.Statement (.fexs h a) := by
  rintro _ _ ⟨⟩
  rw [parse_blockWord]
  exact congrArg (fun y => some (Instr.fexs h y)) (fmtA_bits a)
theorem CodecOk.fscl (h : Hd) (a : FmtA) : CodecOk.Statement (.fscl h a) := by
  rintro _ _ ⟨⟩
  rw [parse_blockWord]
  exact congrArg (fun y => some (Instr.fscl h y)) (fmtA_bits a)
theorem CodecOk.itof (h : Hd) (a : FmtA) : CodecOk.Statement (.itof h a) := by
  rintro _ _ ⟨⟩
  rw [parse_blockWord]
  exact congrArg (fun y => some (Instr.itof h y)) (fmtA_bits a)
theorem CodecOk.ftoi (h : Hd) (a : FmtA) : CodecOk.Statement (.ftoi h a) := by
  rintro _ _ ⟨⟩
  rw [parse_blockWord]
  exact congrArg (fun y => some (Instr.ftoi h y)) (fmtA_bits a)
theorem CodecOk.frnd (h : Hd) (a : FmtA) : CodecOk.Statement (.frnd h a) := by
  rintro _ _ ⟨⟩
  rw [parse_blockWord]
  exact congrArg (fun y => some (Instr.frnd h y)) (fmtA_bits a)
theorem CodecOk.vbcst (h : Hd) (a : FmtA) : CodecOk.Statement (.vbcst h a) := by
  rintro _ _ ⟨⟩
  rw [parse_blockWord]
  exact congrArg (fun y => some (Instr.vbcst h y)) (fmtA_bits a)
theorem CodecOk.vshuf (h : Hd) (a : FmtA) : CodecOk.Statement (.vshuf h a) := by
  rintro _ _ ⟨⟩
  rw [parse_blockWord]
  exact congrArg (fun y => some (Instr.vshuf h y)) (fmtA_bits a)
theorem CodecOk.vred (h : Hd) (a : FmtA) : CodecOk.Statement (.vred h a) := by
  rintro _ _ ⟨⟩
  rw [parse_blockWord]
  exact congrArg (fun y => some (Instr.vred h y)) (fmtA_bits a)
theorem CodecOk.vscan (h : Hd) (a : FmtA) : CodecOk.Statement (.vscan h a) := by
  rintro _ _ ⟨⟩
  rw [parse_blockWord]
  exact congrArg (fun y => some (Instr.vscan h y)) (fmtA_bits a)
theorem CodecOk.vdot (h : Hd) (a : FmtA) : CodecOk.Statement (.vdot h a) := by
  rintro _ _ ⟨⟩
  rw [parse_blockWord]
  exact congrArg (fun y => some (Instr.vdot h y)) (fmtA_bits a)
theorem CodecOk.vcmpr (h : Hd) (a : FmtA) : CodecOk.Statement (.vcmpr h a) := by
  rintro _ _ ⟨⟩
  rw [parse_blockWord]
  exact congrArg (fun y => some (Instr.vcmpr h y)) (fmtA_bits a)
theorem CodecOk.vexpd (h : Hd) (a : FmtA) : CodecOk.Statement (.vexpd h a) := by
  rintro _ _ ⟨⟩
  rw [parse_blockWord]
  exact congrArg (fun y => some (Instr.vexpd h y)) (fmtA_bits a)
theorem CodecOk.vpack (h : Hd) (a : FmtA) : CodecOk.Statement (.vpack h a) := by
  rintro _ _ ⟨⟩
  rw [parse_blockWord]
  exact congrArg (fun y => some (Instr.vpack h y)) (fmtA_bits a)
theorem CodecOk.vunpk (h : Hd) (a : FmtA) : CodecOk.Statement (.vunpk h a) := by
  rintro _ _ ⟨⟩
  rw [parse_blockWord]
  exact congrArg (fun y => some (Instr.vunpk h y)) (fmtA_bits a)
theorem CodecOk.vselm (h : Hd) (a : FmtA) : CodecOk.Statement (.vselm h a) := by
  rintro _ _ ⟨⟩
  rw [parse_blockWord]
  exact congrArg (fun y => some (Instr.vselm h y)) (fmtA_bits a)
theorem CodecOk.vlane (h : Hd) (a : FmtA) : CodecOk.Statement (.vlane h a) := by
  rintro _ _ ⟨⟩
  rw [parse_blockWord]
  exact congrArg (fun y => some (Instr.vlane h y)) (fmtA_bits a)
theorem CodecOk.viota (h : Hd) (a : FmtA) : CodecOk.Statement (.viota h a) := by
  rintro _ _ ⟨⟩
  rw [parse_blockWord]
  exact congrArg (fun y => some (Instr.viota h y)) (fmtA_bits a)
theorem CodecOk.vcset (h : Hd) (i : BitVec 30) : CodecOk.Statement (.vcset h i) := by
  rintro _ _ ⟨⟩
  rw [parse_blockWord]
  rfl
theorem CodecOk.vcget (h : Hd) (i : BitVec 30) : CodecOk.Statement (.vcget h i) := by
  rintro _ _ ⟨⟩
  rw [parse_blockWord]
  rfl
theorem CodecOk.hdr (h : Hd) (a : FmtA) : CodecOk.Statement (.hdr h a) := by
  rintro _ _ ⟨⟩
  rw [parse_blockWord]
  exact congrArg (fun y => some (Instr.hdr h y)) (fmtA_bits a)
theorem CodecOk.qnt (h : Hd) (a : FmtA) : CodecOk.Statement (.qnt h a) := by
  rintro _ _ ⟨⟩
  rw [parse_blockWord]
  exact congrArg (fun y => some (Instr.qnt h y)) (fmtA_bits a)
theorem CodecOk.dqnt (h : Hd) (a : FmtA) : CodecOk.Statement (.dqnt h a) := by
  rintro _ _ ⟨⟩
  rw [parse_blockWord]
  exact congrArg (fun y => some (Instr.dqnt h y)) (fmtA_bits a)
theorem CodecOk.sclx (h : Hd) (a : FmtA) : CodecOk.Statement (.sclx h a) := by
  rintro _ _ ⟨⟩
  rw [parse_blockWord]
  exact congrArg (fun y => some (Instr.sclx h y)) (fmtA_bits a)
theorem CodecOk.i4xp (h : Hd) (a : FmtA) : CodecOk.Statement (.i4xp h a) := by
  rintro _ _ ⟨⟩
  rw [parse_blockWord]
  exact congrArg (fun y => some (Instr.i4xp h y)) (fmtA_bits a)
theorem CodecOk.i4xu (h : Hd) (a : FmtA) : CodecOk.Statement (.i4xu h a) := by
  rintro _ _ ⟨⟩
  rw [parse_blockWord]
  exact congrArg (fun y => some (Instr.i4xu h y)) (fmtA_bits a)
theorem CodecOk.ld (h : Hd) (m : FmtM) : CodecOk.Statement (.ld h m) := by
  rintro _ _ ⟨⟩
  rw [parse_blockWord]
  exact congrArg (fun y => some (Instr.ld h y)) (fmtM_bits m)
theorem CodecOk.st (h : Hd) (m : FmtM) : CodecOk.Statement (.st h m) := by
  rintro _ _ ⟨⟩
  rw [parse_blockWord]
  exact congrArg (fun y => some (Instr.st h y)) (fmtM_bits m)
theorem CodecOk.ldb (h : Hd) (m : FmtM) : CodecOk.Statement (.ldb h m) := by
  rintro _ _ ⟨⟩
  rw [parse_blockWord]
  exact congrArg (fun y => some (Instr.ldb h y)) (fmtM_bits m)
theorem CodecOk.stb (h : Hd) (m : FmtM) : CodecOk.Statement (.stb h m) := by
  rintro _ _ ⟨⟩
  rw [parse_blockWord]
  exact congrArg (fun y => some (Instr.stb h y)) (fmtM_bits m)
theorem CodecOk.ldl (h : Hd) (m : FmtM) : CodecOk.Statement (.ldl h m) := by
  rintro _ _ ⟨⟩
  rw [parse_blockWord]
  exact congrArg (fun y => some (Instr.ldl h y)) (fmtM_bits m)
theorem CodecOk.stnt (h : Hd) (m : FmtM) : CodecOk.Statement (.stnt h m) := by
  rintro _ _ ⟨⟩
  rw [parse_blockWord]
  exact congrArg (fun y => some (Instr.stnt h y)) (fmtM_bits m)
theorem CodecOk.pref (h : Hd) (m : FmtM) : CodecOk.Statement (.pref h m) := by
  rintro _ _ ⟨⟩
  rw [parse_blockWord]
  exact congrArg (fun y => some (Instr.pref h y)) (fmtM_bits m)
theorem CodecOk.atom (h : Hd) (m : FmtM) : CodecOk.Statement (.atom h m) := by
  rintro _ _ ⟨⟩
  rw [parse_blockWord]
  exact congrArg (fun y => some (Instr.atom h y)) (fmtM_bits m)
theorem CodecOk.cas (h : Hd) (m : FmtM) : CodecOk.Statement (.cas h m) := by
  rintro _ _ ⟨⟩
  rw [parse_blockWord]
  exact congrArg (fun y => some (Instr.cas h y)) (fmtM_bits m)
theorem CodecOk.fatom (h : Hd) (m : FmtM) : CodecOk.Statement (.fatom h m) := by
  rintro _ _ ⟨⟩
  rw [parse_blockWord]
  exact congrArg (fun y => some (Instr.fatom h y)) (fmtM_bits m)
theorem CodecOk.enq (h : Hd) (m : FmtM) : CodecOk.Statement (.enq h m) := by
  rintro _ _ ⟨⟩
  rw [parse_blockWord]
  exact congrArg (fun y => some (Instr.enq h y)) (fmtM_bits m)
theorem CodecOk.deq (h : Hd) (m : FmtM) : CodecOk.Statement (.deq h m) := by
  rintro _ _ ⟨⟩
  rw [parse_blockWord]
  exact congrArg (fun y => some (Instr.deq h y)) (fmtM_bits m)
theorem CodecOk.sarm (h : Hd) (x : FmtX) : CodecOk.Statement (.sarm h x) := by
  rintro _ _ ⟨⟩
  rw [parse_blockWord]
  exact congrArg (fun y => some (Instr.sarm h y)) (fmtX_bits x)
theorem CodecOk.qfnc (h : Hd) (x : FmtX) : CodecOk.Statement (.qfnc h x) := by
  rintro _ _ ⟨⟩
  rw [parse_blockWord]
  exact congrArg (fun y => some (Instr.qfnc h y)) (fmtX_bits x)
theorem CodecOk.dfnc (h : Hd) (m : FmtM) : CodecOk.Statement (.dfnc h m) := by
  rintro _ _ ⟨⟩
  rw [parse_blockWord]
  exact congrArg (fun y => some (Instr.dfnc h y)) (fmtM_bits m)
theorem CodecOk.rdci (h : Hd) (i : BitVec 30) : CodecOk.Statement (.rdci h i) := by
  rintro _ _ ⟨⟩
  rw [parse_blockWord]
  rfl
theorem CodecOk.fnc (h : Hd) (m : FmtM) : CodecOk.Statement (.fnc h m) := by
  rintro _ _ ⟨⟩
  rw [parse_blockWord]
  exact congrArg (fun y => some (Instr.fnc h y)) (fmtM_bits m)
theorem CodecOk.lds (h : Hd) (m : FmtM) : CodecOk.Statement (.lds h m) := by
  rintro _ _ ⟨⟩
  rw [parse_blockWord]
  exact congrArg (fun y => some (Instr.lds h y)) (fmtM_bits m)
theorem CodecOk.sts (h : Hd) (m : FmtM) : CodecOk.Statement (.sts h m) := by
  rintro _ _ ⟨⟩
  rw [parse_blockWord]
  exact congrArg (fun y => some (Instr.sts h y)) (fmtM_bits m)
theorem CodecOk.cntrRead (h : Hd) (x : FmtX) : CodecOk.Statement (.cntrRead h x) := by
  rintro _ he ⟨⟩
  have hc := firstError_none he (h.fn == 0, .badFn) (by simp [Instr.checks, Hd.fnIs])
  rw [parse_blockWord]
  change (if h.fn == 0 then some (.cntrRead h (FmtX.ofBits x.toBits)) else if h.fn == 1 then some (.cntrSnap h (FmtX.ofBits x.toBits)) else
    if h.fn == 2 then some (.cntrStall h (FmtX.ofBits x.toBits)) else if h.fn == 3 then some (.cntrLink h (FmtX.ofBits x.toBits)) else none : Option Instr) = _
  rw [fmtX_bits]
  simp_all

theorem CodecOk.cntrSnap (h : Hd) (x : FmtX) : CodecOk.Statement (.cntrSnap h x) := by
  rintro _ he ⟨⟩
  have hc := firstError_none he (h.fn == 1, .badFn) (by simp [Instr.checks, Hd.fnIs])
  rw [parse_blockWord]
  change (if h.fn == 0 then some (.cntrRead h (FmtX.ofBits x.toBits)) else if h.fn == 1 then some (.cntrSnap h (FmtX.ofBits x.toBits)) else
    if h.fn == 2 then some (.cntrStall h (FmtX.ofBits x.toBits)) else if h.fn == 3 then some (.cntrLink h (FmtX.ofBits x.toBits)) else none : Option Instr) = _
  rw [fmtX_bits]
  simp_all

theorem CodecOk.cntrStall (h : Hd) (x : FmtX) : CodecOk.Statement (.cntrStall h x) := by
  rintro _ he ⟨⟩
  have hc := firstError_none he (h.fn == 2, .badFn) (by simp [Instr.checks, Hd.fnIs])
  rw [parse_blockWord]
  change (if h.fn == 0 then some (.cntrRead h (FmtX.ofBits x.toBits)) else if h.fn == 1 then some (.cntrSnap h (FmtX.ofBits x.toBits)) else
    if h.fn == 2 then some (.cntrStall h (FmtX.ofBits x.toBits)) else if h.fn == 3 then some (.cntrLink h (FmtX.ofBits x.toBits)) else none : Option Instr) = _
  rw [fmtX_bits]
  simp_all

theorem CodecOk.cntrLink (h : Hd) (x : FmtX) : CodecOk.Statement (.cntrLink h x) := by
  rintro _ he ⟨⟩
  have hc := firstError_none he (h.fn == 3, .badFn) (by simp [Instr.checks, Hd.fnIs])
  rw [parse_blockWord]
  change (if h.fn == 0 then some (.cntrRead h (FmtX.ofBits x.toBits)) else if h.fn == 1 then some (.cntrSnap h (FmtX.ofBits x.toBits)) else
    if h.fn == 2 then some (.cntrStall h (FmtX.ofBits x.toBits)) else if h.fn == 3 then some (.cntrLink h (FmtX.ofBits x.toBits)) else none : Option Instr) = _
  rw [fmtX_bits]
  simp_all

theorem CodecOk.xfer (h : Hd) (x : FmtX) : CodecOk.Statement (.xfer h x) := by
  rintro _ _ ⟨⟩
  rw [parse_blockWord]
  exact congrArg (fun y => some (Instr.xfer h y)) (fmtX_bits x)
theorem CodecOk.xpk (h : Hd) (i : BitVec 30) : CodecOk.Statement (.xpk h i) := by
  rintro _ _ ⟨⟩
  rw [parse_blockWord]
  rfl
theorem CodecOk.gath (h : Hd) (x : FmtX) : CodecOk.Statement (.gath h x) := by
  rintro _ _ ⟨⟩
  rw [parse_blockWord]
  exact congrArg (fun y => some (Instr.gath h y)) (fmtX_bits x)
theorem CodecOk.scat (h : Hd) (x : FmtX) : CodecOk.Statement (.scat h x) := by
  rintro _ _ ⟨⟩
  rw [parse_blockWord]
  exact congrArg (fun y => some (Instr.scat h y)) (fmtX_bits x)
theorem CodecOk.dcnt (h : Hd) (x : FmtX) : CodecOk.Statement (.dcnt h x) := by
  rintro _ _ ⟨⟩
  rw [parse_blockWord]
  exact congrArg (fun y => some (Instr.dcnt h y)) (fmtX_bits x)
theorem CodecOk.trdy (h : Hd) (x : FmtX) : CodecOk.Statement (.trdy h x) := by
  rintro _ _ ⟨⟩
  rw [parse_blockWord]
  exact congrArg (fun y => some (Instr.trdy h y)) (fmtX_bits x)
theorem CodecOk.coll (h : Hd) (x : FmtX) : CodecOk.Statement (.coll h x) := by
  rintro _ _ ⟨⟩
  rw [parse_blockWord]
  exact congrArg (fun y => some (Instr.coll h y)) (fmtX_bits x)
theorem CodecOk.mlds (h : Hd) (a : FmtA) : CodecOk.Statement (.mlds h a) := by
  rintro _ _ ⟨⟩
  rw [parse_blockWord]
  exact congrArg (fun y => some (Instr.mlds h y)) (fmtA_bits a)
theorem CodecOk.mswp (h : Hd) (i : BitVec 30) : CodecOk.Statement (.mswp h i) := by
  rintro _ _ ⟨⟩
  rw [parse_blockWord]
  rfl
theorem CodecOk.mctl (h : Hd) (i : BitVec 30) : CodecOk.Statement (.mctl h i) := by
  rintro _ _ ⟨⟩
  rw [parse_blockWord]
  rfl
theorem CodecOk.mfir (h : Hd) (a : FmtA) : CodecOk.Statement (.mfir h a) := by
  rintro _ _ ⟨⟩
  rw [parse_blockWord]
  exact congrArg (fun y => some (Instr.mfir h y)) (fmtA_bits a)
theorem CodecOk.mdrn (h : Hd) (a : FmtA) : CodecOk.Statement (.mdrn h a) := by
  rintro _ _ ⟨⟩
  rw [parse_blockWord]
  exact congrArg (fun y => some (Instr.mdrn h y)) (fmtA_bits a)
theorem CodecOk.mclr (h : Hd) (i : BitVec 30) : CodecOk.Statement (.mclr h i) := by
  rintro _ _ ⟨⟩
  rw [parse_blockWord]
  rfl
theorem CodecOk.vdclDeclare (h : Hd) (i : BitVec 30) : CodecOk.Statement (.vdclDeclare h i) := by
  rintro _ he ⟨⟩
  have hc := firstError_none he (!i.getLsbD 3, .reservedCode) (by simp [Instr.checks])
  rw [parse_blockWord]
  change (if !i.getLsbD 3 then some (.vdclDeclare h i) else some (.vdclSystolic h i) : Option Instr) = _
  simp_all

theorem CodecOk.vdclSystolic (h : Hd) (i : BitVec 30) : CodecOk.Statement (.vdclSystolic h i) := by
  rintro _ he ⟨⟩
  have hc := firstError_none he (i.getLsbD 3 && !i.getLsbD 4, .reservedCode) (by simp [Instr.checks])
  rw [parse_blockWord]
  change (if !i.getLsbD 3 then some (.vdclDeclare h i) else some (.vdclSystolic h i) : Option Instr) = _
  simp_all

theorem CodecOk.vacc (h : Hd) (a : FmtA) : CodecOk.Statement (.vacc h a) := by
  rintro _ _ ⟨⟩
  rw [parse_blockWord]
  exact congrArg (fun y => some (Instr.vacc h y)) (fmtA_bits a)
theorem CodecOk.bnds (h : Hd) (a : FmtA) : CodecOk.Statement (.bnds h a) := by
  rintro _ _ ⟨⟩
  rw [parse_blockWord]
  exact congrArg (fun y => some (Instr.bnds h y)) (fmtA_bits a)
theorem CodecOk.topk (h : Hd) (a : FmtA) : CodecOk.Statement (.topk h a) := by
  rintro _ _ ⟨⟩
  rw [parse_blockWord]
  exact congrArg (fun y => some (Instr.topk h y)) (fmtA_bits a)
theorem CodecOk.thrp (h : Hd) (i : BitVec 30) : CodecOk.Statement (.thrp h i) := by
  rintro _ _ ⟨⟩
  rw [parse_blockWord]
  rfl
theorem CodecOk.vpik (h : Hd) (a : FmtA) : CodecOk.Statement (.vpik h a) := by
  rintro _ _ ⟨⟩
  rw [parse_blockWord]
  exact congrArg (fun y => some (Instr.vpik h y)) (fmtA_bits a)
theorem CodecOk.iscr (h : Hd) (a : FmtA) : CodecOk.Statement (.iscr h a) := by
  rintro _ _ ⟨⟩
  rw [parse_blockWord]
  exact congrArg (fun y => some (Instr.iscr h y)) (fmtA_bits a)
theorem CodecOk.kdef (h : Hd) (k : FmtK) : CodecOk.Statement (.kdef h k) := by
  rintro _ _ ⟨⟩
  rw [parse_blockWord]
  exact congrArg (fun y => some (Instr.kdef h y)) (fmtK_bits k)
theorem CodecOk.kput (h : Hd) (k : FmtK) : CodecOk.Statement (.kput h k) := by
  rintro _ _ ⟨⟩
  rw [parse_blockWord]
  exact congrArg (fun y => some (Instr.kput h y)) (fmtK_bits k)
theorem CodecOk.kqry (h : Hd) (k : FmtK) : CodecOk.Statement (.kqry h k) := by
  rintro _ _ ⟨⟩
  rw [parse_blockWord]
  exact congrArg (fun y => some (Instr.kqry h y)) (fmtK_bits k)
theorem CodecOk.kdel (h : Hd) (k : FmtK) : CodecOk.Statement (.kdel h k) := by
  rintro _ _ ⟨⟩
  rw [parse_blockWord]
  exact congrArg (fun y => some (Instr.kdel h y)) (fmtK_bits k)
theorem CodecOk.kmrg (h : Hd) (k : FmtK) : CodecOk.Statement (.kmrg h k) := by
  rintro _ _ ⟨⟩
  rw [parse_blockWord]
  exact congrArg (fun y => some (Instr.kmrg h y)) (fmtK_bits k)
theorem CodecOk.ksmx (h : Hd) (k : FmtK) : CodecOk.Statement (.ksmx h k) := by
  rintro _ _ ⟨⟩
  rw [parse_blockWord]
  exact congrArg (fun y => some (Instr.ksmx h y)) (fmtK_bits k)
theorem CodecOk.kgen (h : Hd) (k : FmtK) : CodecOk.Statement (.kgen h k) := by
  rintro _ _ ⟨⟩
  rw [parse_blockWord]
  exact congrArg (fun y => some (Instr.kgen h y)) (fmtK_bits k)
theorem CodecOk.kcnt (h : Hd) (k : FmtK) : CodecOk.Statement (.kcnt h k) := by
  rintro _ _ ⟨⟩
  rw [parse_blockWord]
  exact congrArg (fun y => some (Instr.kcnt h y)) (fmtK_bits k)
theorem CodecOk.kflt (h : Hd) (k : FmtK) : CodecOk.Statement (.kflt h k) := by
  rintro _ _ ⟨⟩
  rw [parse_blockWord]
  exact congrArg (fun y => some (Instr.kflt h y)) (fmtK_bits k)
theorem CodecOk.ksid (h : Hd) (k : FmtK) : CodecOk.Statement (.ksid h k) := by
  rintro _ _ ⟨⟩
  rw [parse_blockWord]
  exact congrArg (fun y => some (Instr.ksid h y)) (fmtK_bits k)
theorem CodecOk.splk (h : Hd) (m : FmtM) : CodecOk.Statement (.splk h m) := by
  rintro _ _ ⟨⟩
  rw [parse_blockWord]
  exact congrArg (fun y => some (Instr.splk h y)) (fmtM_bits m)
theorem CodecOk.spap (h : Hd) (m : FmtM) : CodecOk.Statement (.spap h m) := by
  rintro _ _ ⟨⟩
  rw [parse_blockWord]
  exact congrArg (fun y => some (Instr.spap h y)) (fmtM_bits m)
theorem CodecOk.spfk (h : Hd) (i : BitVec 30) : CodecOk.Statement (.spfk h i) := by
  rintro _ _ ⟨⟩
  rw [parse_blockWord]
  rfl
theorem CodecOk.sprl (h : Hd) (i : BitVec 30) : CodecOk.Statement (.sprl h i) := by
  rintro _ _ ⟨⟩
  rw [parse_blockWord]
  rfl
theorem CodecOk.spwn (h : Hd) (i : BitVec 30) : CodecOk.Statement (.spwn h i) := by
  rintro _ _ ⟨⟩
  rw [parse_blockWord]
  rfl
theorem CodecOk.sprg (h : Hd) (i : BitVec 30) : CodecOk.Statement (.sprg h i) := by
  rintro _ _ ⟨⟩
  rw [parse_blockWord]
  rfl
theorem CodecOk.rld (h : Hd) (m : FmtM) : CodecOk.Statement (.rld h m) := by
  rintro _ _ ⟨⟩
  rw [parse_blockWord]
  exact congrArg (fun y => some (Instr.rld h y)) (fmtM_bits m)
theorem CodecOk.rst (h : Hd) (m : FmtM) : CodecOk.Statement (.rst h m) := by
  rintro _ _ ⟨⟩
  rw [parse_blockWord]
  exact congrArg (fun y => some (Instr.rst h y)) (fmtM_bits m)
theorem CodecOk.ratm (h : Hd) (m : FmtM) : CodecOk.Statement (.ratm h m) := by
  rintro _ _ ⟨⟩
  rw [parse_blockWord]
  exact congrArg (fun y => some (Instr.ratm h y)) (fmtM_bits m)
theorem CodecOk.glaze (h : Hd) (m : FmtM) : CodecOk.Statement (.glaze h m) := by
  rintro _ _ ⟨⟩
  rw [parse_blockWord]
  exact congrArg (fun y => some (Instr.glaze h y)) (fmtM_bits m)
theorem CodecOk.trap (h : Hd) (i : BitVec 30) : CodecOk.Statement (.trap h i) := by
  rintro _ _ ⟨⟩
  rw [parse_blockWord]
  rfl
theorem CodecOk.bkpt (h : Hd) (i : BitVec 30) : CodecOk.Statement (.bkpt h i) := by
  rintro _ _ ⟨⟩
  rw [parse_blockWord]
  rfl
theorem CodecOk.svc (h : Hd) (i : BitVec 30) : CodecOk.Statement (.svc h i) := by
  rintro _ _ ⟨⟩
  rw [parse_blockWord]
  rfl
theorem CodecOk.rdsr (h : Hd) (i : BitVec 30) : CodecOk.Statement (.rdsr h i) := by
  rintro _ _ ⟨⟩
  rw [parse_blockWord]
  rfl
theorem CodecOk.wrsr (h : Hd) (i : BitVec 30) : CodecOk.Statement (.wrsr h i) := by
  rintro _ _ ⟨⟩
  rw [parse_blockWord]
  rfl
theorem CodecOk.cpri (h : Hd) (i : BitVec 30) : CodecOk.Statement (.cpri h i) := by
  rintro _ _ ⟨⟩
  rw [parse_blockWord]
  rfl
theorem CodecOk.yld (h : Hd) (i : BitVec 30) : CodecOk.Statement (.yld h i) := by
  rintro _ _ ⟨⟩
  rw [parse_blockWord]
  rfl
theorem CodecOk.steal (h : Hd) (x : FmtX) : CodecOk.Statement (.steal h x) := by
  rintro _ _ ⟨⟩
  rw [parse_blockWord]
  exact congrArg (fun y => some (Instr.steal h y)) (fmtX_bits x)
theorem CodecOk.spltSteal (h : Hd) (i : BitVec 30) : CodecOk.Statement (.spltSteal h i) := by
  rintro _ he ⟨⟩
  have hc := firstError_none he (!i.getLsbD 21, .reservedCode) (by simp [Instr.checks])
  rw [parse_blockWord]
  change (if !i.getLsbD 21 then some (.spltSteal h i) else some (.spltClaim h i) : Option Instr) = _
  simp_all

theorem CodecOk.spltClaim (h : Hd) (i : BitVec 30) : CodecOk.Statement (.spltClaim h i) := by
  rintro _ he ⟨⟩
  have hc := firstError_none he (i.getLsbD 21, .reservedCode) (by simp [Instr.checks])
  rw [parse_blockWord]
  change (if !i.getLsbD 21 then some (.spltSteal h i) else some (.spltClaim h i) : Option Instr) = _
  simp_all

theorem CodecOk.perf (h : Hd) (x : FmtX) : CodecOk.Statement (.perf h x) := by
  rintro _ _ ⟨⟩
  rw [parse_blockWord]
  exact congrArg (fun y => some (Instr.perf h y)) (fmtX_bits x)
theorem CodecOk.done (h : Hd) (i : BitVec 30) : CodecOk.Statement (.done h i) := by
  rintro _ _ ⟨⟩
  rw [parse_blockWord]
  rfl
theorem CodecOk.frd (h : Hd) (i : BitVec 30) : CodecOk.Statement (.frd h i) := by
  rintro _ _ ⟨⟩
  rw [parse_blockWord]
  rfl
theorem CodecOk.resm (h : Hd) (i : BitVec 30) : CodecOk.Statement (.resm h i) := by
  rintro _ _ ⟨⟩
  rw [parse_blockWord]
  rfl
theorem CodecOk.qcfgLabel (q : SeqW) : CodecOk.Statement (.qcfgLabel q) := by
  rintro _ he ⟨⟩
  have hc := firstError_none he (q.imb && q.da == 0 && q.db == 0, .seqField) (by simp [Instr.checks, SeqW.need])
  rw [parse_seqWord q (by decide)]
  change (if q.imb then some (.qcfgLabel q) else some (.qcfgRegister q) : Option Instr) = _
  simp_all

theorem CodecOk.qcfgRegister (q : SeqW) : CodecOk.Statement (.qcfgRegister q) := by
  rintro _ he ⟨⟩
  have hc := firstError_none he (!q.imb && q.db == 0 && q.imm == 0 && seqReg q.da, .seqField) (by simp [Instr.checks, SeqW.need])
  rw [parse_seqWord q (by decide)]
  change (if q.imb then some (.qcfgLabel q) else some (.qcfgRegister q) : Option Instr) = _
  simp_all

theorem CodecOk.qloop (q : SeqW) : CodecOk.Statement (.qloop q) := by
  rintro _ _ ⟨⟩
  rw [parse_seqWord q (by decide)]
  rfl
theorem CodecOk.qbr (q : SeqW) : CodecOk.Statement (.qbr q) := by
  rintro _ _ ⟨⟩
  rw [parse_seqWord q (by decide)]
  rfl
theorem CodecOk.qarmRegister (q : SeqW) : CodecOk.Statement (.qarmRegister q) := by
  rintro _ he ⟨⟩
  have hc := firstError_none he (!q.imb && q.imm == 0 && seqReg q.db, .seqField) (by simp [Instr.checks, SeqW.need])
  rw [parse_seqWord q (by decide)]
  change (if !q.imb then some (.qarmRegister q) else if q.imb && !q.imm.msb then some (.qarmConstants q) else some (.qarmKeep q) : Option Instr) = _
  simp_all

theorem CodecOk.qarmConstants (q : SeqW) : CodecOk.Statement (.qarmConstants q) := by
  rintro _ he ⟨⟩
  have hc := firstError_none he (q.imb && q.db == 0 && q.imm.toNat < 64, .seqField) (by simp [Instr.checks, SeqW.need])
  rw [parse_seqWord q (by decide)]
  change (if !q.imb then some (.qarmRegister q) else if q.imb && !q.imm.msb then some (.qarmConstants q) else some (.qarmKeep q) : Option Instr) = _
  have hm : q.imm.msb = false := by simp [BitVec.msb_eq_decide] at hc ⊢; omega
  simp_all

theorem CodecOk.qarmKeep (q : SeqW) : CodecOk.Statement (.qarmKeep q) := by
  rintro _ he ⟨⟩
  have hc := firstError_none he (q.imb && q.db == 0 && q.imm == 0x80000000, .seqField) (by simp [Instr.checks, SeqW.need])
  rw [parse_seqWord q (by decide)]
  change (if !q.imb then some (.qarmRegister q) else if q.imb && !q.imm.msb then some (.qarmConstants q) else some (.qarmKeep q) : Option Instr) = _
  have hm : q.imm.msb = true := by simp at hc; rw [hc.2]; rfl
  simp_all

theorem CodecOk.qwaitStream (q : SeqW) : CodecOk.Statement (.qwaitStream q) := by
  rintro _ he ⟨⟩
  have hc := firstError_none he (!q.imb && q.db == 0 && q.imm == 0, .seqField) (by simp [Instr.checks, SeqW.need])
  rw [parse_seqWord q (by decide)]
  change (if !q.imb then some (.qwaitStream q) else some (.qwaitCycles q) : Option Instr) = _
  simp_all

theorem CodecOk.qwaitCycles (q : SeqW) : CodecOk.Statement (.qwaitCycles q) := by
  rintro _ he ⟨⟩
  have hc := firstError_none he (q.imb && q.db == 0, .seqField) (by simp [Instr.checks, SeqW.need])
  rw [parse_seqWord q (by decide)]
  change (if !q.imb then some (.qwaitStream q) else some (.qwaitCycles q) : Option Instr) = _
  simp_all

theorem CodecOk.qset (q : SeqW) : CodecOk.Statement (.qset q) := by
  rintro _ _ ⟨⟩
  rw [parse_seqWord q (by decide)]
  rfl
theorem CodecOk.qadd (q : SeqW) : CodecOk.Statement (.qadd q) := by
  rintro _ _ ⟨⟩
  rw [parse_seqWord q (by decide)]
  rfl
theorem CodecOk.qend (q : SeqW) : CodecOk.Statement (.qend q) := by
  rintro _ _ ⟨⟩
  rw [parse_seqWord q (by decide)]
  rfl
theorem CodecOk.qprd (q : SeqW) : CodecOk.Statement (.qprd q) := by
  rintro _ _ ⟨⟩
  rw [parse_seqWord q (by decide)]
  rfl
theorem CodecOk.qglzWait (q : SeqW) : CodecOk.Statement (.qglzWait q) := by
  rintro _ he ⟨⟩
  have hc := firstError_none he (!q.imb && q.db == 0 && q.imm == 0, .seqField) (by simp [Instr.checks, SeqW.need])
  rw [parse_seqWord q (by decide)]
  change (if !q.imb then some (.qglzWait q) else some (.qglzNowait q) : Option Instr) = _
  simp_all

theorem CodecOk.qglzNowait (q : SeqW) : CodecOk.Statement (.qglzNowait q) := by
  rintro _ he ⟨⟩
  have hc := firstError_none he (q.imb && q.da == 0 && q.db == 0 && q.imm == 0, .seqField) (by simp [Instr.checks, SeqW.need])
  rw [parse_seqWord q (by decide)]
  change (if !q.imb then some (.qglzWait q) else some (.qglzNowait q) : Option Instr) = _
  simp_all

theorem CodecOk.launchToken (port : Bool) (tok : BitVec 512) : CodecOk.Statement (.launchToken port tok) := fun _ _ h => nomatch h
theorem CodecOk.hostAccessDiscarded (rd : Bool) : CodecOk.Statement (.hostAccessDiscarded rd) := fun _ _ h => nomatch h
theorem CodecOk.tlbInvalidation (die : Posted Nat) : CodecOk.Statement (.tlbInvalidation die) := fun _ _ h => nomatch h
theorem CodecOk.freePageWrite (v : Posted Word) : CodecOk.Statement (.freePageWrite v) := fun _ _ h => nomatch h
theorem CodecOk.hostResume (die : Nat) (v : Posted Word) : CodecOk.Statement (.hostResume die v) := fun _ _ h => nomatch h
theorem CodecOk.faultSummaryRead (die : Nat) : CodecOk.Statement (.faultSummaryRead die) := fun _ _ h => nomatch h
theorem CodecOk.correctedErrorRead (die : Nat) : CodecOk.Statement (.correctedErrorRead die) := fun _ _ h => nomatch h
theorem CodecOk.hostErrorCounterRead : CodecOk.Statement (.hostErrorCounterRead) := fun _ _ h => nomatch h
theorem CodecOk.bindingWrite (lg : Nat) (tagHalf : Bool) (v : Posted Word) : CodecOk.Statement (.bindingWrite lg tagHalf v) := fun _ _ h => nomatch h
theorem CodecOk.buddyCopyEnable (v : Posted Word) : CodecOk.Statement (.buddyCopyEnable v) := fun _ _ h => nomatch h
theorem CodecOk.registerWrite (offset : Nat) (v : Posted Word) (ide : Option Nat) : CodecOk.Statement (.registerWrite offset v ide) := fun _ _ h => nomatch h
theorem CodecOk.tdispRequest (p : Nat) (r : TdispReq) : CodecOk.Statement (.tdispRequest p r) := fun _ _ h => nomatch h
theorem CodecOk.tdispStop (p : Nat) : CodecOk.Statement (.tdispStop p) := fun _ _ h => nomatch h
theorem CodecOk.ideIntegrityFailure (p : Nat) : CodecOk.Statement (.ideIntegrityFailure p) := fun _ _ h => nomatch h
theorem CodecOk.getVersion (q : SpdmReq) : CodecOk.Statement (.getVersion q) := fun _ _ h => nomatch h
theorem CodecOk.getCapabilities (q : SpdmReq) : CodecOk.Statement (.getCapabilities q) := fun _ _ h => nomatch h
theorem CodecOk.negotiateAlgorithms (q : SpdmReq) : CodecOk.Statement (.negotiateAlgorithms q) := fun _ _ h => nomatch h
theorem CodecOk.getDigests (q : SpdmReq) : CodecOk.Statement (.getDigests q) := fun _ _ h => nomatch h
theorem CodecOk.getCertificate (q : SpdmReq) : CodecOk.Statement (.getCertificate q) := fun _ _ h => nomatch h
theorem CodecOk.challenge (q : SpdmReq) : CodecOk.Statement (.challenge q) := fun _ _ h => nomatch h
theorem CodecOk.getMeasurements (q : SpdmReq) : CodecOk.Statement (.getMeasurements q) := fun _ _ h => nomatch h
theorem CodecOk.keyExchange (q : SpdmReq) : CodecOk.Statement (.keyExchange q) := fun _ _ h => nomatch h
theorem CodecOk.finish (q : SpdmReq) : CodecOk.Statement (.finish q) := fun _ _ h => nomatch h
theorem CodecOk.moduleReset : CodecOk.Statement (.moduleReset) := fun _ _ h => nomatch h
theorem CodecOk.readinessFlagSet (bit : Nat) : CodecOk.Statement (.readinessFlagSet bit) := fun _ _ h => nomatch h
theorem CodecOk.clockThrottle : CodecOk.Statement (.clockThrottle) := fun _ _ h => nomatch h
theorem CodecOk.clockRestore : CodecOk.Statement (.clockRestore) := fun _ _ h => nomatch h
theorem CodecOk.thermalShutdown : CodecOk.Statement (.thermalShutdown) := fun _ _ h => nomatch h
theorem CodecOk.tokenArrival (site : TokenSite) (n : Nat) : CodecOk.Statement (.tokenArrival site n) := fun _ _ h => nomatch h
theorem CodecOk.headerBeatLatch (n : Nat) : CodecOk.Statement (.headerBeatLatch n) := fun _ _ h => nomatch h
theorem CodecOk.tokenAgeTick : CodecOk.Statement (.tokenAgeTick) := fun _ _ h => nomatch h
theorem CodecOk.starvationForce (die wafer cell : Nat) : CodecOk.Statement (.starvationForce die wafer cell) := fun _ _ h => nomatch h
theorem CodecOk.instanceCommit (u : Who) : CodecOk.Statement (.instanceCommit u) := fun _ _ h => nomatch h
theorem CodecOk.generationAdvance (die task lvl : Nat) : CodecOk.Statement (.generationAdvance die task lvl) := fun _ _ h => nomatch h
theorem CodecOk.tagGrant (die task lvl : Nat) : CodecOk.Statement (.tagGrant die task lvl) := fun _ _ h => nomatch h
theorem CodecOk.returnTailEnd (u : Who) : CodecOk.Statement (.returnTailEnd u) := fun _ _ h => nomatch h
theorem CodecOk.settledRmwPerform (n : Nat) : CodecOk.Statement (.settledRmwPerform n) := fun _ _ h => nomatch h
theorem CodecOk.phaseEnd (die task : Nat) : CodecOk.Statement (.phaseEnd die task) := fun _ _ h => nomatch h
theorem CodecOk.configLoad (die task : Nat) : CodecOk.Statement (.configLoad die task) := fun _ _ h => nomatch h
theorem CodecOk.configFlip (die task : Nat) : CodecOk.Statement (.configFlip die task) := fun _ _ h => nomatch h
theorem CodecOk.isolationGateTimeout (die task w : Nat) : CodecOk.Statement (.isolationGateTimeout die task w) := fun _ _ h => nomatch h
theorem CodecOk.allocatorPlace (die : Nat) : CodecOk.Statement (.allocatorPlace die) := fun _ _ h => nomatch h
theorem CodecOk.strandSave (die task : Nat) : CodecOk.Statement (.strandSave die task) := fun _ _ h => nomatch h
theorem CodecOk.strandRestore (die task : Nat) : CodecOk.Statement (.strandRestore die task) := fun _ _ h => nomatch h
theorem CodecOk.priorityChangeArrival (n : Nat) : CodecOk.Statement (.priorityChangeArrival n) := fun _ _ h => nomatch h
theorem CodecOk.streamBeatRequest (die wafer e : Nat) : CodecOk.Statement (.streamBeatRequest die wafer e) := fun _ _ h => nomatch h
theorem CodecOk.streamBeatReturn (die wafer e : Nat) : CodecOk.Statement (.streamBeatReturn die wafer e) := fun _ _ h => nomatch h
theorem CodecOk.streamPendingStart (die wafer e : Nat) : CodecOk.Statement (.streamPendingStart die wafer e) := fun _ _ h => nomatch h
theorem CodecOk.memoryResponse (n : Nat) : CodecOk.Statement (.memoryResponse n) := fun _ _ h => nomatch h
theorem CodecOk.storePerform (n : Nat) : CodecOk.Statement (.storePerform n) := fun _ _ h => nomatch h
theorem CodecOk.fenceComplete (n : Nat) : CodecOk.Statement (.fenceComplete n) := fun _ _ h => nomatch h
theorem CodecOk.engineRelease (n : Nat) : CodecOk.Statement (.engineRelease n) := fun _ _ h => nomatch h
theorem CodecOk.engineOperationStart (die q : Nat) : CodecOk.Statement (.engineOperationStart die q) := fun _ _ h => nomatch h
theorem CodecOk.transferComplete (die q : Nat) : CodecOk.Statement (.transferComplete die q) := fun _ _ h => nomatch h
theorem CodecOk.migrationFinalWindow (n : Nat) : CodecOk.Statement (.migrationFinalWindow n) := fun _ _ h => nomatch h
theorem CodecOk.migrationRelease (n : Nat) : CodecOk.Statement (.migrationRelease n) := fun _ _ h => nomatch h
theorem CodecOk.gatherRowReturn (n : Nat) : CodecOk.Statement (.gatherRowReturn n) := fun _ _ h => nomatch h
theorem CodecOk.storePortApply (die wafer sel : Nat) : CodecOk.Statement (.storePortApply die wafer sel) := fun _ _ h => nomatch h
theorem CodecOk.thresholdOffer (n : Nat) : CodecOk.Statement (.thresholdOffer n) := fun _ _ h => nomatch h
theorem CodecOk.sequencePortApply (n : Nat) : CodecOk.Statement (.sequencePortApply n) := fun _ _ h => nomatch h
theorem CodecOk.glazeWriteAccept (n : Nat) : CodecOk.Statement (.glazeWriteAccept n) := fun _ _ h => nomatch h
theorem CodecOk.glazeContribution (n : Nat) : CodecOk.Statement (.glazeContribution n) := fun _ _ h => nomatch h
theorem CodecOk.glazeBarrierEnter (p : Nat) : CodecOk.Statement (.glazeBarrierEnter p) := fun _ _ h => nomatch h
theorem CodecOk.barrierFlit (p : Nat) (child : Nat) (down : Bool) : CodecOk.Statement (.barrierFlit p child down) := fun _ _ h => nomatch h
theorem CodecOk.glazeRelease (p : Nat) : CodecOk.Statement (.glazeRelease p) := fun _ _ h => nomatch h
theorem CodecOk.collectiveContribution (n : Nat) : CodecOk.Statement (.collectiveContribution n) := fun _ _ h => nomatch h
theorem CodecOk.collectiveResult (n : Nat) : CodecOk.Statement (.collectiveResult n) := fun _ _ h => nomatch h
theorem CodecOk.flitReceive (lg : Nat) (f : Flit) : CodecOk.Statement (.flitReceive lg f) := fun _ _ h => nomatch h
theorem CodecOk.laneRetrain (lg : Nat) : CodecOk.Statement (.laneRetrain lg) := fun _ _ h => nomatch h
theorem CodecOk.heartbeatSend : CodecOk.Statement (.heartbeatSend) := fun _ _ h => nomatch h
theorem CodecOk.peerFailureDetect (peer : Nat) : CodecOk.Statement (.peerFailureDetect peer) := fun _ _ h => nomatch h
theorem CodecOk.recovery (r : RecoveryStep) : CodecOk.Statement (.recovery r) := fun _ _ h => nomatch h
theorem CodecOk.backPressureCheck (die wafer : Nat) : CodecOk.Statement (.backPressureCheck die wafer) := fun _ _ h => nomatch h
theorem CodecOk.tagWaitBound (n : Nat) : CodecOk.Statement (.tagWaitBound n) := fun _ _ h => nomatch h
theorem CodecOk.yldRelease (n : Nat) : CodecOk.Statement (.yldRelease n) := fun _ _ h => nomatch h
theorem CodecOk.qwaitExpiry (die task : Nat) : CodecOk.Statement (.qwaitExpiry die task) := fun _ _ h => nomatch h
theorem CodecOk.faultTakesEffect (die task : Nat) : CodecOk.Statement (.faultTakesEffect die task) := fun _ _ h => nomatch h
theorem CodecOk.faultRecordWrite (n : Nat) : CodecOk.Statement (.faultRecordWrite n) := fun _ _ h => nomatch h
theorem CodecOk.dfncCompletion (n : Nat) : CodecOk.Statement (.dfncCompletion n) := fun _ _ h => nomatch h
theorem CodecOk.scatterCompletion (n : Nat) : CodecOk.Statement (.scatterCompletion n) := fun _ _ h => nomatch h
theorem CodecOk.retrainComplete (lg : Nat) (ok : Bool) : CodecOk.Statement (.retrainComplete lg ok) := fun _ _ h => nomatch h

end Laws

end Sys2Proof
end

