-- ==== Sys2Proof/Laws/State.lean ====
section
/-! SUPPORT. What each update of the state leaves alone: one lemma for each field of State that it does not change, all true by
unfolding the update. -/

namespace Sys2Proof.Machine

@[simp] theorem State.spent_cur (s : State) : (s.spent).cur = s.cur := rfl
@[simp] theorem State.spent_agenda (s : State) : (s.spent).agenda = s.agenda := rfl
@[simp] theorem State.spent_fab (s : State) : (s.spent).fab = s.fab := rfl
@[simp] theorem State.spent_pl (s : State) : (s.spent).pl = s.pl := rfl
@[simp] theorem State.spent_strands (s : State) : (s.spent).strands = s.strands := rfl
@[simp] theorem State.spent_sch (s : State) : (s.spent).sch = s.sch := rfl
@[simp] theorem State.spent_mem (s : State) : (s.spent).mem = s.mem := rfl
@[simp] theorem State.spent_eng (s : State) : (s.spent).eng = s.eng := rfl
@[simp] theorem State.spent_mat (s : State) : (s.spent).mat = s.mat := rfl
@[simp] theorem State.spent_tiles (s : State) : (s.spent).tiles = s.tiles := rfl
@[simp] theorem State.spent_pages (s : State) : (s.spent).pages = s.pages := rfl
@[simp] theorem State.spent_pod (s : State) : (s.spent).pod = s.pod := rfl
@[simp] theorem State.spent_flt (s : State) : (s.spent).flt = s.flt := rfl
@[simp] theorem State.spent_saved (s : State) : (s.spent).saved = s.saved := rfl
@[simp] theorem State.spent_host (s : State) : (s.spent).host = s.host := rfl

@[simp] theorem State.setStrand_cur (s : State) (st : Strand) : (s.setStrand st).cur = s.cur := rfl
@[simp] theorem State.setStrand_agenda (s : State) (st : Strand) : (s.setStrand st).agenda = s.agenda := rfl
@[simp] theorem State.setStrand_ctr (s : State) (st : Strand) : (s.setStrand st).ctr = s.ctr := rfl
@[simp] theorem State.setStrand_fab (s : State) (st : Strand) : (s.setStrand st).fab = s.fab := rfl
@[simp] theorem State.setStrand_pl (s : State) (st : Strand) : (s.setStrand st).pl = s.pl := rfl
@[simp] theorem State.setStrand_sch (s : State) (st : Strand) : (s.setStrand st).sch = s.sch := rfl
@[simp] theorem State.setStrand_mem (s : State) (st : Strand) : (s.setStrand st).mem = s.mem := rfl
@[simp] theorem State.setStrand_eng (s : State) (st : Strand) : (s.setStrand st).eng = s.eng := rfl
@[simp] theorem State.setStrand_mat (s : State) (st : Strand) : (s.setStrand st).mat = s.mat := rfl
@[simp] theorem State.setStrand_tiles (s : State) (st : Strand) : (s.setStrand st).tiles = s.tiles := rfl
@[simp] theorem State.setStrand_pages (s : State) (st : Strand) : (s.setStrand st).pages = s.pages := rfl
@[simp] theorem State.setStrand_pod (s : State) (st : Strand) : (s.setStrand st).pod = s.pod := rfl
@[simp] theorem State.setStrand_flt (s : State) (st : Strand) : (s.setStrand st).flt = s.flt := rfl
@[simp] theorem State.setStrand_saved (s : State) (st : Strand) : (s.setStrand st).saved = s.saved := rfl
@[simp] theorem State.setStrand_host (s : State) (st : Strand) : (s.setStrand st).host = s.host := rfl

@[simp] theorem State.onStrand_cur (s : State) (die task : Nat) (f : Strand → Strand) : (s.onStrand die task f).cur = s.cur := rfl
@[simp] theorem State.onStrand_agenda (s : State) (die task : Nat) (f : Strand → Strand) : (s.onStrand die task f).agenda = s.agenda := rfl
@[simp] theorem State.onStrand_ctr (s : State) (die task : Nat) (f : Strand → Strand) : (s.onStrand die task f).ctr = s.ctr := rfl
@[simp] theorem State.onStrand_fab (s : State) (die task : Nat) (f : Strand → Strand) : (s.onStrand die task f).fab = s.fab := rfl
@[simp] theorem State.onStrand_pl (s : State) (die task : Nat) (f : Strand → Strand) : (s.onStrand die task f).pl = s.pl := rfl
@[simp] theorem State.onStrand_sch (s : State) (die task : Nat) (f : Strand → Strand) : (s.onStrand die task f).sch = s.sch := rfl
@[simp] theorem State.onStrand_mem (s : State) (die task : Nat) (f : Strand → Strand) : (s.onStrand die task f).mem = s.mem := rfl
@[simp] theorem State.onStrand_eng (s : State) (die task : Nat) (f : Strand → Strand) : (s.onStrand die task f).eng = s.eng := rfl
@[simp] theorem State.onStrand_mat (s : State) (die task : Nat) (f : Strand → Strand) : (s.onStrand die task f).mat = s.mat := rfl
@[simp] theorem State.onStrand_tiles (s : State) (die task : Nat) (f : Strand → Strand) : (s.onStrand die task f).tiles = s.tiles := rfl
@[simp] theorem State.onStrand_pages (s : State) (die task : Nat) (f : Strand → Strand) : (s.onStrand die task f).pages = s.pages := rfl
@[simp] theorem State.onStrand_pod (s : State) (die task : Nat) (f : Strand → Strand) : (s.onStrand die task f).pod = s.pod := rfl
@[simp] theorem State.onStrand_flt (s : State) (die task : Nat) (f : Strand → Strand) : (s.onStrand die task f).flt = s.flt := rfl
@[simp] theorem State.onStrand_saved (s : State) (die task : Nat) (f : Strand → Strand) : (s.onStrand die task f).saved = s.saved := rfl
@[simp] theorem State.onStrand_host (s : State) (die task : Nat) (f : Strand → Strand) : (s.onStrand die task f).host = s.host := rfl

@[simp] theorem State.setCtx_cur (s : State) (c : Ctx) (x : CtxState) : (s.setCtx c x).cur = s.cur := rfl
@[simp] theorem State.setCtx_agenda (s : State) (c : Ctx) (x : CtxState) : (s.setCtx c x).agenda = s.agenda := rfl
@[simp] theorem State.setCtx_ctr (s : State) (c : Ctx) (x : CtxState) : (s.setCtx c x).ctr = s.ctr := rfl
@[simp] theorem State.setCtx_fab (s : State) (c : Ctx) (x : CtxState) : (s.setCtx c x).fab = s.fab := rfl
@[simp] theorem State.setCtx_strands (s : State) (c : Ctx) (x : CtxState) : (s.setCtx c x).strands = s.strands := rfl
@[simp] theorem State.setCtx_sch (s : State) (c : Ctx) (x : CtxState) : (s.setCtx c x).sch = s.sch := rfl
@[simp] theorem State.setCtx_mem (s : State) (c : Ctx) (x : CtxState) : (s.setCtx c x).mem = s.mem := rfl
@[simp] theorem State.setCtx_eng (s : State) (c : Ctx) (x : CtxState) : (s.setCtx c x).eng = s.eng := rfl
@[simp] theorem State.setCtx_mat (s : State) (c : Ctx) (x : CtxState) : (s.setCtx c x).mat = s.mat := rfl
@[simp] theorem State.setCtx_tiles (s : State) (c : Ctx) (x : CtxState) : (s.setCtx c x).tiles = s.tiles := rfl
@[simp] theorem State.setCtx_pages (s : State) (c : Ctx) (x : CtxState) : (s.setCtx c x).pages = s.pages := rfl
@[simp] theorem State.setCtx_pod (s : State) (c : Ctx) (x : CtxState) : (s.setCtx c x).pod = s.pod := rfl
@[simp] theorem State.setCtx_flt (s : State) (c : Ctx) (x : CtxState) : (s.setCtx c x).flt = s.flt := rfl
@[simp] theorem State.setCtx_saved (s : State) (c : Ctx) (x : CtxState) : (s.setCtx c x).saved = s.saved := rfl
@[simp] theorem State.setCtx_host (s : State) (c : Ctx) (x : CtxState) : (s.setCtx c x).host = s.host := rfl

@[simp] theorem State.setVc_cur (s : State) (die wafer : Nat) (cells : List Nat) (vc : Nat) (e : BitVec 32) : (s.setVc die wafer cells vc e).cur = s.cur := rfl
@[simp] theorem State.setVc_agenda (s : State) (die wafer : Nat) (cells : List Nat) (vc : Nat) (e : BitVec 32) : (s.setVc die wafer cells vc e).agenda = s.agenda := rfl
@[simp] theorem State.setVc_ctr (s : State) (die wafer : Nat) (cells : List Nat) (vc : Nat) (e : BitVec 32) : (s.setVc die wafer cells vc e).ctr = s.ctr := rfl
@[simp] theorem State.setVc_fab (s : State) (die wafer : Nat) (cells : List Nat) (vc : Nat) (e : BitVec 32) : (s.setVc die wafer cells vc e).fab = s.fab := rfl
@[simp] theorem State.setVc_strands (s : State) (die wafer : Nat) (cells : List Nat) (vc : Nat) (e : BitVec 32) : (s.setVc die wafer cells vc e).strands = s.strands := rfl
@[simp] theorem State.setVc_sch (s : State) (die wafer : Nat) (cells : List Nat) (vc : Nat) (e : BitVec 32) : (s.setVc die wafer cells vc e).sch = s.sch := rfl
@[simp] theorem State.setVc_mem (s : State) (die wafer : Nat) (cells : List Nat) (vc : Nat) (e : BitVec 32) : (s.setVc die wafer cells vc e).mem = s.mem := rfl
@[simp] theorem State.setVc_eng (s : State) (die wafer : Nat) (cells : List Nat) (vc : Nat) (e : BitVec 32) : (s.setVc die wafer cells vc e).eng = s.eng := rfl
@[simp] theorem State.setVc_mat (s : State) (die wafer : Nat) (cells : List Nat) (vc : Nat) (e : BitVec 32) : (s.setVc die wafer cells vc e).mat = s.mat := rfl
@[simp] theorem State.setVc_tiles (s : State) (die wafer : Nat) (cells : List Nat) (vc : Nat) (e : BitVec 32) : (s.setVc die wafer cells vc e).tiles = s.tiles := rfl
@[simp] theorem State.setVc_pages (s : State) (die wafer : Nat) (cells : List Nat) (vc : Nat) (e : BitVec 32) : (s.setVc die wafer cells vc e).pages = s.pages := rfl
@[simp] theorem State.setVc_pod (s : State) (die wafer : Nat) (cells : List Nat) (vc : Nat) (e : BitVec 32) : (s.setVc die wafer cells vc e).pod = s.pod := rfl
@[simp] theorem State.setVc_flt (s : State) (die wafer : Nat) (cells : List Nat) (vc : Nat) (e : BitVec 32) : (s.setVc die wafer cells vc e).flt = s.flt := rfl
@[simp] theorem State.setVc_saved (s : State) (die wafer : Nat) (cells : List Nat) (vc : Nat) (e : BitVec 32) : (s.setVc die wafer cells vc e).saved = s.saved := rfl
@[simp] theorem State.setVc_host (s : State) (die wafer : Nat) (cells : List Nat) (vc : Nat) (e : BitVec 32) : (s.setVc die wafer cells vc e).host = s.host := rfl

@[simp] theorem State.setStream_cur (s : State) (die wafer e : Nat) (x : Stream) : (s.setStream die wafer e x).cur = s.cur := rfl
@[simp] theorem State.setStream_agenda (s : State) (die wafer e : Nat) (x : Stream) : (s.setStream die wafer e x).agenda = s.agenda := rfl
@[simp] theorem State.setStream_ctr (s : State) (die wafer e : Nat) (x : Stream) : (s.setStream die wafer e x).ctr = s.ctr := rfl
@[simp] theorem State.setStream_fab (s : State) (die wafer e : Nat) (x : Stream) : (s.setStream die wafer e x).fab = s.fab := rfl
@[simp] theorem State.setStream_pl (s : State) (die wafer e : Nat) (x : Stream) : (s.setStream die wafer e x).pl = s.pl := rfl
@[simp] theorem State.setStream_strands (s : State) (die wafer e : Nat) (x : Stream) : (s.setStream die wafer e x).strands = s.strands := rfl
@[simp] theorem State.setStream_sch (s : State) (die wafer e : Nat) (x : Stream) : (s.setStream die wafer e x).sch = s.sch := rfl
@[simp] theorem State.setStream_mem (s : State) (die wafer e : Nat) (x : Stream) : (s.setStream die wafer e x).mem = s.mem := rfl
@[simp] theorem State.setStream_mat (s : State) (die wafer e : Nat) (x : Stream) : (s.setStream die wafer e x).mat = s.mat := rfl
@[simp] theorem State.setStream_tiles (s : State) (die wafer e : Nat) (x : Stream) : (s.setStream die wafer e x).tiles = s.tiles := rfl
@[simp] theorem State.setStream_pages (s : State) (die wafer e : Nat) (x : Stream) : (s.setStream die wafer e x).pages = s.pages := rfl
@[simp] theorem State.setStream_pod (s : State) (die wafer e : Nat) (x : Stream) : (s.setStream die wafer e x).pod = s.pod := rfl
@[simp] theorem State.setStream_flt (s : State) (die wafer e : Nat) (x : Stream) : (s.setStream die wafer e x).flt = s.flt := rfl
@[simp] theorem State.setStream_saved (s : State) (die wafer e : Nat) (x : Stream) : (s.setStream die wafer e x).saved = s.saved := rfl
@[simp] theorem State.setStream_host (s : State) (die wafer e : Nat) (x : Stream) : (s.setStream die wafer e x).host = s.host := rfl

@[simp] theorem State.setQueue_cur (s : State) (die q : Nat) (l : List QEnt) : (s.setQueue die q l).cur = s.cur := rfl
@[simp] theorem State.setQueue_agenda (s : State) (die q : Nat) (l : List QEnt) : (s.setQueue die q l).agenda = s.agenda := rfl
@[simp] theorem State.setQueue_ctr (s : State) (die q : Nat) (l : List QEnt) : (s.setQueue die q l).ctr = s.ctr := rfl
@[simp] theorem State.setQueue_fab (s : State) (die q : Nat) (l : List QEnt) : (s.setQueue die q l).fab = s.fab := rfl
@[simp] theorem State.setQueue_pl (s : State) (die q : Nat) (l : List QEnt) : (s.setQueue die q l).pl = s.pl := rfl
@[simp] theorem State.setQueue_strands (s : State) (die q : Nat) (l : List QEnt) : (s.setQueue die q l).strands = s.strands := rfl
@[simp] theorem State.setQueue_sch (s : State) (die q : Nat) (l : List QEnt) : (s.setQueue die q l).sch = s.sch := rfl
@[simp] theorem State.setQueue_mem (s : State) (die q : Nat) (l : List QEnt) : (s.setQueue die q l).mem = s.mem := rfl
@[simp] theorem State.setQueue_mat (s : State) (die q : Nat) (l : List QEnt) : (s.setQueue die q l).mat = s.mat := rfl
@[simp] theorem State.setQueue_tiles (s : State) (die q : Nat) (l : List QEnt) : (s.setQueue die q l).tiles = s.tiles := rfl
@[simp] theorem State.setQueue_pages (s : State) (die q : Nat) (l : List QEnt) : (s.setQueue die q l).pages = s.pages := rfl
@[simp] theorem State.setQueue_pod (s : State) (die q : Nat) (l : List QEnt) : (s.setQueue die q l).pod = s.pod := rfl
@[simp] theorem State.setQueue_flt (s : State) (die q : Nat) (l : List QEnt) : (s.setQueue die q l).flt = s.flt := rfl
@[simp] theorem State.setQueue_saved (s : State) (die q : Nat) (l : List QEnt) : (s.setQueue die q l).saved = s.saved := rfl
@[simp] theorem State.setQueue_host (s : State) (die q : Nat) (l : List QEnt) : (s.setQueue die q l).host = s.host := rfl

@[simp] theorem State.setColl_cur (s : State) (n : Nat) (c : Coll) : (s.setColl n c).cur = s.cur := rfl
@[simp] theorem State.setColl_agenda (s : State) (n : Nat) (c : Coll) : (s.setColl n c).agenda = s.agenda := rfl
@[simp] theorem State.setColl_ctr (s : State) (n : Nat) (c : Coll) : (s.setColl n c).ctr = s.ctr := rfl
@[simp] theorem State.setColl_fab (s : State) (n : Nat) (c : Coll) : (s.setColl n c).fab = s.fab := rfl
@[simp] theorem State.setColl_pl (s : State) (n : Nat) (c : Coll) : (s.setColl n c).pl = s.pl := rfl
@[simp] theorem State.setColl_strands (s : State) (n : Nat) (c : Coll) : (s.setColl n c).strands = s.strands := rfl
@[simp] theorem State.setColl_sch (s : State) (n : Nat) (c : Coll) : (s.setColl n c).sch = s.sch := rfl
@[simp] theorem State.setColl_mem (s : State) (n : Nat) (c : Coll) : (s.setColl n c).mem = s.mem := rfl
@[simp] theorem State.setColl_mat (s : State) (n : Nat) (c : Coll) : (s.setColl n c).mat = s.mat := rfl
@[simp] theorem State.setColl_tiles (s : State) (n : Nat) (c : Coll) : (s.setColl n c).tiles = s.tiles := rfl
@[simp] theorem State.setColl_pages (s : State) (n : Nat) (c : Coll) : (s.setColl n c).pages = s.pages := rfl
@[simp] theorem State.setColl_pod (s : State) (n : Nat) (c : Coll) : (s.setColl n c).pod = s.pod := rfl
@[simp] theorem State.setColl_flt (s : State) (n : Nat) (c : Coll) : (s.setColl n c).flt = s.flt := rfl
@[simp] theorem State.setColl_saved (s : State) (n : Nat) (c : Coll) : (s.setColl n c).saved = s.saved := rfl
@[simp] theorem State.setColl_host (s : State) (n : Nat) (c : Coll) : (s.setColl n c).host = s.host := rfl

@[simp] theorem State.setStore_cur (s : State) (key : Nat) (x : Store) : (s.setStore key x).cur = s.cur := rfl
@[simp] theorem State.setStore_agenda (s : State) (key : Nat) (x : Store) : (s.setStore key x).agenda = s.agenda := rfl
@[simp] theorem State.setStore_ctr (s : State) (key : Nat) (x : Store) : (s.setStore key x).ctr = s.ctr := rfl
@[simp] theorem State.setStore_fab (s : State) (key : Nat) (x : Store) : (s.setStore key x).fab = s.fab := rfl
@[simp] theorem State.setStore_pl (s : State) (key : Nat) (x : Store) : (s.setStore key x).pl = s.pl := rfl
@[simp] theorem State.setStore_strands (s : State) (key : Nat) (x : Store) : (s.setStore key x).strands = s.strands := rfl
@[simp] theorem State.setStore_sch (s : State) (key : Nat) (x : Store) : (s.setStore key x).sch = s.sch := rfl
@[simp] theorem State.setStore_mem (s : State) (key : Nat) (x : Store) : (s.setStore key x).mem = s.mem := rfl
@[simp] theorem State.setStore_eng (s : State) (key : Nat) (x : Store) : (s.setStore key x).eng = s.eng := rfl
@[simp] theorem State.setStore_tiles (s : State) (key : Nat) (x : Store) : (s.setStore key x).tiles = s.tiles := rfl
@[simp] theorem State.setStore_pages (s : State) (key : Nat) (x : Store) : (s.setStore key x).pages = s.pages := rfl
@[simp] theorem State.setStore_pod (s : State) (key : Nat) (x : Store) : (s.setStore key x).pod = s.pod := rfl
@[simp] theorem State.setStore_flt (s : State) (key : Nat) (x : Store) : (s.setStore key x).flt = s.flt := rfl
@[simp] theorem State.setStore_saved (s : State) (key : Nat) (x : Store) : (s.setStore key x).saved = s.saved := rfl
@[simp] theorem State.setStore_host (s : State) (key : Nat) (x : Store) : (s.setStore key x).host = s.host := rfl

@[simp] theorem State.reserve_cur (s : State) (key : Nat) : (s.reserve key).cur = s.cur := rfl
@[simp] theorem State.reserve_agenda (s : State) (key : Nat) : (s.reserve key).agenda = s.agenda := rfl
@[simp] theorem State.reserve_ctr (s : State) (key : Nat) : (s.reserve key).ctr = s.ctr := rfl
@[simp] theorem State.reserve_fab (s : State) (key : Nat) : (s.reserve key).fab = s.fab := rfl
@[simp] theorem State.reserve_pl (s : State) (key : Nat) : (s.reserve key).pl = s.pl := rfl
@[simp] theorem State.reserve_strands (s : State) (key : Nat) : (s.reserve key).strands = s.strands := rfl
@[simp] theorem State.reserve_sch (s : State) (key : Nat) : (s.reserve key).sch = s.sch := rfl
@[simp] theorem State.reserve_mem (s : State) (key : Nat) : (s.reserve key).mem = s.mem := rfl
@[simp] theorem State.reserve_eng (s : State) (key : Nat) : (s.reserve key).eng = s.eng := rfl
@[simp] theorem State.reserve_tiles (s : State) (key : Nat) : (s.reserve key).tiles = s.tiles := rfl
@[simp] theorem State.reserve_pages (s : State) (key : Nat) : (s.reserve key).pages = s.pages := rfl
@[simp] theorem State.reserve_pod (s : State) (key : Nat) : (s.reserve key).pod = s.pod := rfl
@[simp] theorem State.reserve_flt (s : State) (key : Nat) : (s.reserve key).flt = s.flt := rfl
@[simp] theorem State.reserve_saved (s : State) (key : Nat) : (s.reserve key).saved = s.saved := rfl
@[simp] theorem State.reserve_host (s : State) (key : Nat) : (s.reserve key).host = s.host := rfl

@[simp] theorem State.setTile_cur (s : State) (n : Node) (t : Tile) : (s.setTile n t).cur = s.cur := rfl
@[simp] theorem State.setTile_agenda (s : State) (n : Node) (t : Tile) : (s.setTile n t).agenda = s.agenda := rfl
@[simp] theorem State.setTile_ctr (s : State) (n : Node) (t : Tile) : (s.setTile n t).ctr = s.ctr := rfl
@[simp] theorem State.setTile_fab (s : State) (n : Node) (t : Tile) : (s.setTile n t).fab = s.fab := rfl
@[simp] theorem State.setTile_pl (s : State) (n : Node) (t : Tile) : (s.setTile n t).pl = s.pl := rfl
@[simp] theorem State.setTile_strands (s : State) (n : Node) (t : Tile) : (s.setTile n t).strands = s.strands := rfl
@[simp] theorem State.setTile_sch (s : State) (n : Node) (t : Tile) : (s.setTile n t).sch = s.sch := rfl
@[simp] theorem State.setTile_mem (s : State) (n : Node) (t : Tile) : (s.setTile n t).mem = s.mem := rfl
@[simp] theorem State.setTile_eng (s : State) (n : Node) (t : Tile) : (s.setTile n t).eng = s.eng := rfl
@[simp] theorem State.setTile_mat (s : State) (n : Node) (t : Tile) : (s.setTile n t).mat = s.mat := rfl
@[simp] theorem State.setTile_pages (s : State) (n : Node) (t : Tile) : (s.setTile n t).pages = s.pages := rfl
@[simp] theorem State.setTile_pod (s : State) (n : Node) (t : Tile) : (s.setTile n t).pod = s.pod := rfl
@[simp] theorem State.setTile_flt (s : State) (n : Node) (t : Tile) : (s.setTile n t).flt = s.flt := rfl
@[simp] theorem State.setTile_saved (s : State) (n : Node) (t : Tile) : (s.setTile n t).saved = s.saved := rfl
@[simp] theorem State.setTile_host (s : State) (n : Node) (t : Tile) : (s.setTile n t).host = s.host := rfl

@[simp] theorem State.setLink_cur (s : State) (lg : Nat) (l : Link) : (s.setLink lg l).cur = s.cur := rfl
@[simp] theorem State.setLink_agenda (s : State) (lg : Nat) (l : Link) : (s.setLink lg l).agenda = s.agenda := rfl
@[simp] theorem State.setLink_ctr (s : State) (lg : Nat) (l : Link) : (s.setLink lg l).ctr = s.ctr := rfl
@[simp] theorem State.setLink_fab (s : State) (lg : Nat) (l : Link) : (s.setLink lg l).fab = s.fab := rfl
@[simp] theorem State.setLink_pl (s : State) (lg : Nat) (l : Link) : (s.setLink lg l).pl = s.pl := rfl
@[simp] theorem State.setLink_strands (s : State) (lg : Nat) (l : Link) : (s.setLink lg l).strands = s.strands := rfl
@[simp] theorem State.setLink_sch (s : State) (lg : Nat) (l : Link) : (s.setLink lg l).sch = s.sch := rfl
@[simp] theorem State.setLink_mem (s : State) (lg : Nat) (l : Link) : (s.setLink lg l).mem = s.mem := rfl
@[simp] theorem State.setLink_eng (s : State) (lg : Nat) (l : Link) : (s.setLink lg l).eng = s.eng := rfl
@[simp] theorem State.setLink_mat (s : State) (lg : Nat) (l : Link) : (s.setLink lg l).mat = s.mat := rfl
@[simp] theorem State.setLink_tiles (s : State) (lg : Nat) (l : Link) : (s.setLink lg l).tiles = s.tiles := rfl
@[simp] theorem State.setLink_pages (s : State) (lg : Nat) (l : Link) : (s.setLink lg l).pages = s.pages := rfl
@[simp] theorem State.setLink_flt (s : State) (lg : Nat) (l : Link) : (s.setLink lg l).flt = s.flt := rfl
@[simp] theorem State.setLink_saved (s : State) (lg : Nat) (l : Link) : (s.setLink lg l).saved = s.saved := rfl
@[simp] theorem State.setLink_host (s : State) (lg : Nat) (l : Link) : (s.setLink lg l).host = s.host := rfl

@[simp] theorem State.setDomain_cur (s : State) (p : Nat) (d : Domain) : (s.setDomain p d).cur = s.cur := rfl
@[simp] theorem State.setDomain_agenda (s : State) (p : Nat) (d : Domain) : (s.setDomain p d).agenda = s.agenda := rfl
@[simp] theorem State.setDomain_ctr (s : State) (p : Nat) (d : Domain) : (s.setDomain p d).ctr = s.ctr := rfl
@[simp] theorem State.setDomain_fab (s : State) (p : Nat) (d : Domain) : (s.setDomain p d).fab = s.fab := rfl
@[simp] theorem State.setDomain_pl (s : State) (p : Nat) (d : Domain) : (s.setDomain p d).pl = s.pl := rfl
@[simp] theorem State.setDomain_strands (s : State) (p : Nat) (d : Domain) : (s.setDomain p d).strands = s.strands := rfl
@[simp] theorem State.setDomain_sch (s : State) (p : Nat) (d : Domain) : (s.setDomain p d).sch = s.sch := rfl
@[simp] theorem State.setDomain_mem (s : State) (p : Nat) (d : Domain) : (s.setDomain p d).mem = s.mem := rfl
@[simp] theorem State.setDomain_eng (s : State) (p : Nat) (d : Domain) : (s.setDomain p d).eng = s.eng := rfl
@[simp] theorem State.setDomain_mat (s : State) (p : Nat) (d : Domain) : (s.setDomain p d).mat = s.mat := rfl
@[simp] theorem State.setDomain_tiles (s : State) (p : Nat) (d : Domain) : (s.setDomain p d).tiles = s.tiles := rfl
@[simp] theorem State.setDomain_pages (s : State) (p : Nat) (d : Domain) : (s.setDomain p d).pages = s.pages := rfl
@[simp] theorem State.setDomain_flt (s : State) (p : Nat) (d : Domain) : (s.setDomain p d).flt = s.flt := rfl
@[simp] theorem State.setDomain_saved (s : State) (p : Nat) (d : Domain) : (s.setDomain p d).saved = s.saved := rfl
@[simp] theorem State.setDomain_host (s : State) (p : Nat) (d : Domain) : (s.setDomain p d).host = s.host := rfl

@[simp] theorem State.setKept_cur (s : State) (x : Kept) : (s.setKept x).cur = s.cur := rfl
@[simp] theorem State.setKept_agenda (s : State) (x : Kept) : (s.setKept x).agenda = s.agenda := rfl
@[simp] theorem State.setKept_ctr (s : State) (x : Kept) : (s.setKept x).ctr = s.ctr := rfl
@[simp] theorem State.setKept_pl (s : State) (x : Kept) : (s.setKept x).pl = s.pl := rfl
@[simp] theorem State.setKept_strands (s : State) (x : Kept) : (s.setKept x).strands = s.strands := rfl
@[simp] theorem State.setKept_sch (s : State) (x : Kept) : (s.setKept x).sch = s.sch := rfl
@[simp] theorem State.setKept_mem (s : State) (x : Kept) : (s.setKept x).mem = s.mem := rfl
@[simp] theorem State.setKept_eng (s : State) (x : Kept) : (s.setKept x).eng = s.eng := rfl
@[simp] theorem State.setKept_mat (s : State) (x : Kept) : (s.setKept x).mat = s.mat := rfl
@[simp] theorem State.setKept_tiles (s : State) (x : Kept) : (s.setKept x).tiles = s.tiles := rfl
@[simp] theorem State.setKept_pages (s : State) (x : Kept) : (s.setKept x).pages = s.pages := rfl
@[simp] theorem State.setKept_pod (s : State) (x : Kept) : (s.setKept x).pod = s.pod := rfl
@[simp] theorem State.setKept_flt (s : State) (x : Kept) : (s.setKept x).flt = s.flt := rfl
@[simp] theorem State.setKept_saved (s : State) (x : Kept) : (s.setKept x).saved = s.saved := rfl
@[simp] theorem State.setKept_host (s : State) (x : Kept) : (s.setKept x).host = s.host := rfl

@[simp] theorem State.unkeep_cur (s : State) (n : Node) (k : Key) : (s.unkeep n k).cur = s.cur := rfl
@[simp] theorem State.unkeep_agenda (s : State) (n : Node) (k : Key) : (s.unkeep n k).agenda = s.agenda := rfl
@[simp] theorem State.unkeep_ctr (s : State) (n : Node) (k : Key) : (s.unkeep n k).ctr = s.ctr := rfl
@[simp] theorem State.unkeep_pl (s : State) (n : Node) (k : Key) : (s.unkeep n k).pl = s.pl := rfl
@[simp] theorem State.unkeep_strands (s : State) (n : Node) (k : Key) : (s.unkeep n k).strands = s.strands := rfl
@[simp] theorem State.unkeep_sch (s : State) (n : Node) (k : Key) : (s.unkeep n k).sch = s.sch := rfl
@[simp] theorem State.unkeep_mem (s : State) (n : Node) (k : Key) : (s.unkeep n k).mem = s.mem := rfl
@[simp] theorem State.unkeep_eng (s : State) (n : Node) (k : Key) : (s.unkeep n k).eng = s.eng := rfl
@[simp] theorem State.unkeep_mat (s : State) (n : Node) (k : Key) : (s.unkeep n k).mat = s.mat := rfl
@[simp] theorem State.unkeep_tiles (s : State) (n : Node) (k : Key) : (s.unkeep n k).tiles = s.tiles := rfl
@[simp] theorem State.unkeep_pages (s : State) (n : Node) (k : Key) : (s.unkeep n k).pages = s.pages := rfl
@[simp] theorem State.unkeep_pod (s : State) (n : Node) (k : Key) : (s.unkeep n k).pod = s.pod := rfl
@[simp] theorem State.unkeep_flt (s : State) (n : Node) (k : Key) : (s.unkeep n k).flt = s.flt := rfl
@[simp] theorem State.unkeep_saved (s : State) (n : Node) (k : Key) : (s.unkeep n k).saved = s.saved := rfl
@[simp] theorem State.unkeep_host (s : State) (n : Node) (k : Key) : (s.unkeep n k).host = s.host := rfl

@[simp] theorem State.setWindow_cur (s : State) (m : Mrgo) : (s.setWindow m).cur = s.cur := rfl
@[simp] theorem State.setWindow_agenda (s : State) (m : Mrgo) : (s.setWindow m).agenda = s.agenda := rfl
@[simp] theorem State.setWindow_ctr (s : State) (m : Mrgo) : (s.setWindow m).ctr = s.ctr := rfl
@[simp] theorem State.setWindow_pl (s : State) (m : Mrgo) : (s.setWindow m).pl = s.pl := rfl
@[simp] theorem State.setWindow_strands (s : State) (m : Mrgo) : (s.setWindow m).strands = s.strands := rfl
@[simp] theorem State.setWindow_sch (s : State) (m : Mrgo) : (s.setWindow m).sch = s.sch := rfl
@[simp] theorem State.setWindow_mem (s : State) (m : Mrgo) : (s.setWindow m).mem = s.mem := rfl
@[simp] theorem State.setWindow_eng (s : State) (m : Mrgo) : (s.setWindow m).eng = s.eng := rfl
@[simp] theorem State.setWindow_mat (s : State) (m : Mrgo) : (s.setWindow m).mat = s.mat := rfl
@[simp] theorem State.setWindow_tiles (s : State) (m : Mrgo) : (s.setWindow m).tiles = s.tiles := rfl
@[simp] theorem State.setWindow_pages (s : State) (m : Mrgo) : (s.setWindow m).pages = s.pages := rfl
@[simp] theorem State.setWindow_pod (s : State) (m : Mrgo) : (s.setWindow m).pod = s.pod := rfl
@[simp] theorem State.setWindow_flt (s : State) (m : Mrgo) : (s.setWindow m).flt = s.flt := rfl
@[simp] theorem State.setWindow_saved (s : State) (m : Mrgo) : (s.setWindow m).saved = s.saved := rfl
@[simp] theorem State.setWindow_host (s : State) (m : Mrgo) : (s.setWindow m).host = s.host := rfl

@[simp] theorem State.markIssued_cur (s : State) (n : Node) : (s.markIssued n).cur = s.cur := rfl
@[simp] theorem State.markIssued_agenda (s : State) (n : Node) : (s.markIssued n).agenda = s.agenda := rfl
@[simp] theorem State.markIssued_ctr (s : State) (n : Node) : (s.markIssued n).ctr = s.ctr := rfl
@[simp] theorem State.markIssued_pl (s : State) (n : Node) : (s.markIssued n).pl = s.pl := rfl
@[simp] theorem State.markIssued_strands (s : State) (n : Node) : (s.markIssued n).strands = s.strands := rfl
@[simp] theorem State.markIssued_sch (s : State) (n : Node) : (s.markIssued n).sch = s.sch := rfl
@[simp] theorem State.markIssued_mem (s : State) (n : Node) : (s.markIssued n).mem = s.mem := rfl
@[simp] theorem State.markIssued_eng (s : State) (n : Node) : (s.markIssued n).eng = s.eng := rfl
@[simp] theorem State.markIssued_mat (s : State) (n : Node) : (s.markIssued n).mat = s.mat := rfl
@[simp] theorem State.markIssued_tiles (s : State) (n : Node) : (s.markIssued n).tiles = s.tiles := rfl
@[simp] theorem State.markIssued_pages (s : State) (n : Node) : (s.markIssued n).pages = s.pages := rfl
@[simp] theorem State.markIssued_pod (s : State) (n : Node) : (s.markIssued n).pod = s.pod := rfl
@[simp] theorem State.markIssued_flt (s : State) (n : Node) : (s.markIssued n).flt = s.flt := rfl
@[simp] theorem State.markIssued_saved (s : State) (n : Node) : (s.markIssued n).saved = s.saved := rfl
@[simp] theorem State.markIssued_host (s : State) (n : Node) : (s.markIssued n).host = s.host := rfl


@[simp] theorem State.setPoi_cur (s : State) (sec : Nat) (p : Bool) : (s.setPoi sec p).cur = s.cur := rfl
@[simp] theorem State.setPoi_agenda (s : State) (sec : Nat) (p : Bool) : (s.setPoi sec p).agenda = s.agenda := rfl
@[simp] theorem State.setPoi_ctr (s : State) (sec : Nat) (p : Bool) : (s.setPoi sec p).ctr = s.ctr := rfl
@[simp] theorem State.setPoi_fab (s : State) (sec : Nat) (p : Bool) : (s.setPoi sec p).fab = s.fab := rfl
@[simp] theorem State.setPoi_pl (s : State) (sec : Nat) (p : Bool) : (s.setPoi sec p).pl = s.pl := rfl
@[simp] theorem State.setPoi_strands (s : State) (sec : Nat) (p : Bool) : (s.setPoi sec p).strands = s.strands := rfl
@[simp] theorem State.setPoi_sch (s : State) (sec : Nat) (p : Bool) : (s.setPoi sec p).sch = s.sch := rfl
@[simp] theorem State.setPoi_eng (s : State) (sec : Nat) (p : Bool) : (s.setPoi sec p).eng = s.eng := rfl
@[simp] theorem State.setPoi_mat (s : State) (sec : Nat) (p : Bool) : (s.setPoi sec p).mat = s.mat := rfl
@[simp] theorem State.setPoi_tiles (s : State) (sec : Nat) (p : Bool) : (s.setPoi sec p).tiles = s.tiles := rfl
@[simp] theorem State.setPoi_pages (s : State) (sec : Nat) (p : Bool) : (s.setPoi sec p).pages = s.pages := rfl
@[simp] theorem State.setPoi_pod (s : State) (sec : Nat) (p : Bool) : (s.setPoi sec p).pod = s.pod := rfl
@[simp] theorem State.setPoi_flt (s : State) (sec : Nat) (p : Bool) : (s.setPoi sec p).flt = s.flt := rfl
@[simp] theorem State.setPoi_saved (s : State) (sec : Nat) (p : Bool) : (s.setPoi sec p).saved = s.saved := rfl
@[simp] theorem State.setPoi_host (s : State) (sec : Nat) (p : Bool) : (s.setPoi sec p).host = s.host := rfl

@[simp] theorem State.dropRmw_cur (s : State) (r : Rmw) : (s.dropRmw r).cur = s.cur := rfl
@[simp] theorem State.dropRmw_agenda (s : State) (r : Rmw) : (s.dropRmw r).agenda = s.agenda := rfl
@[simp] theorem State.dropRmw_ctr (s : State) (r : Rmw) : (s.dropRmw r).ctr = s.ctr := rfl
@[simp] theorem State.dropRmw_fab (s : State) (r : Rmw) : (s.dropRmw r).fab = s.fab := rfl
@[simp] theorem State.dropRmw_pl (s : State) (r : Rmw) : (s.dropRmw r).pl = s.pl := rfl
@[simp] theorem State.dropRmw_strands (s : State) (r : Rmw) : (s.dropRmw r).strands = s.strands := rfl
@[simp] theorem State.dropRmw_sch (s : State) (r : Rmw) : (s.dropRmw r).sch = s.sch := rfl
@[simp] theorem State.dropRmw_eng (s : State) (r : Rmw) : (s.dropRmw r).eng = s.eng := rfl
@[simp] theorem State.dropRmw_mat (s : State) (r : Rmw) : (s.dropRmw r).mat = s.mat := rfl
@[simp] theorem State.dropRmw_tiles (s : State) (r : Rmw) : (s.dropRmw r).tiles = s.tiles := rfl
@[simp] theorem State.dropRmw_pages (s : State) (r : Rmw) : (s.dropRmw r).pages = s.pages := rfl
@[simp] theorem State.dropRmw_pod (s : State) (r : Rmw) : (s.dropRmw r).pod = s.pod := rfl
@[simp] theorem State.dropRmw_flt (s : State) (r : Rmw) : (s.dropRmw r).flt = s.flt := rfl
@[simp] theorem State.dropRmw_saved (s : State) (r : Rmw) : (s.dropRmw r).saved = s.saved := rfl
@[simp] theorem State.dropRmw_host (s : State) (r : Rmw) : (s.dropRmw r).host = s.host := rfl

@[simp] theorem State.dropPend_cur (s : State) (q : Nat) : (s.dropPend q).cur = s.cur := rfl
@[simp] theorem State.dropPend_agenda (s : State) (q : Nat) : (s.dropPend q).agenda = s.agenda := rfl
@[simp] theorem State.dropPend_ctr (s : State) (q : Nat) : (s.dropPend q).ctr = s.ctr := rfl
@[simp] theorem State.dropPend_fab (s : State) (q : Nat) : (s.dropPend q).fab = s.fab := rfl
@[simp] theorem State.dropPend_pl (s : State) (q : Nat) : (s.dropPend q).pl = s.pl := rfl
@[simp] theorem State.dropPend_strands (s : State) (q : Nat) : (s.dropPend q).strands = s.strands := rfl
@[simp] theorem State.dropPend_sch (s : State) (q : Nat) : (s.dropPend q).sch = s.sch := rfl
@[simp] theorem State.dropPend_eng (s : State) (q : Nat) : (s.dropPend q).eng = s.eng := rfl
@[simp] theorem State.dropPend_mat (s : State) (q : Nat) : (s.dropPend q).mat = s.mat := rfl
@[simp] theorem State.dropPend_tiles (s : State) (q : Nat) : (s.dropPend q).tiles = s.tiles := rfl
@[simp] theorem State.dropPend_pages (s : State) (q : Nat) : (s.dropPend q).pages = s.pages := rfl
@[simp] theorem State.dropPend_pod (s : State) (q : Nat) : (s.dropPend q).pod = s.pod := rfl
@[simp] theorem State.dropPend_flt (s : State) (q : Nat) : (s.dropPend q).flt = s.flt := rfl
@[simp] theorem State.dropPend_saved (s : State) (q : Nat) : (s.dropPend q).saved = s.saved := rfl
@[simp] theorem State.dropPend_host (s : State) (q : Nat) : (s.dropPend q).host = s.host := rfl

@[simp] theorem State.respond_cur (s : State) (n : Node) (k : Key) (outs : List Out) (late : Bool) : (s.respond n k outs late).cur = s.cur := rfl
@[simp] theorem State.respond_agenda (s : State) (n : Node) (k : Key) (outs : List Out) (late : Bool) : (s.respond n k outs late).agenda = s.agenda := rfl
@[simp] theorem State.respond_ctr (s : State) (n : Node) (k : Key) (outs : List Out) (late : Bool) : (s.respond n k outs late).ctr = s.ctr := rfl
@[simp] theorem State.respond_fab (s : State) (n : Node) (k : Key) (outs : List Out) (late : Bool) : (s.respond n k outs late).fab = s.fab := rfl
@[simp] theorem State.respond_pl (s : State) (n : Node) (k : Key) (outs : List Out) (late : Bool) : (s.respond n k outs late).pl = s.pl := rfl
@[simp] theorem State.respond_strands (s : State) (n : Node) (k : Key) (outs : List Out) (late : Bool) : (s.respond n k outs late).strands = s.strands := rfl
@[simp] theorem State.respond_sch (s : State) (n : Node) (k : Key) (outs : List Out) (late : Bool) : (s.respond n k outs late).sch = s.sch := rfl
@[simp] theorem State.respond_eng (s : State) (n : Node) (k : Key) (outs : List Out) (late : Bool) : (s.respond n k outs late).eng = s.eng := rfl
@[simp] theorem State.respond_mat (s : State) (n : Node) (k : Key) (outs : List Out) (late : Bool) : (s.respond n k outs late).mat = s.mat := rfl
@[simp] theorem State.respond_tiles (s : State) (n : Node) (k : Key) (outs : List Out) (late : Bool) : (s.respond n k outs late).tiles = s.tiles := rfl
@[simp] theorem State.respond_pages (s : State) (n : Node) (k : Key) (outs : List Out) (late : Bool) : (s.respond n k outs late).pages = s.pages := rfl
@[simp] theorem State.respond_pod (s : State) (n : Node) (k : Key) (outs : List Out) (late : Bool) : (s.respond n k outs late).pod = s.pod := rfl
@[simp] theorem State.respond_flt (s : State) (n : Node) (k : Key) (outs : List Out) (late : Bool) : (s.respond n k outs late).flt = s.flt := rfl
@[simp] theorem State.respond_saved (s : State) (n : Node) (k : Key) (outs : List Out) (late : Bool) : (s.respond n k outs late).saved = s.saved := rfl
@[simp] theorem State.respond_host (s : State) (n : Node) (k : Key) (outs : List Out) (late : Bool) : (s.respond n k outs late).host = s.host := rfl

@[simp] theorem State.queueRmw_cur (s : State) (msq : Nat) (rd : List Nat) (ts : List Tok) (nums : List Nat) : (s.queueRmw msq rd ts nums).cur = s.cur := rfl
@[simp] theorem State.queueRmw_agenda (s : State) (msq : Nat) (rd : List Nat) (ts : List Tok) (nums : List Nat) : (s.queueRmw msq rd ts nums).agenda = s.agenda := rfl
@[simp] theorem State.queueRmw_ctr (s : State) (msq : Nat) (rd : List Nat) (ts : List Tok) (nums : List Nat) : (s.queueRmw msq rd ts nums).ctr = s.ctr := rfl
@[simp] theorem State.queueRmw_fab (s : State) (msq : Nat) (rd : List Nat) (ts : List Tok) (nums : List Nat) : (s.queueRmw msq rd ts nums).fab = s.fab := rfl
@[simp] theorem State.queueRmw_pl (s : State) (msq : Nat) (rd : List Nat) (ts : List Tok) (nums : List Nat) : (s.queueRmw msq rd ts nums).pl = s.pl := rfl
@[simp] theorem State.queueRmw_strands (s : State) (msq : Nat) (rd : List Nat) (ts : List Tok) (nums : List Nat) : (s.queueRmw msq rd ts nums).strands = s.strands := rfl
@[simp] theorem State.queueRmw_sch (s : State) (msq : Nat) (rd : List Nat) (ts : List Tok) (nums : List Nat) : (s.queueRmw msq rd ts nums).sch = s.sch := rfl
@[simp] theorem State.queueRmw_eng (s : State) (msq : Nat) (rd : List Nat) (ts : List Tok) (nums : List Nat) : (s.queueRmw msq rd ts nums).eng = s.eng := rfl
@[simp] theorem State.queueRmw_mat (s : State) (msq : Nat) (rd : List Nat) (ts : List Tok) (nums : List Nat) : (s.queueRmw msq rd ts nums).mat = s.mat := rfl
@[simp] theorem State.queueRmw_tiles (s : State) (msq : Nat) (rd : List Nat) (ts : List Tok) (nums : List Nat) : (s.queueRmw msq rd ts nums).tiles = s.tiles := rfl
@[simp] theorem State.queueRmw_pages (s : State) (msq : Nat) (rd : List Nat) (ts : List Tok) (nums : List Nat) : (s.queueRmw msq rd ts nums).pages = s.pages := rfl
@[simp] theorem State.queueRmw_pod (s : State) (msq : Nat) (rd : List Nat) (ts : List Tok) (nums : List Nat) : (s.queueRmw msq rd ts nums).pod = s.pod := rfl
@[simp] theorem State.queueRmw_flt (s : State) (msq : Nat) (rd : List Nat) (ts : List Tok) (nums : List Nat) : (s.queueRmw msq rd ts nums).flt = s.flt := rfl
@[simp] theorem State.queueRmw_saved (s : State) (msq : Nat) (rd : List Nat) (ts : List Tok) (nums : List Nat) : (s.queueRmw msq rd ts nums).saved = s.saved := rfl
@[simp] theorem State.queueRmw_host (s : State) (msq : Nat) (rd : List Nat) (ts : List Tok) (nums : List Nat) : (s.queueRmw msq rd ts nums).host = s.host := rfl

@[simp] theorem State.askRecord_cur (s : State) (r : RecReq) : (s.askRecord r).cur = s.cur := rfl
@[simp] theorem State.askRecord_agenda (s : State) (r : RecReq) : (s.askRecord r).agenda = s.agenda := rfl
@[simp] theorem State.askRecord_ctr (s : State) (r : RecReq) : (s.askRecord r).ctr = s.ctr := rfl
@[simp] theorem State.askRecord_fab (s : State) (r : RecReq) : (s.askRecord r).fab = s.fab := rfl
@[simp] theorem State.askRecord_pl (s : State) (r : RecReq) : (s.askRecord r).pl = s.pl := rfl
@[simp] theorem State.askRecord_strands (s : State) (r : RecReq) : (s.askRecord r).strands = s.strands := rfl
@[simp] theorem State.askRecord_sch (s : State) (r : RecReq) : (s.askRecord r).sch = s.sch := rfl
@[simp] theorem State.askRecord_mem (s : State) (r : RecReq) : (s.askRecord r).mem = s.mem := rfl
@[simp] theorem State.askRecord_eng (s : State) (r : RecReq) : (s.askRecord r).eng = s.eng := rfl
@[simp] theorem State.askRecord_mat (s : State) (r : RecReq) : (s.askRecord r).mat = s.mat := rfl
@[simp] theorem State.askRecord_tiles (s : State) (r : RecReq) : (s.askRecord r).tiles = s.tiles := rfl
@[simp] theorem State.askRecord_pages (s : State) (r : RecReq) : (s.askRecord r).pages = s.pages := rfl
@[simp] theorem State.askRecord_pod (s : State) (r : RecReq) : (s.askRecord r).pod = s.pod := rfl
@[simp] theorem State.askRecord_saved (s : State) (r : RecReq) : (s.askRecord r).saved = s.saved := rfl
@[simp] theorem State.askRecord_host (s : State) (r : RecReq) : (s.askRecord r).host = s.host := rfl

@[simp] theorem State.setTstate_cur (s : State) (p v : Nat) : (s.setTstate p v).cur = s.cur := rfl
@[simp] theorem State.setTstate_agenda (s : State) (p v : Nat) : (s.setTstate p v).agenda = s.agenda := rfl
@[simp] theorem State.setTstate_ctr (s : State) (p v : Nat) : (s.setTstate p v).ctr = s.ctr := rfl
@[simp] theorem State.setTstate_fab (s : State) (p v : Nat) : (s.setTstate p v).fab = s.fab := rfl
@[simp] theorem State.setTstate_pl (s : State) (p v : Nat) : (s.setTstate p v).pl = s.pl := rfl
@[simp] theorem State.setTstate_strands (s : State) (p v : Nat) : (s.setTstate p v).strands = s.strands := rfl
@[simp] theorem State.setTstate_sch (s : State) (p v : Nat) : (s.setTstate p v).sch = s.sch := rfl
@[simp] theorem State.setTstate_mem (s : State) (p v : Nat) : (s.setTstate p v).mem = s.mem := rfl
@[simp] theorem State.setTstate_eng (s : State) (p v : Nat) : (s.setTstate p v).eng = s.eng := rfl
@[simp] theorem State.setTstate_mat (s : State) (p v : Nat) : (s.setTstate p v).mat = s.mat := rfl
@[simp] theorem State.setTstate_tiles (s : State) (p v : Nat) : (s.setTstate p v).tiles = s.tiles := rfl
@[simp] theorem State.setTstate_pages (s : State) (p v : Nat) : (s.setTstate p v).pages = s.pages := rfl
@[simp] theorem State.setTstate_pod (s : State) (p v : Nat) : (s.setTstate p v).pod = s.pod := rfl
@[simp] theorem State.setTstate_flt (s : State) (p v : Nat) : (s.setTstate p v).flt = s.flt := rfl
@[simp] theorem State.setTstate_saved (s : State) (p v : Nat) : (s.setTstate p v).saved = s.saved := rfl

@[simp] theorem State.sendFlit_cur (s : State) (lg : Nat) (b : FlitBody) (ciph : Bool) : (s.sendFlit lg b ciph).cur = s.cur := rfl
@[simp] theorem State.sendFlit_agenda (s : State) (lg : Nat) (b : FlitBody) (ciph : Bool) : (s.sendFlit lg b ciph).agenda = s.agenda := rfl
@[simp] theorem State.sendFlit_ctr (s : State) (lg : Nat) (b : FlitBody) (ciph : Bool) : (s.sendFlit lg b ciph).ctr = s.ctr := rfl
@[simp] theorem State.sendFlit_fab (s : State) (lg : Nat) (b : FlitBody) (ciph : Bool) : (s.sendFlit lg b ciph).fab = s.fab := rfl
@[simp] theorem State.sendFlit_pl (s : State) (lg : Nat) (b : FlitBody) (ciph : Bool) : (s.sendFlit lg b ciph).pl = s.pl := rfl
@[simp] theorem State.sendFlit_strands (s : State) (lg : Nat) (b : FlitBody) (ciph : Bool) : (s.sendFlit lg b ciph).strands = s.strands := rfl
@[simp] theorem State.sendFlit_sch (s : State) (lg : Nat) (b : FlitBody) (ciph : Bool) : (s.sendFlit lg b ciph).sch = s.sch := rfl
@[simp] theorem State.sendFlit_mem (s : State) (lg : Nat) (b : FlitBody) (ciph : Bool) : (s.sendFlit lg b ciph).mem = s.mem := rfl
@[simp] theorem State.sendFlit_eng (s : State) (lg : Nat) (b : FlitBody) (ciph : Bool) : (s.sendFlit lg b ciph).eng = s.eng := rfl
@[simp] theorem State.sendFlit_mat (s : State) (lg : Nat) (b : FlitBody) (ciph : Bool) : (s.sendFlit lg b ciph).mat = s.mat := rfl
@[simp] theorem State.sendFlit_tiles (s : State) (lg : Nat) (b : FlitBody) (ciph : Bool) : (s.sendFlit lg b ciph).tiles = s.tiles := rfl
@[simp] theorem State.sendFlit_pages (s : State) (lg : Nat) (b : FlitBody) (ciph : Bool) : (s.sendFlit lg b ciph).pages = s.pages := rfl
@[simp] theorem State.sendFlit_flt (s : State) (lg : Nat) (b : FlitBody) (ciph : Bool) : (s.sendFlit lg b ciph).flt = s.flt := rfl
@[simp] theorem State.sendFlit_saved (s : State) (lg : Nat) (b : FlitBody) (ciph : Bool) : (s.sendFlit lg b ciph).saved = s.saved := rfl
@[simp] theorem State.sendFlit_host (s : State) (lg : Nat) (b : FlitBody) (ciph : Bool) : (s.sendFlit lg b ciph).host = s.host := rfl

@[simp] theorem State.addCopy_cur (s : State) (c : Copy) : (s.addCopy c).cur = s.cur := rfl
@[simp] theorem State.addCopy_agenda (s : State) (c : Copy) : (s.addCopy c).agenda = s.agenda := rfl
@[simp] theorem State.addCopy_ctr (s : State) (c : Copy) : (s.addCopy c).ctr = s.ctr := rfl
@[simp] theorem State.addCopy_fab (s : State) (c : Copy) : (s.addCopy c).fab = s.fab := rfl
@[simp] theorem State.addCopy_pl (s : State) (c : Copy) : (s.addCopy c).pl = s.pl := rfl
@[simp] theorem State.addCopy_strands (s : State) (c : Copy) : (s.addCopy c).strands = s.strands := rfl
@[simp] theorem State.addCopy_sch (s : State) (c : Copy) : (s.addCopy c).sch = s.sch := rfl
@[simp] theorem State.addCopy_eng (s : State) (c : Copy) : (s.addCopy c).eng = s.eng := rfl
@[simp] theorem State.addCopy_mat (s : State) (c : Copy) : (s.addCopy c).mat = s.mat := rfl
@[simp] theorem State.addCopy_tiles (s : State) (c : Copy) : (s.addCopy c).tiles = s.tiles := rfl
@[simp] theorem State.addCopy_pages (s : State) (c : Copy) : (s.addCopy c).pages = s.pages := rfl
@[simp] theorem State.addCopy_pod (s : State) (c : Copy) : (s.addCopy c).pod = s.pod := rfl
@[simp] theorem State.addCopy_flt (s : State) (c : Copy) : (s.addCopy c).flt = s.flt := rfl
@[simp] theorem State.addCopy_saved (s : State) (c : Copy) : (s.addCopy c).saved = s.saved := rfl
@[simp] theorem State.addCopy_host (s : State) (c : Copy) : (s.addCopy c).host = s.host := rfl

@[simp] theorem State.setShadow_cur (s : State) (c : Ctx) (b : Option Block) (l : List Nat) : (s.setShadow c b l).cur = s.cur := rfl
@[simp] theorem State.setShadow_agenda (s : State) (c : Ctx) (b : Option Block) (l : List Nat) : (s.setShadow c b l).agenda = s.agenda := rfl
@[simp] theorem State.setShadow_ctr (s : State) (c : Ctx) (b : Option Block) (l : List Nat) : (s.setShadow c b l).ctr = s.ctr := rfl
@[simp] theorem State.setShadow_fab (s : State) (c : Ctx) (b : Option Block) (l : List Nat) : (s.setShadow c b l).fab = s.fab := rfl
@[simp] theorem State.setShadow_strands (s : State) (c : Ctx) (b : Option Block) (l : List Nat) : (s.setShadow c b l).strands = s.strands := rfl
@[simp] theorem State.setShadow_sch (s : State) (c : Ctx) (b : Option Block) (l : List Nat) : (s.setShadow c b l).sch = s.sch := rfl
@[simp] theorem State.setShadow_mem (s : State) (c : Ctx) (b : Option Block) (l : List Nat) : (s.setShadow c b l).mem = s.mem := rfl
@[simp] theorem State.setShadow_eng (s : State) (c : Ctx) (b : Option Block) (l : List Nat) : (s.setShadow c b l).eng = s.eng := rfl
@[simp] theorem State.setShadow_mat (s : State) (c : Ctx) (b : Option Block) (l : List Nat) : (s.setShadow c b l).mat = s.mat := rfl
@[simp] theorem State.setShadow_tiles (s : State) (c : Ctx) (b : Option Block) (l : List Nat) : (s.setShadow c b l).tiles = s.tiles := rfl
@[simp] theorem State.setShadow_pages (s : State) (c : Ctx) (b : Option Block) (l : List Nat) : (s.setShadow c b l).pages = s.pages := rfl
@[simp] theorem State.setShadow_pod (s : State) (c : Ctx) (b : Option Block) (l : List Nat) : (s.setShadow c b l).pod = s.pod := rfl
@[simp] theorem State.setShadow_flt (s : State) (c : Ctx) (b : Option Block) (l : List Nat) : (s.setShadow c b l).flt = s.flt := rfl
@[simp] theorem State.setShadow_saved (s : State) (c : Ctx) (b : Option Block) (l : List Nat) : (s.setShadow c b l).saved = s.saved := rfl
@[simp] theorem State.setShadow_host (s : State) (c : Ctx) (b : Option Block) (l : List Nat) : (s.setShadow c b l).host = s.host := rfl

@[simp] theorem State.setStores_cur (s : State) (t : Tab Store) : (s.setStores t).cur = s.cur := rfl
@[simp] theorem State.setStores_agenda (s : State) (t : Tab Store) : (s.setStores t).agenda = s.agenda := rfl
@[simp] theorem State.setStores_ctr (s : State) (t : Tab Store) : (s.setStores t).ctr = s.ctr := rfl
@[simp] theorem State.setStores_fab (s : State) (t : Tab Store) : (s.setStores t).fab = s.fab := rfl
@[simp] theorem State.setStores_pl (s : State) (t : Tab Store) : (s.setStores t).pl = s.pl := rfl
@[simp] theorem State.setStores_strands (s : State) (t : Tab Store) : (s.setStores t).strands = s.strands := rfl
@[simp] theorem State.setStores_sch (s : State) (t : Tab Store) : (s.setStores t).sch = s.sch := rfl
@[simp] theorem State.setStores_mem (s : State) (t : Tab Store) : (s.setStores t).mem = s.mem := rfl
@[simp] theorem State.setStores_eng (s : State) (t : Tab Store) : (s.setStores t).eng = s.eng := rfl
@[simp] theorem State.setStores_tiles (s : State) (t : Tab Store) : (s.setStores t).tiles = s.tiles := rfl
@[simp] theorem State.setStores_pages (s : State) (t : Tab Store) : (s.setStores t).pages = s.pages := rfl
@[simp] theorem State.setStores_pod (s : State) (t : Tab Store) : (s.setStores t).pod = s.pod := rfl
@[simp] theorem State.setStores_flt (s : State) (t : Tab Store) : (s.setStores t).flt = s.flt := rfl
@[simp] theorem State.setStores_saved (s : State) (t : Tab Store) : (s.setStores t).saved = s.saved := rfl
@[simp] theorem State.setStores_host (s : State) (t : Tab Store) : (s.setStores t).host = s.host := rfl

@[simp] theorem State.alone_cur (s : State) (n : Node) : (s.alone n).cur = s.cur := rfl
@[simp] theorem State.alone_agenda (s : State) (n : Node) : (s.alone n).agenda = s.agenda := rfl
@[simp] theorem State.alone_ctr (s : State) (n : Node) : (s.alone n).ctr = s.ctr := rfl
@[simp] theorem State.alone_pl (s : State) (n : Node) : (s.alone n).pl = s.pl := rfl
@[simp] theorem State.alone_strands (s : State) (n : Node) : (s.alone n).strands = s.strands := rfl
@[simp] theorem State.alone_sch (s : State) (n : Node) : (s.alone n).sch = s.sch := rfl
@[simp] theorem State.alone_mem (s : State) (n : Node) : (s.alone n).mem = s.mem := rfl
@[simp] theorem State.alone_eng (s : State) (n : Node) : (s.alone n).eng = s.eng := rfl
@[simp] theorem State.alone_mat (s : State) (n : Node) : (s.alone n).mat = s.mat := rfl
@[simp] theorem State.alone_tiles (s : State) (n : Node) : (s.alone n).tiles = s.tiles := rfl
@[simp] theorem State.alone_pages (s : State) (n : Node) : (s.alone n).pages = s.pages := rfl
@[simp] theorem State.alone_pod (s : State) (n : Node) : (s.alone n).pod = s.pod := rfl
@[simp] theorem State.alone_flt (s : State) (n : Node) : (s.alone n).flt = s.flt := rfl
@[simp] theorem State.alone_saved (s : State) (n : Node) : (s.alone n).saved = s.saved := rfl
@[simp] theorem State.alone_host (s : State) (n : Node) : (s.alone n).host = s.host := rfl

@[simp] theorem State.answer_cur (s : State) (q : SpdmReq) (n : Nat) (v : BitVec 512) : (s.answer q n v).cur = s.cur := rfl
@[simp] theorem State.answer_agenda (s : State) (q : SpdmReq) (n : Nat) (v : BitVec 512) : (s.answer q n v).agenda = s.agenda := rfl
@[simp] theorem State.answer_ctr (s : State) (q : SpdmReq) (n : Nat) (v : BitVec 512) : (s.answer q n v).ctr = s.ctr := rfl
@[simp] theorem State.answer_fab (s : State) (q : SpdmReq) (n : Nat) (v : BitVec 512) : (s.answer q n v).fab = s.fab := rfl
@[simp] theorem State.answer_pl (s : State) (q : SpdmReq) (n : Nat) (v : BitVec 512) : (s.answer q n v).pl = s.pl := rfl
@[simp] theorem State.answer_strands (s : State) (q : SpdmReq) (n : Nat) (v : BitVec 512) : (s.answer q n v).strands = s.strands := rfl
@[simp] theorem State.answer_sch (s : State) (q : SpdmReq) (n : Nat) (v : BitVec 512) : (s.answer q n v).sch = s.sch := rfl
@[simp] theorem State.answer_mem (s : State) (q : SpdmReq) (n : Nat) (v : BitVec 512) : (s.answer q n v).mem = s.mem := rfl
@[simp] theorem State.answer_eng (s : State) (q : SpdmReq) (n : Nat) (v : BitVec 512) : (s.answer q n v).eng = s.eng := rfl
@[simp] theorem State.answer_mat (s : State) (q : SpdmReq) (n : Nat) (v : BitVec 512) : (s.answer q n v).mat = s.mat := rfl
@[simp] theorem State.answer_tiles (s : State) (q : SpdmReq) (n : Nat) (v : BitVec 512) : (s.answer q n v).tiles = s.tiles := rfl
@[simp] theorem State.answer_pages (s : State) (q : SpdmReq) (n : Nat) (v : BitVec 512) : (s.answer q n v).pages = s.pages := rfl
@[simp] theorem State.answer_pod (s : State) (q : SpdmReq) (n : Nat) (v : BitVec 512) : (s.answer q n v).pod = s.pod := rfl
@[simp] theorem State.answer_flt (s : State) (q : SpdmReq) (n : Nat) (v : BitVec 512) : (s.answer q n v).flt = s.flt := rfl
@[simp] theorem State.answer_saved (s : State) (q : SpdmReq) (n : Nat) (v : BitVec 512) : (s.answer q n v).saved = s.saved := rfl

@[simp] theorem State.seeSettled_cur (s : State) : (s.seeSettled).cur = s.cur := by
  unfold State.seeSettled; split <;> rfl
@[simp] theorem State.seeSettled_agenda (s : State) : (s.seeSettled).agenda = s.agenda := by
  unfold State.seeSettled; split <;> rfl
@[simp] theorem State.seeSettled_ctr (s : State) : (s.seeSettled).ctr = s.ctr := by
  unfold State.seeSettled; split <;> rfl
@[simp] theorem State.seeSettled_fab (s : State) : (s.seeSettled).fab = s.fab := by
  unfold State.seeSettled; split <;> rfl
@[simp] theorem State.seeSettled_pl (s : State) : (s.seeSettled).pl = s.pl := by
  unfold State.seeSettled; split <;> rfl
@[simp] theorem State.seeSettled_strands (s : State) : (s.seeSettled).strands = s.strands := by
  unfold State.seeSettled; split <;> rfl
@[simp] theorem State.seeSettled_sch (s : State) : (s.seeSettled).sch = s.sch := by
  unfold State.seeSettled; split <;> rfl
@[simp] theorem State.seeSettled_eng (s : State) : (s.seeSettled).eng = s.eng := by
  unfold State.seeSettled; split <;> rfl
@[simp] theorem State.seeSettled_mat (s : State) : (s.seeSettled).mat = s.mat := by
  unfold State.seeSettled; split <;> rfl
@[simp] theorem State.seeSettled_tiles (s : State) : (s.seeSettled).tiles = s.tiles := by
  unfold State.seeSettled; split <;> rfl
@[simp] theorem State.seeSettled_pages (s : State) : (s.seeSettled).pages = s.pages := by
  unfold State.seeSettled; split <;> rfl
@[simp] theorem State.seeSettled_pod (s : State) : (s.seeSettled).pod = s.pod := by
  unfold State.seeSettled; split <;> rfl
@[simp] theorem State.seeSettled_flt (s : State) : (s.seeSettled).flt = s.flt := by
  unfold State.seeSettled; split <;> rfl
@[simp] theorem State.seeSettled_saved (s : State) : (s.seeSettled).saved = s.saved := by
  unfold State.seeSettled; split <;> rfl
@[simp] theorem State.seeSettled_host (s : State) : (s.seeSettled).host = s.host := by
  unfold State.seeSettled; split <;> rfl

@[simp] theorem State.passed_cur (s : State) (me : Node ⊕ (Nat × Nat)) : (s.passed me).cur = s.cur := by
  unfold State.passed; split <;> rfl
@[simp] theorem State.passed_agenda (s : State) (me : Node ⊕ (Nat × Nat)) : (s.passed me).agenda = s.agenda := by
  unfold State.passed; split <;> rfl
@[simp] theorem State.passed_ctr (s : State) (me : Node ⊕ (Nat × Nat)) : (s.passed me).ctr = s.ctr := by
  unfold State.passed; split <;> rfl
@[simp] theorem State.passed_pl (s : State) (me : Node ⊕ (Nat × Nat)) : (s.passed me).pl = s.pl := by
  unfold State.passed; split <;> rfl
@[simp] theorem State.passed_strands (s : State) (me : Node ⊕ (Nat × Nat)) : (s.passed me).strands = s.strands := by
  unfold State.passed; split <;> rfl
@[simp] theorem State.passed_sch (s : State) (me : Node ⊕ (Nat × Nat)) : (s.passed me).sch = s.sch := by
  unfold State.passed; split <;> rfl
@[simp] theorem State.passed_mem (s : State) (me : Node ⊕ (Nat × Nat)) : (s.passed me).mem = s.mem := by
  unfold State.passed; split <;> rfl
@[simp] theorem State.passed_eng (s : State) (me : Node ⊕ (Nat × Nat)) : (s.passed me).eng = s.eng := by
  unfold State.passed; split <;> rfl
@[simp] theorem State.passed_mat (s : State) (me : Node ⊕ (Nat × Nat)) : (s.passed me).mat = s.mat := by
  unfold State.passed; split <;> rfl
@[simp] theorem State.passed_tiles (s : State) (me : Node ⊕ (Nat × Nat)) : (s.passed me).tiles = s.tiles := by
  unfold State.passed; split <;> rfl
@[simp] theorem State.passed_pages (s : State) (me : Node ⊕ (Nat × Nat)) : (s.passed me).pages = s.pages := by
  unfold State.passed; split <;> rfl
@[simp] theorem State.passed_pod (s : State) (me : Node ⊕ (Nat × Nat)) : (s.passed me).pod = s.pod := by
  unfold State.passed; split <;> rfl
@[simp] theorem State.passed_flt (s : State) (me : Node ⊕ (Nat × Nat)) : (s.passed me).flt = s.flt := by
  unfold State.passed; split <;> rfl
@[simp] theorem State.passed_saved (s : State) (me : Node ⊕ (Nat × Nat)) : (s.passed me).saved = s.saved := by
  unfold State.passed; split <;> rfl
@[simp] theorem State.passed_host (s : State) (me : Node ⊕ (Nat × Nat)) : (s.passed me).host = s.host := by
  unfold State.passed; split <;> rfl

end Sys2Proof.Machine
end

