-- ==== Sys2Proof/Laws/Tokens.lean ====
section
/-! SUPPORT. What taking operands, marking an issue, filling the latch and taking a fault leave alone (R19, R353). -/

namespace Sys2Proof.Machine

/-- From `s` to `t` only tokens of node `n`, its output latch, its issue mark, the beats counted of streams and its fault register have
changed: what a firing does around its body. -/
structure TokensOnly (n : Node) (k : Key) (s t : State) : Prop where
  cur : t.cur = s.cur
  agenda : t.agenda = s.agenda
  pl : t.pl = s.pl
  sch : t.sch = s.sch
  mat : t.mat = s.mat
  tiles : t.tiles = s.tiles
  pages : t.pages = s.pages
  pod : t.pod = s.pod
  saved : t.saved = s.saved
  host : t.host = s.host
  fab : t.fab = { s.fab with latch := t.fab.latch, ostore := t.fab.ostore, hlatch := t.fab.hlatch, issued := t.fab.issued }
  eng : t.eng = { s.eng with streams := t.eng.streams }
  flt : t.flt = { s.flt with regs := t.flt.regs }
  taken : ∀ x ∈ t.fab.ostore, x ∈ s.fab.ostore
  others : ∀ x ∈ s.fab.ostore, x.node ≠ n → x ∈ t.fab.ostore
  kept : ∀ l ∈ s.fab.latch, l ∈ t.fab.latch
  put : ∀ l ∈ t.fab.latch, l ∈ s.fab.latch ∨ (l.node = n ∧ l.key = k)
  headers : t.fab.hlatch.map (fun x => (x.node, x.port, x.vc, x.words)) = s.fab.hlatch.map fun x => (x.node, x.port, x.vc, x.words)
  streams : (t.eng.streams.map fun e => (e.1, { e.2 with consumed := 0 })) = s.eng.streams.map fun e => (e.1, { e.2 with consumed := 0 })
  faults : ∀ r ∈ s.flt.regs, r.node ≠ n → r ∈ t.flt.regs

theorem TokensOnly.refl (n k s) : TokensOnly n k s s := by constructor <;> first | rfl | (intros; first | assumption | (left; assumption))

theorem TokensOnly.trans {n k s t u} (a : TokensOnly n k s t) (b : TokensOnly n k t u) : TokensOnly n k s u := by
  constructor
  · rw [b.cur, a.cur]
  · rw [b.agenda, a.agenda]
  · rw [b.pl, a.pl]
  · rw [b.sch, a.sch]
  · rw [b.mat, a.mat]
  · rw [b.tiles, a.tiles]
  · rw [b.pages, a.pages]
  · rw [b.pod, a.pod]
  · rw [b.saved, a.saved]
  · rw [b.host, a.host]
  · rw [b.fab, a.fab]
  · rw [b.eng, a.eng]
  · rw [b.flt, a.flt]
  · exact fun x h => a.taken x (b.taken x h)
  · exact fun x h hn => b.others x (a.others x h hn) hn
  · exact fun x h => b.kept x (a.kept x h)
  · intro l h
    rcases b.put l h with h | h
    · exact a.put l h
    · exact .inr h
  · rw [b.headers, a.headers]
  · rw [b.streams, a.streams]
  · exact fun r h hn => b.faults r (a.faults r h hn) hn

theorem mem_dropFirst {α} (p : α → Bool) (l : List α) : ∀ x ∈ dropFirst p l, x ∈ l := by
  induction l with
  | nil => intro x h; cases h
  | cons y t ih =>
    intro x h; unfold dropFirst at h; split at h
    · exact List.mem_cons_of_mem _ h
    · rcases List.mem_cons.1 h with rfl | h
      · exact List.mem_cons_self
      · exact List.mem_cons_of_mem _ (ih x h)

theorem dropFirst_mem {α} (p : α → Bool) (l : List α) : ∀ x ∈ l, p x = false → x ∈ dropFirst p l := by
  induction l with
  | nil => intro x h; cases h
  | cons y t ih =>
    intro x h hp; unfold dropFirst; split
    · rename_i hy
      rcases List.mem_cons.1 h with rfl | h
      · rw [hp] at hy; cases hy
      · exact h
    · rcases List.mem_cons.1 h with rfl | h
      · exact List.mem_cons_self
      · exact List.mem_cons_of_mem _ (ih x h hp)

theorem tokensOnly_consume (n k s p) : TokensOnly n k s (s.consume n k p) := by
  unfold State.consume
  dsimp only
  split
  · exact TokensOnly.refl _ _ _
  · unfold State.countBeat
    constructor <;> first | rfl | skip
    · intro x h; exact mem_dropFirst _ _ x h
    · intro x h hn; exact dropFirst_mem _ _ x h (by simp [hn])
    · intro l h; exact h
    · intro l h; exact .inl h
    · dsimp only; rw [List.map_map]; apply List.map_congr_left; intro x _; dsimp only [Function.comp]; split <;> rfl
    · dsimp only; rw [List.map_map]; apply List.map_congr_left; intro x _; dsimp only [Function.comp]; split <;> rfl
    · intro r h _; exact h

theorem tokensOnly_consumeAll (n k) (ps : List Nat) : ∀ s, TokensOnly n k s (s.consumeAll n k ps) := by
  induction ps with
  | nil => intro s; exact TokensOnly.refl _ _ _
  | cons p ps ih => intro s; exact (tokensOnly_consume n k s p).trans (ih _)

theorem tokensOnly_markIssued (n k s) : TokensOnly n k s (s.markIssued n) := by
  constructor <;> first | rfl | (intros; first | assumption | (left; assumption))

theorem tokensOnly_emit (n k s h outs) : TokensOnly n k s (s.emit n k h outs) := by
  unfold State.emit
  constructor <;> first | rfl | skip
  · intro x h; exact h
  · intro x h _; exact h
  · intro l h; exact List.mem_append_left _ h
  · intro l h
    rcases List.mem_append.1 h with h | h
    · exact .inl h
    · right
      obtain ⟨o, _, h⟩ := List.mem_filterMap.1 h
      split at h
      · cases h
      · cases h; exact ⟨rfl, rfl⟩
  · intro r h _; exact h

theorem tokensOnly_takeFault (n k s w took x) : TokensOnly n k s (s.takeFault n k w took x) := by
  unfold State.takeFault
  dsimp only
  split
  · split
    · exact TokensOnly.refl _ _ _
    · constructor <;> first | rfl | (intros; first | assumption | (left; assumption)) | skip
      intro r h hn
      exact List.mem_cons_of_mem _ (List.mem_filter.2 ⟨h, by simp [hn]⟩)
  · constructor <;> first | rfl | (intros; first | assumption | (left; assumption)) | skip
    intro r h hn
    exact List.mem_cons_of_mem _ h

end Sys2Proof.Machine
end

