-- ==== Sys2Proof/Safety.lean ====
section
/-! DEFINITION. What counts as a safe run: every step answers a next state. -/

namespace Sys2Proof

/-- A run of `n` steps that never faults and is never refused. -/
def SafeRun (s : Machine.State) : Nat → Prop
  | 0 => True
  | n + 1 => ∃ t, Machine.step s = .next t ∧ SafeRun t n

end Sys2Proof
end

