-- ==== Sys2Proof/Tests/Slice0.lean ====
section
/-! SUPPORT. The model's own tests: well-formedness, decoding of words that the spec writes out, and for every statement of the
obligations states that meet its hypotheses. -/

namespace Sys2Proof.Tests

/-! One theorem after the other: each is evaluated by the kernel, and together they would need more threads than memory allows. -/
set_option Elab.async false

open Sys2Proof.Machine Sys2Proof.Claims

/-! A small machine: one strand on wafer 0 of die 0, its phase running in context slot 0, with one block of the words given. VC j holds
format code j, scale 1; word w stands at node 0. The module is strapped as 0, without the key that the device makes, and every
readiness flag is set. -/

def allUp : BitVec 64 := 0x807FFFFFFFFFFFFF
def c0 : Ctx := ⟨0, 0, 0⟩
def n0 : Node := ⟨c0, 0⟩
def k0 : Key := ⟨0, 0, 0⟩
def grant (tag : BitVec 8) : TagRec := ⟨tag, 0, none, false, none, false, false, false, c0⟩
def st0 : Strand :=
  { die := 0, task := 5, part := 0, wafers := [0], slots := [0], square := false, sqpc := 0, q := [], i := [], sd := [], k := [],
    exitMap := [], mode := .phase 0, l0 := some k0, l0done := [],
    levels := { Level.fresh with tags := [grant 0] } :: List.replicate 7 Level.fresh,
    insts := [], reqs := [], exits := [], done := none, frozen := false, saving := false, steals := [], claims := [],
    step := 0, fault := 0, stamp := 0, glz := [] }
def block0 (ws : List (BitVec 64)) : Block := ⟨0xB7100000000000000000000000000000, ws, 0, 0⟩
def vcs0 : Tab (BitVec 32) := (List.range 18).map fun j => (j, BitVec.ofNat 32 (j * 2 ^ 27 + 127 * 2 ^ 19))
def mini (w : BitVec 64) (toks : List (Nat × Tok)) : State :=
  { State.reset with
    cur := ⟨n0, k0, w, 0, 5⟩
    strands := [st0]
    pl := { State.reset.pl with ctx := [(0, { active := some (block0 [w]) })], vcs := vcs0 }
    fab := { State.reset.fab with ostore := toks.map fun t => ⟨n0, t.1, k0, t.2⟩ }
    pod := { State.reset.pod with recovery := 0 }
    host := { State.reset.host with keys := [], ready := allUp } }

/-- The hypotheses of a firing, as a test. -/
def canFire (s : State) (h : Hd) (sl : Slots) (ts : List Tok) : Bool :=
  s.mayFire s.cur.node s.cur.key &&
  decide ((s.operands s.cur.node s.cur.key (taken h sl.rd)).map (List.take sl.rd.length) = some ts) &&
  performs h (s.slotTok s.cur.node s.cur.key 3) && (s.tokenFault s.cur.node s.cur.key h sl).isNone &&
  sl.nils.all fun q => !((s.slotTok s.cur.node s.cur.key q).map (·.fl.nil)).getD false

theorem canFire_sound {s : State} {h : Hd} {sl : Slots} {ts : List Tok} (c : canFire s h sl ts = true) : CanFire s h sl ts := by
  simp only [canFire, Bool.and_eq_true, decide_eq_true_eq, List.all_eq_true, Option.isNone_iff_eq_none] at c
  obtain ⟨⟨⟨⟨a, b⟩, d⟩, e⟩, f⟩ := c
  exact ⟨a, b, d, e, fun q hq => by simpa using f q hq⟩

def h0 : Hd := ⟨0, 0, 0x1FF, 0x1FF⟩
def tok (v : Nat) (vc : BitVec 5 := 0) : Tok := { vc := vc, data := BitVec.ofNat 384 v }

/-! Witnesses. `meets` joins a firing's hypotheses with what its words ask beside. -/

def meets (s : State) (h : Hd) (sl : Slots) (ts : List Tok) (ok : Prop) [Decidable ok] : Bool := canFire s h sl ts && decide ok

theorem meets_sound {s : State} {h : Hd} {sl : Slots} {ts : List Tok} {ok : Prop} [Decidable ok] (c : meets s h sl ts ok = true) :
    CanFire s h sl ts ∧ ok := by
  simp only [meets, Bool.and_eq_true, decide_eq_true_eq] at c
  exact ⟨canFire_sound c.1, c.2⟩

/-- Two and three operands at the slots named. -/
def at01 (a b : Tok) : List (Nat × Tok) := [(0, a), (1, b)]
def at012 (a b c : Tok) : List (Nat × Tok) := [(0, a), (1, b), (2, c)]

/-- Words with no condition beside their operands: every set of slots they use. -/
theorem witness_slots :
    CanFire (mini 0 [(0, tok 1)]) h0 (carrying [0]) [tok 1] ∧
    CanFire (mini 0 [(0, tok 1)]) h0 (computing [0]) [tok 1] ∧
    CanFire (mini 0 (at01 (tok 7) (tok 1))) h0 ⟨[0, 1], [0, 1], [1], []⟩ [tok 7, tok 1] ∧
    CanFire (mini 0 (at01 (tok 7) (tok 1))) h0 ⟨[0, 1], [0, 1], [0, 1], []⟩ [tok 7, tok 1] ∧
    CanFire (mini 0 (at01 (tok 7) (tok 1))) h0 (computing [0, 1]) [tok 7, tok 1] ∧
    CanFire (mini 0 (at012 (tok 0) (tok 8) (tok 9))) h0 ⟨[0, 1, 2], [0, 1, 2], [0], []⟩ [tok 0, tok 8, tok 9] ∧
    CanFire (mini 0 [(1, tok 4)]) h0 ⟨[(mini 0 [(1, tok 4)]).earlier n0 k0], [0, 1], [], []⟩ [tok 4] ∧
    CanFire (mini 0 (at01 (tok 7) (tok 1))) h0 (carrying [0, 1]) [tok 7, tok 1] ∧
    CanFire (mini 0 (at012 (tok 7) (tok 1) (tok 2))) h0 (carrying [0, 1, 2]) [tok 7, tok 1, tok 2] ∧
    CanFire (mini 0 [(0, tok 1), (3, tok 1)]) ⟨0, 1, 0x1FF, 0x1FF⟩ (computing [0]) [tok 1] ∧
    CanFire (mini 0 [(0, tok 1)]) h0 ⟨[0], [0], [], [0]⟩ [tok 1] ∧
    CanFire (mini 0 [(0, tok 1)]) h0 ⟨[0], [0], [0], []⟩ [tok 1] := by
  refine ⟨?_, ?_, ?_, ?_, ?_, ?_, ?_, ?_, ?_, ?_, ?_, ?_⟩ <;> exact canFire_sound (by decide +kernel)

theorem witness_movImmediate :
    let a : FmtA := ⟨2, 2, true, 0, 0xFFFF⟩
    let s := mini 0x010018FFC428FFFF [(0, tok 0 2)]
    CanFire s h0 (carrying [0]) [tok 0 2] ∧ (fmtOf (s.ent a.vci) < 18 ∧ fmtOf (s.ent a.vco) < 18 ∧
      s.scaleOutFault s.cur.node a.vco (validLanes (fmtOf (s.ent a.vco)) (tk [tok 0 2] 0)) = none) :=
  meets_sound (by decide +kernel)

/-- A strand whose level 1 has granted tag 0 to a child of the level-0 instance, and the machine firing for it. -/
def k1 : Key := ⟨1, 0, 0⟩
def st1 : Strand := { st0 with levels := upd (fun _ => { Level.fresh with tags := [{ grant 0 with parent := some k0 }] }) 1 st0.levels }
/-- The tag was granted to the level-0 instance of the block. -/
def stg : Strand :=
  { st1 with insts := [{ ctx := c0, key := k0, wave := some 0, held := [], issued := [], rmw := false, entered := [], beats := [],
                         tail := false, since := 0, due := 0, granted := [k1] }] }
def mini1 (k : Key) (toks : List (Nat × Tok)) : State :=
  { mini 0 [] with
    cur := ⟨n0, k, 0, 0, 5⟩, strands := [st1]
    fab := { State.reset.fab with ostore := toks.map fun t => ⟨n0, t.1, k, t.2⟩ } }

theorem witness_tags :
    (let s := mini 0 [(0, tok 1)]
     CanFire s h0 (carrying [0]) [tok 1] ∧ (s.here = some st0 ∧ s.block s.cur.node.ctx = some (block0 [0]) ∧
       bits (1 : BitVec 30) 0 3 = lvl s + 1)) ∧
    (let s := mini1 k1 [(0, tok 1)]
     CanFire s h0 (carrying [0]) [tok 1] ∧ bits (1 : BitVec 30) 0 3 = lvl s) ∧
    (let s := mini1 k0 (at01 (tok 1) (tok 0x400))
     let s := { s with strands := [stg] }
     CanFire s h0 ⟨[0, 1], [0, 1], [1], [1]⟩ [tok 1, tok 0x400] ∧ (s.here = some stg ∧
       (tagOf (tk [tok 1, tok 0x400] 1)).lvl.toNat = lvl s + 1 ∧
       stg.grantedTo s.cur.node.ctx s.cur.key (tagOf (tk [tok 1, tok 0x400] 1)) = true)) ∧
    (let s := mini1 k1 [(0, tok 1)]
     CanFire s h0 (carrying [0]) [tok 1] ∧
       (s.here = some st1 ∧ s.cur.key.lvl ≠ 0 ∧ (st1.tagRec s.cur.key).bind (·.parent) = some k0)) ∧
    (let s := mini1 k1 (at012 (tok 5) (tok 0x400) (tok 1))
     CanFire s h0 ⟨[0, 1, 2], [0, 1, 2], [2], [1]⟩ [tok 5, tok 0x400, tok 1] ∧
       (pred (tk [tok 5, tok 0x400, tok 1] 2) = true ∧ contHere s ≠ some false ∧
        (tagOf (tk [tok 5, tok 0x400, tok 1] 1)).lvl = s.cur.key.lvl)) ∧
    (let s := mini1 k1 [(0, tok 5), (2, tok 0)]
     CanFire s h0 ⟨[0, 2], [0, 1, 2], [2], []⟩ [tok 5, tok 0] ∧ (pred (tk [tok 5, tok 0] 1) = false ∧ contHere s ≠ some true)) ∧
    (let s := mini 0 [(0, tok 5)]
     CanFire s h0 ⟨[s.earlier n0 k0], [0, 1], [], []⟩ [tok 5] ∧ s.keptOf s.cur.node s.cur.key = none) ∧
    (let s := mini 0 [(0, tok 5)]
     CanFire s h0 (carrying [0]) [tok 5] ∧ (s.here = some st0 ∧ s.block s.cur.node.ctx = some (block0 [0]) ∧
       ((block0 [0]).krd 31 = true → (block0 [0]).kwr 31 = true → st0.oldest s.cur.key = true))) := by
  refine ⟨?_, ?_, ?_, ?_, ?_, ?_, ?_, ?_⟩ <;> exact meets_sound (by decide +kernel)

theorem witness_mrgo :
    let s := mini1 k1 [(0, { tok 5 with wave := 3 })]
    let ts := [{ tok 5 with wave := 3 }]
    CanFire s h0 ⟨[s.earlier s.cur.node s.cur.key], [0, 1], [], []⟩ ts ∧
      (let m := s.window s.cur.node s.cur.key.lvl (tk ts 0).wave
       s.mrgoHas s.cur.node s.cur.key = true ∧ s.waveKnown s.cur.node.ctx s.cur.key.lvl = true ∧
        ((tk ts 0).wave - m.next).toNat < 16 ∧ m.win.length < 16 ∧ ∀ x ∈ m.win, x.tok.wave ≠ (tk ts 0).wave) :=
  meets_sound (by decide +kernel)

/-! Lane words. -/

def fmtA (i o : BitVec 5) (ims : Bool := false) (imm : BitVec 16 := 0) : FmtA := ⟨i, o, ims, 0, imm⟩
def meetsFormat (i o : BitVec 5) (ims : Bool) (base : List Nat) (l : Limits) (ts : List Tok) (out : Option Nat := none) : Bool :=
  let a := fmtA i o ims 1
  let s := mini 0 ((slotsA a base).zip ts)
  meets s h0 (computing (slotsA a base)) ts (s.formatFault a l (slotsA a base) ts out = none)

theorem meetsFormat_sound {i o : BitVec 5} {ims : Bool} {base : List Nat} {l : Limits} {ts : List Tok} {out : Option Nat}
    (c : meetsFormat i o ims base l ts out = true) :
    ∃ a s, CanFire s h0 (computing (slotsA a base)) ts ∧ s.formatFault a l (slotsA a base) ts out = none :=
  ⟨_, _, meets_sound c⟩

/-- Integer, bitwise, address and comparing words: registers and immediates. -/
theorem witness_integer :
    meetsFormat 9 9 false [0, 1] arithLimits [tok 0xFFFFFFFF 9, tok 1 9] = true ∧
    meetsFormat 10 9 true [0, 1] arithLimits [tok 0xFFFFFFFF 10] = true ∧
    meetsFormat 2 2 false [0, 1, 2] arithLimits [tok 0x80 2, tok 0xFF 2, tok 1 2] = true ∧
    meetsFormat 15 15 false [0] arithLimits [tok 1 15] = true ∧
    meetsFormat 13 17 false [0, 1] cmpLimits [tok 1 13, tok 1 13] = true ∧
    meetsFormat 17 17 false [0, 1] (bitLimits true) [tok 1 17, tok 3 17] = true ∧
    meetsFormat 9 9 false [0] (bitLimits true) [tok 1 9] = true ∧
    meetsFormat 3 3 true [0, 1] (bitLimits false) [tok 0xFF 3] = true ∧
    meetsFormat 12 12 false [0] (bitLimits false) [tok 0 12] = true ∧
    meetsFormat 3 3 false [0, 1, 2] (bitLimits false) [tok 0xFF 3, tok 0x104 3, tok 1 3] = true ∧
    meetsFormat 13 13 false [0, 1, 2] addrLimits [tok 1 13, tok 2 13, tok 3 12] = true := by
  decide +kernel

/-- Float and comparing words, conversions with as many lanes as VCO has, and reductions. -/
theorem witness_float :
    meetsFormat 11 11 false [0, 1] floatLimits [tok 0x7F800000 11, tok 0 11] = true ∧
    meetsFormat 7 7 true [0, 1] floatLimits [tok 0x3F80 7] = true ∧
    meetsFormat 11 11 false [0, 1, 2] floatLimits [tok 1 11, tok 2 11, tok 3 11] = true ∧
    meetsFormat 8 7 false [0] floatLimits [tok 0x3C00 8] = true ∧
    meetsFormat 11 17 false [0, 1] fcmpLimits [tok 1 11, tok 1 11] = true ∧
    meetsFormat 11 11 false [0] redLimits [tok 1 11] (some 1) = true ∧
    meetsFormat 2 9 false [0, 1] redLimits [tok 1 2, tok 2 2] (some 1) = true ∧
    meetsFormat 9 9 false [0] redLimits [tok 1 9] = true := by
  decide +kernel

theorem witness_conversions :
    (let a := fmtA 8 11
     let s := mini 0 [(0, { tok 1 8 with nlane := 11 })]
     let ts := [{ tok 1 8 with nlane := 11 }]
     CanFire s h0 (computing [0]) ts ∧ (s.formatFault a (cvtLimits isFloat isFloat) [0] ts = none ∧ lanesIn s a ts ≤ lanesOut s a)) ∧
    (let a := fmtA 9 11
     let s := mini 0 [(0, { tok 1 9 with nlane := 11 })]
     let ts := [{ tok 1 9 with nlane := 11 }]
     CanFire s h0 (computing [0]) ts ∧ (s.formatFault a (cvtLimits isInt isFloat) [0] ts = none ∧ lanesIn s a ts ≤ lanesOut s a)) ∧
    (let a := fmtA 11 9
     let s := mini 0 [(0, tok 1 11)]
     CanFire s h0 (computing [0]) [tok 1 11] ∧
       (s.formatFault a (cvtLimits isFloat isInt) [0] [tok 1 11] = none ∧ lanesIn s a [tok 1 11] ≤ lanesOut s a)) := by
  refine ⟨?_, ?_, ?_⟩ <;> exact meets_sound (by decide +kernel)

theorem witness_movers :
    (let a := fmtA 2 2 true 3
     let s := mini 0 [(0, tok 9 2)]
     CanFire s h0 ⟨slotsA a [0, 1], slotsA a [0, 1], (slotsA a [0, 1]).filter (· != 0), slotsA a [0, 1]⟩ [tok 9 2] ∧
       s.laneFault a [tok 9 2] = none) ∧
    (let a := fmtA 2 2
     let s := mini 0 (at01 (tok 9 2) (tok 0xFF 2))
     CanFire s h0 ⟨slotsA a [0, 1], slotsA a [0, 1], (slotsA a [0, 1]).filter (· != 0), slotsA a [0, 1]⟩ [tok 9 2, tok 0xFF 2] ∧
       s.laneFault a [tok 9 2, tok 0xFF 2] = none) ∧
    (let a := fmtA 2 2
     let s := mini 0 (at01 (tok 9 2) (tok 0 2))
     CanFire s h0 ⟨[0, 1], [0, 1], [1], [0, 1]⟩ [tok 9 2, tok 0 2] ∧ s.moverFault a true ([tok 9 2, tok 0 2].take 1) = none) ∧
    (let a := fmtA 2 2
     let s := mini 0 (at01 (tok 9 2) (tok 1 2))
     CanFire s h0 ⟨[0, 1], [0, 1], [1], [0, 1]⟩ [tok 9 2, tok 1 2] ∧
       (s.moverFault a true ([tok 9 2, tok 1 2].take 1) = none ∧ vcmprCodes s a [tok 9 2, tok 1 2] ≠ [])) ∧
    (let a := fmtA 2 2
     let s := mini 0 (at01 (tok 9 2) (tok 0 2))
     CanFire s h0 ⟨[0, 1], [0, 1], [1], [0, 1]⟩ [tok 9 2, tok 0 2] ∧
       (s.moverFault a true ([tok 9 2, tok 0 2].take 1) = none ∧ vcmprCodes s a [tok 9 2, tok 0 2] = [])) ∧
    (let a := fmtA 2 2
     let s := mini 0 (at012 (tok 1 17) (tok 9 2) (tok 8 2))
     CanFire s h0 ⟨[0, 1, 2], [0, 1, 2], [0], [0, 1, 2]⟩ [tok 1 17, tok 9 2, tok 8 2] ∧
       s.moverFault a false ([tok 1 17, tok 9 2, tok 8 2].drop 1) = none) ∧
    (let a := fmtA 1 1 true 0x10
     let s := mini 0 [(0, tok 1 17), (2, tok 8 1)]
     CanFire s h0 ⟨[0, 2], [0, 2], [0], [0, 2]⟩ [tok 1 17, tok 8 1] ∧ s.moverFault a false ([tok 1 17, tok 8 1].drop 1) = none) ∧
    (let s := mini 0 [(0, tok 0)]
     CanFire s h0 (carrying [0]) [tok 0] ∧ viotaFault (fmtA 0 9) s = none) ∧
    (let a := fmtA 2 2
     let s := mini 0 (at01 (tok 9 2) (tok 8 2))
     CanFire s h0 ⟨[0, 1], [0, 1], [], [0, 1]⟩ [tok 9 2, tok 8 2] ∧ vpackFault a s [tok 9 2, tok 8 2] = none) ∧
    (let a := fmtA 2 2
     let s := mini 0 [(0, { tok 9 2 with nlane := 47 })]
     CanFire s h0 ⟨[0], [0], [], [0]⟩ [{ tok 9 2 with nlane := 47 }] ∧ s.moverFault a false [{ tok 9 2 with nlane := 47 }] = none) := by
  refine ⟨?_, ?_, ?_, ?_, ?_, ?_, ?_, ?_, ?_, ?_⟩ <;> exact meets_sound (by decide +kernel)

/-! Memory words: an ordinary page of this module at 0 to 65535, mapped with WR = 1, and the banks of the strand's wafer. -/

def leaf0 : BitVec 128 := 0x33
def miniM (w : BitVec 64) (toks : List (Nat × Tok)) (leaf : BitVec 128 := leaf0) : State :=
  let s := mini w toks
  { s with mem := { s.mem with tlb := [⟨0, none, 0, 0, 65536, leaf, none⟩] } }
def page (off : Nat) (leaf : BitVec 128 := leaf0) : Acc := accOf (BitVec.ofNat 64 off) leaf 5
/-- Bank 3 of wafer 0, reached through the scratchpad. -/
def bank3 (off : Nat) : Acc := { bank := true, addr := bankKey 0 0 3 off, va := BitVec.ofNat 64 (3 * 65536 + off) }
def fmtMem (vc : BitVec 5) (space : BitVec 3) (off : BitVec 13 := 0) : FmtM := ⟨vc, 127, 0, space, off⟩
def hw (fn : BitVec 6) : Hd := ⟨fn, 0, 0x1FF, 0x1FF⟩

theorem witness_loads :
    (let m := fmtMem 13 0 1
     let s := miniM 0 [(0, tok 65520)]
     CanFire s (hw 3) (computing [0]) [tok 65520] ∧ (widthFault m (widthOf (hw 3)) s [tok 65520] = none ∧ m.space ≠ 4 ∧
       Granted s m [tok 65520] (widthOf (hw 3)) false (opcode s.cur.word) st0 (page 65528) s ∧
       MayRead s s m [tok 65520] (widthOf (hw 3)) st0 (page 65528) ∧
       s.loadBytes st0 m [tok 65520] (page 65528) (widthOf (hw 3)) = (some ⟨zeros 8, false⟩, s))) ∧
    (let m := fmtMem 0 1
     let s := miniM 0 [(0, tok (3 * 65536))]
     CanFire s h0 (computing [0]) [tok (3 * 65536)] ∧ (rawFault m s [tok (3 * 65536)] = none ∧ m.space ≠ 4 ∧ m.space ≠ 5 ∧
       Granted s m [tok (3 * 65536)] 48 false (opcode s.cur.word) st0 (bank3 0) s ∧ MayRead s s m [tok (3 * 65536)] 48 st0 (bank3 0) ∧
       s.loadBytes st0 m [tok (3 * 65536)] (bank3 0) 48 = (some ⟨zeros 48, false⟩, s))) ∧
    (let m := fmtMem 0 4
     let s := miniM 0 [(0, tok 48)] 0x833
     CanFire s h0 (computing [0]) [tok 48] ∧ (rawFault m s [tok 48] = none ∧ m.space = 4 ∧
       Granted s m [tok 48] 48 false (opcode s.cur.word) st0 (page 48 0x833) s ∧ MayRead s s m [tok 48] 48 st0 (page 48 0x833) ∧
       (s.mayEvict (s.home 0) (page 48 0x833).kidx).readHome { page 48 0x833 with cv := false } 48 = (some ⟨zeros 48, false⟩, s))) ∧
    (let m := fmtMem 0 0
     let s := miniM 0 [(0, tok 192)]
     CanFire s h0 (computing [0]) [tok 192] ∧ (s.vcFault m = none ∧ Granted s m [tok 192] 192 false 0x84 st0 (page 192) s ∧
       MayRead s s m [tok 192] 192 st0 (page 192) ∧
       s.readBeats st0 m [tok 192] (page 192) 4 0 = (some (List.replicate 4 ⟨zeros 48, false⟩), s))) ∧
    (let m := fmtMem 9 1
     let s := miniM 0 [(0, tok (3 * 65536) 10)]
     CanFire s (hw 2) (computing [0]) [tok (3 * 65536) 10] ∧ (laneFault m (widthOf (hw 2)) s [tok (3 * 65536) 10] = none ∧
       s.here = some st0 ∧ s.notTurn m [tok (3 * 65536) 10] = false ∧
       s.laneAccs st0 m (widthOf (hw 2)) (s.laneAddrs (tk [tok (3 * 65536) 10] 0)) = .ok [bank3 0] ∧
       ∀ x ∈ [bank3 0], s.portBusy s.cur.node x (widthOf (hw 2)) = false ∧
         s.rmwBusy s.cur.node m.space x.va (widthOf (hw 2)) = false)) := by
  refine ⟨⟨canFire_sound (by decide +kernel), ?_⟩, ⟨canFire_sound (by decide +kernel), ?_⟩, ⟨canFire_sound (by decide +kernel), ?_⟩,
    ⟨canFire_sound (by decide +kernel), ?_⟩, ⟨canFire_sound (by decide +kernel), ?_⟩⟩
  · unfold Granted MayRead; decide +kernel
  · unfold Granted MayRead; decide +kernel
  · unfold Granted MayRead; decide +kernel
  · unfold Granted MayRead; decide +kernel
  · decide +kernel

/-- Page tables of partition 0 that map the first GiB onto itself, and a sequence 0 with one page: its entry, overlay directory, overlay
array, page descriptor and pool. -/
def seqCells : List Host.Cell :=
  [(0x10000, 16, 0x12001), (0x12000, 16, 0x14001), (0x14000, 16, 0x1B),
   (0x20000, 32, Ste.toNat ⟨true, 0, 0, 0, 0x21000, 1, 0⟩), (0x21000, 8, 0x22000), (0x22000, 8, 2 ^ 63 + 1), (0x23004, 4, 1)].foldl
    (fun m (x : Nat × Nat × Nat) => memWrite m x.1 (leBytes x.2.1 x.2.2)) []
def miniP (w : BitVec 64) (toks : List (Nat × Tok)) : State :=
  let s := miniM w toks
  { s with
    host := { s.host with parts := [(0, BitVec.ofNat 1024 (0x10000 * 2 ^ 352))] }
    mem := { s.mem with phys := seqCells, tlb := [] }
    pages := { s.pages with stbase := 0x20000, pdbase := 0x23000, poolbase := 0x24000, pstride := 0x1000 } }
def gib (va : Nat) : Acc := accOf (BitVec.ofNat 64 va) 0x1B 3

theorem witness_poolLoad :
    let m := fmtMem 0 5
    let s := miniP 0 [(0, tok 0)]
    let e : Ste := ⟨true, 0, 0, 0, 0x21000, 1, 0⟩
    m.space = 5 ∧ CanFire s h0 (computing [0]) [tok 0] ∧ (rawFault m s [tok 0] = none ∧ s.notTurn m [tok 0] = false ∧ s.seqBusy = false ∧
      m.off = 0 ∧ seqAddr (lane0 (tk [tok 0] 0) % 2 ^ 64) = (0, 0, 0, 0) ∧ s.seqStuck 0 = false ∧ 0 ≤ rbOf s ∧
      (s.poolPlace m [tok 0] 0 0 0).got s = .ok (some (1, 0x25000, e, 0)) s ∧ (readDesc 1).got s = .ok 1 s ∧
      bit (1 : BitVec 32) 16 = false ∧ (portAcc (0x25000 + 48 * 0) false).got s = .ok (gib 0x25000) s ∧ s.here = some st0 ∧
      s.ahead st0 (gib 0x25000) = false ∧ s.readHome (gib 0x25000) 48 = (some ⟨zeros 48, false⟩, s)) := by
  refine ⟨rfl, canFire_sound (by decide +kernel), ?_⟩
  iterate 13 refine ⟨by decide +kernel, ?_⟩
  decide +kernel

theorem witness_pref :
    let m := fmtMem 0 0
    let s := miniM 0 [(0, tok 48)]
    CanFire s h0 ⟨[0], [0, 1, 2], [], [0]⟩ [tok 48] ∧ (s.here = some st0 ∧ s.notTurn m [tok 48] = false ∧
      s.nodeWaits st0 s.cur.node m.space (effAddr m 48 (tk [tok 48] 0)) = false) :=
  meets_sound (by decide +kernel)
theorem witness_stores :
    (let m := fmtMem 13 0 1
     let s := miniM 0 (at01 (tok 65520) (tok 7))
     let ts := [tok 65520, tok 7]
     CanFire s (hw 3) ⟨[0, 1], [0, 1], [0], [0, 1]⟩ ts ∧ (widthFault m (widthOf (hw 3)) s ts = none ∧
       Granted s m ts (widthOf (hw 3)) true (opcode s.cur.word) st0 (page 65528) s ∧
       ((page 65528).bank = true → (tk ts 1).fl.poi = false) ∧
       s.undecodable (page 65528) (at_ (page 65528) (leBytes (widthOf (hw 3)) (tk ts 1).data.toNat)) = false)) ∧
    (let m := fmtMem 0 4
     let s := miniM 0 (at01 (tok 48) (tok 7)) 0x833
     let ts := [tok 48, tok 7]
     CanFire s h0 ⟨[0, 1], [0, 1], [0], [0, 1]⟩ ts ∧ (rawFault m s ts = none ∧
       Granted s m ts 48 true (opcode s.cur.word) st0 (page 48 0x833) s ∧
       ((page 48 0x833).bank = true → (tk ts 1).fl.poi = false) ∧ m.space = 4)) ∧
    (let m := fmtMem 0 1
     let s := miniM 0 (at01 (tok (3 * 65536)) (tok 7))
     let ts := [tok (3 * 65536), tok 7]
     CanFire s h0 ⟨[0, 1], [0, 1], [0], [0, 1]⟩ ts ∧ (rawFault m s ts = none ∧
       Granted s m ts 48 true (opcode s.cur.word) st0 (bank3 0) s ∧ ((bank3 0).bank = true → (tk ts 1).fl.poi = false) ∧
       s.undecodable (bank3 0) (at_ (bank3 0) (s.validBytes (tk ts 1))) = false)) ∧
    (let m := fmtMem 9 1
     let s := miniM 0 (at01 (tok (3 * 65536) 10) (tok 7))
     let ts := [tok (3 * 65536) 10, tok 7]
     CanFire s (hw 2) ⟨[0, 1], [0, 1], [0], [0, 1]⟩ ts ∧ (laneFault m (widthOf (hw 2)) s ts = none ∧ s.here = some st0 ∧
       s.notTurn m ts = false ∧ s.laneAccs st0 m (widthOf (hw 2)) (s.laneAddrs (tk ts 0)) = .ok [bank3 0] ∧ (tk ts 1).fl.poi = false)) ∧
    (let m := fmtMem 0 1
     let s := miniM 0 (at01 (tok (3 * 65536)) (tok 7))
     let ts := [tok (3 * 65536), tok 7]
     CanFire s h0 ⟨[0, 1], [0, 1], [0], [0, 1]⟩ ts ∧ (Granted s m ts 48 true 0x8A st0 (bank3 0) s ∧ (bank3 0).ss = false ∧
       ((bank3 0).bank = true → (tk ts 1).fl.poi = false))) := by
  refine ⟨⟨canFire_sound (by decide +kernel), ?_⟩, ⟨canFire_sound (by decide +kernel), ?_⟩, ⟨canFire_sound (by decide +kernel), ?_⟩,
    ⟨canFire_sound (by decide +kernel), ?_⟩, ⟨canFire_sound (by decide +kernel), ?_⟩⟩
  · unfold Granted; decide +kernel
  · unfold Granted; decide +kernel
  · unfold Granted; decide +kernel
  · decide +kernel
  · unfold Granted; decide +kernel

theorem witness_rmws :
    (let m := fmtMem 10 0
     let s := miniM 0 (at01 (tok 65532) (tok 7 10))
     let ts := [tok 65532, tok 7 10]
     CanFire s h0 (computing [0, 1]) ts ∧ (atomVc m (atomSize h0) s ts = none ∧
       Granted s m ts (atomSize h0) true (opcode s.cur.word) st0 (page 65532) s)) ∧
    (let m := fmtMem 13 1
     let s := miniM 0 (at012 (tok (3 * 65536)) (tok 7 13) (tok 8 13))
     let ts := [tok (3 * 65536), tok 7 13, tok 8 13]
     CanFire s (hw 16) (computing [0, 1, 2]) ts ∧ (atomVc m (atomSize (hw 16)) s ts = none ∧
       Granted s m ts (atomSize (hw 16)) true (opcode s.cur.word) st0 (bank3 0) s ∧ (bank3 0).ss = false)) ∧
    (let m := fmtMem 11 1
     let s := miniM 0 (at01 (tok (3 * 65536)) (tok 7 11))
     let ts := [tok (3 * 65536), tok 7 11]
     CanFire s h0 (computing [0, 1]) ts ∧ (fatomVc m s ts = none ∧ Granted s m ts 48 true (opcode s.cur.word) st0 (bank3 0) s)) ∧
    (let m := fmtMem 0 1
     let s := miniM 0 [(0, tok (3 * 65536))]
     CanFire s h0 (computing [0]) [tok (3 * 65536)] ∧
       (Granted s m [tok (3 * 65536)] 48 true (opcode s.cur.word) st0 (bank3 0) s ∧ (bank3 0).ss = false)) := by
  refine ⟨⟨canFire_sound (by decide +kernel), ?_⟩, ⟨canFire_sound (by decide +kernel), ?_⟩, ⟨canFire_sound (by decide +kernel), ?_⟩,
    ⟨canFire_sound (by decide +kernel), ?_⟩⟩ <;> (unfold Granted; decide +kernel)

theorem witness_fences :
    (let s := miniM 0 [(0, tok 0)]
     CanFire s h0 (carrying [0]) [tok 0] ∧ s.notTurn (fmtMem 0 0) [tok 0] = false) ∧
    (let s := miniM 0 (at01 (tok 0) (tok 192))
     CanFire s h0 (computing [0, 1]) [tok 0, tok 192] ∧ (s.here = some st0 ∧ s.notTurn (fmtMem 0 0) [tok 0, tok 192] = false ∧
       s.nodeWaits st0 s.cur.node 0 (effAddr (fmtMem 0 0) 192 (tk [tok 0, tok 192] 0)) = false ∧
       s.rangeFault st0 (effAddr (fmtMem 0 0) 192 (tk [tok 0, tok 192] 0)) (lane0 (tk [tok 0, tok 192] 1) / 65536 + 2)
         (lane0 (tk [tok 0, tok 192] 1)) = (none, s))) ∧
    (let s := mini 0 [(0, tok 0)]
     CanFire s h0 (computing [0]) [tok 0] ∧ goodDesc ((tk [tok 0] 0).data.extractLsb' 0 256) = true) := by
  refine ⟨?_, ?_, ?_⟩ <;> exact meets_sound (by decide +kernel)

/-! Channel, system, engine, remote and tile words. -/

theorem witness_channel :
    (let s := mini 0 [(0, tok (9 * 2 ^ 27))]
     CanFire s h0 ⟨[0], [0], [0], []⟩ [tok (9 * 2 ^ 27)] ∧
       ((tk [tok (9 * 2 ^ 27)] 0).fl.nil = false ∧ bits (tk [tok (9 * 2 ^ 27)] 0).data 0 7 = 0)) ∧
    (let t : Tok := { fl := { nil := true } }
     CanFire (mini 0 [(0, t)]) h0 ⟨[0], [0], [0], []⟩ [t] ∧ (tk [t] 0).fl.nil = true) ∧
    (let t : Tok := { tok 1 with nlane := 11 }
     CanFire (mini 0 [(0, t)]) h0 ⟨[0], [0], [], [0]⟩ [t] ∧ (tk [t] 0).nlane.toNat ≤ 11) ∧
    (let s := mini 0 [(0, tok 0x3F800000 11)]
     CanFire s h0 (computing [0]) [tok 0x3F800000 11] ∧
       s.formatFault (fmtA 11 2) qntLimits [0] [tok 0x3F800000 11] (some 0) = none) ∧
    (let s := mini 0 (at01 (tok 1 2) (tok 0x7F000000))
     CanFire s h0 (computing [0, 1]) [tok 1 2, tok 0x7F000000] ∧ dqntFault (fmtA 2 11) s [tok 1 2, tok 0x7F000000] = none) ∧
    (let a := fmtA 16 16 true 0x7F
     let s := mini 0 [(0, tok 0x80 16)]
     CanFire s h0 (computing (slotsA a [0, 1])) [tok 0x80 16] ∧ s.formatFault a sclxLimits (slotsA a [0, 1]) [tok 0x80 16] = none) ∧
    (let a := fmtA 2 1
     let s := mini 0 [(0, { tok 1 2 with nlane := 3 })]
     let ts := [{ tok 1 2 with nlane := 3 }]
     CanFire s h0 (computing [0]) ts ∧ s.formatFault a i4xpLimits [0] ts (some ((lanesIn s a ts + 3) / 4 * 4)) = none) ∧
    (let a := fmtA 1 2
     let s := mini 0 [(0, { tok 1 1 with nlane := 3 })]
     let ts := [{ tok 1 1 with nlane := 3 }]
     CanFire s h0 (computing [0]) ts ∧
       (s.formatFault a i4xuLimits [0] ts (some (s.i4xu a ts).length) = none ∧ i4xuFirst a % lanesOut s a = 0)) := by
  refine ⟨?_, ?_, ?_, ?_, ?_, ?_, ?_, ?_⟩ <;> exact meets_sound (by decide +kernel)

/-- The level-0 instance is settled: it is the oldest and no loop body. -/
theorem witness_settled : CanFire (mini 0 [(0, tok 0)]) h0 (carrying [0]) [tok 0] ∧ (mini 0 [(0, tok 0)]).hereSettled = true :=
  meets_sound (by decide +kernel)

def other (steals : List LTok) : Strand := { st0 with task := 9, wafers := [7], steals := steals }
theorem witness_system :
    (let s := mini 0 [(0, tok 0)]
     CanFire s h0 (carrying [0]) [tok 0] ∧ (s.here = some st0 ∧ st0.fault = 0)) ∧
    (let s := mini 0 [(0, tok (1 * 2 ^ 48))]
     CanFire s h0 (computing [0]) [tok (1 * 2 ^ 48)] ∧ bits (tk [tok (1 * 2 ^ 48)] 0).data 48 2 ≠ 3) ∧
    (let s := { mini 0 [(0, tok 0)] with strands := [st0, other []] }
     let x : FmtX := ⟨0, 9⟩
     CanFire s h0 (carrying [0]) [tok 0] ∧ (s.hereSettled = true ∧ s.strand (bits x.aux 12 3) (bits x.aux 0 12) = some (other []) ∧
       (other []).steals.length < 16)) ∧
    (let s := mini 0 [(0, tok 0)]
     let x : FmtX := ⟨0, 9⟩
     CanFire s h0 (carrying [0]) [tok 0] ∧ (s.hereSettled = true ∧ s.strand (bits x.aux 12 3) (bits x.aux 0 12) = none ∧
       ∀ v ∈ s.saved, v.strand.is (bits x.aux 12 3) (bits x.aux 0 12) = false)) ∧
    (let s := mini 0 [(0, tok 10)]
     CanFire s h0 (computing [0]) [tok 10] ∧ (s.here = some st0 ∧ s.settled st0 s.cur.key = true ∧ lane0 (tk [tok 10] 0) ≠ 0)) ∧
    (let s := mini 0 [(0, tok 0)]
     let x : FmtX := ⟨0, 1⟩
     CanFire s h0 (carrying [0]) [tok 0] ∧ (bit x.aux 0 = false ∨ s.hereSettled = true)) ∧
    (let st := { st0 with fault := 0x1000 }
     let s := { mini 0 [(0, tok 0)] with strands := [st] }
     CanFire s h0 (carrying [0]) [tok 0] ∧ (s.here = some st ∧ st.fault ≠ 0)) := by
  refine ⟨?_, ?_, ?_, ?_, ?_, ?_, ?_⟩ <;> exact meets_sound (by decide +kernel)

/-- The carry register of R326's example, a request in the queue, and the SPLT word at node 0. -/
theorem witness_spltSteal :
    let q : LTok := ⟨⟨⟨0, 7, 0⟩, 0⟩, 0, k0, tok 0⟩
    let st := { st0 with k := [(0, BitVec.ofNat 64 (100 + 1000 * 2 ^ 32))], steals := [q] }
    let s := { mini 0 [] with strands := [st] }
    let t := s.deliverSteal s.cur.node s.cur.key
    1 ≤ bits (8 : BitVec 30) 0 16 ∧ CanFire t h0 (computing [0]) [tok 0] ∧
      (t.here = some st ∧ t.settled st t.cur.key = true ∧ st.steals = q :: []) :=
  ⟨by decide, meets_sound (by decide +kernel)⟩

theorem witness_collecting :
    (let s := mini 0 (at01 { tok 3 13 with fl := { last := true } } (tok 0))
     let ts := [{ tok 3 13 with fl := { last := true } }, tok 0]
     ∃ t, s.bySeq s.cur.node s.cur.key 0 (BitVec.ofNat 16 (came s)) = some t ∧ CanFire t h0 ⟨indexSlots s, [0, 1], indexSlots s, []⟩ ts ∧
       t.cur = s.cur) ∧
    (let s := mini 0 (at01 (tok 3 13) (tok 0))
     ∃ t, s.bySeq s.cur.node s.cur.key 0 (BitVec.ofNat 16 (came s)) = some t ∧ (∀ k ∈ keptHere s, k.nums ≠ [1]) ∧
       CanFire t h0 ⟨indexSlots s, [0, 1, 2], indexSlots s, []⟩ [tok 3 13, tok 0] ∧ t.cur = s.cur) ∧
    (let k : Kept := ⟨n0, k0, [tok 0], [{ tok 3 13 with fl := { last := true } }], [1]⟩
     let s := { mini 0 [(2, tok 9)] with fab := { (mini 0 [(2, tok 9)]).fab with kept := [k] } }
     ∃ t, keptHere s = some k ∧ (k.nums = [1] ∨ s.bySeq s.cur.node s.cur.key 0 (BitVec.ofNat 16 k.toks.length) = none) ∧
       s.bySeq s.cur.node s.cur.key 2 (BitVec.ofNat 16 (k.ctl.length - 1)) = some t ∧ CanFire t h0 ⟨[2], [0, 1, 2], [], []⟩ [tok 9] ∧
       t.cur = s.cur) ∧
    (let s := mini 0 [(0, tok 3 9)]
     ∃ t, s.bySeq s.cur.node s.cur.key 0 (BitVec.ofNat 16 (came s)) = some t ∧ CanFire t h0 (computing [0]) [tok 3 9] ∧ t.cur = s.cur ∧
       collFault t [tok 3 9] = none) :=
  ⟨⟨_, rfl, canFire_sound (by decide +kernel), rfl⟩, ⟨_, rfl, by decide +kernel, canFire_sound (by decide +kernel), rfl⟩,
    ⟨_, by decide +kernel, .inl rfl, rfl, canFire_sound (by decide +kernel), rfl⟩,
    ⟨_, rfl, canFire_sound (by decide +kernel), rfl, by decide +kernel⟩⟩

/-- A page of module 1 beside one of this module, both step-shared, and a binding of class 0 to module 1. -/
def shared0 : BitVec 128 := 0xB3
def shared1 : BitVec 128 := 0x01000000000000B3
def withBinding (s : State) : State :=
  { s with pod := { s.pod with links := [(4, { word := BitVec.ofNat 64 (2 ^ 63 + 2 ^ 49) })] } }
theorem witness_remote :
    (let m := fmtMem 0 0
     let s := miniM 0 (at01 (tok 48) (tok 0)) shared0
     let ts := [tok 48, tok 0]
     CanFire s h0 ⟨[0, 1], [0, 1], [0], [0]⟩ ts ∧ (s.here = some st0 ∧ s.notTurn m ts = false ∧
       s.nodeWaits st0 s.cur.node m.space (effAddr m 48 (tk ts 0)) = false ∧ s.remoteAcc st0 s.cur.node m (effAddr m 48 (tk ts 0)) false 0xD8 = (.ok (page 48 shared0), s) ∧
       s.ahead st0 (page 48 shared0) = false ∧ s.portBusy s.cur.node (page 48 shared0) 48 = false ∧
       (page 48 shared0).hmod = s.module ∧ s.readHome (page 48 shared0) 48 = (some ⟨zeros 48, false⟩, s))) ∧
    (let m := fmtMem 0 0
     let s := withBinding (miniM 0 (at01 (tok 48) (tok 0)) shared1)
     let ts := [tok 48, tok 0]
     CanFire s h0 ⟨[0, 1], [0, 1], [0], [0]⟩ ts ∧ (s.here = some st0 ∧ s.notTurn m ts = false ∧
       s.nodeWaits st0 s.cur.node m.space (effAddr m 48 (tk ts 0)) = false ∧ s.remoteAcc st0 s.cur.node m (effAddr m 48 (tk ts 0)) false 0xD8 = (.ok (page 48 shared1), s) ∧
       s.ahead st0 (page 48 shared1) = false ∧ s.portBusy s.cur.node (page 48 shared1) 48 = false ∧
       (page 48 shared1).hmod ≠ s.module ∧
       s.binding 0 st0.part s.cur.node.ctx.die (page 48 shared1).hmod (page 48 shared1).hdie.toNat = some 4)) ∧
    (let m := fmtMem 0 0
     let s := miniM 0 (at012 (tok 48) (tok 7) (tok 0)) shared0
     let ts := [tok 48, tok 7, tok 0]
     CanFire s h0 ⟨[0, 1, 2], [0, 1, 2], [0], [0, 1]⟩ ts ∧ (s.vcFault m = none ∧ s.here = some st0 ∧ s.notTurn m ts = false ∧
       s.nodeWaits st0 s.cur.node m.space (effAddr m 48 (tk ts 0)) = false ∧ s.remoteAcc st0 s.cur.node m (effAddr m 48 (tk ts 0)) true 0xD9 = (.ok (page 48 shared0), s))) ∧
    (let m := fmtMem 9 0
     let s := miniM 0 (at012 (tok 48) (tok 7) (tok 0)) shared0
     let ts := [tok 48, tok 7, tok 0]
     CanFire s (hw 1) ⟨[0, 1, 2], [0, 1, 2], [0, 1], [0, 1]⟩ ts ∧ (s.vcFault m = none ∧ s.here = some st0 ∧ s.notTurn m ts = false ∧
       s.nodeWaits st0 s.cur.node m.space (effAddr m 48 (tk ts 0)) = false ∧ s.remoteAcc st0 s.cur.node m (effAddr m 48 (tk ts 0)) true 0xDA = (.ok (page 48 shared0), s))) := by
  refine ⟨?_, ?_, ?_, ?_⟩ <;> exact meets_sound (by decide +kernel)

/-! The tile and the verdict words. -/

/-- The level-0 instance has one queued word, with the token its firing took. -/
def queued (w : BitVec 64) (toks : List (Nat × Tok)) (nums : List Nat := []) : State :=
  let s := mini w []
  { s with mem := { s.mem with rmwq := [⟨n0, k0, toks, 127, w, 0, nums, 0⟩], nextSeq := 1 } }
def rmw0 (w : BitVec 64) (toks : List (Nat × Tok)) (nums : List Nat := []) : Rmw := ⟨n0, k0, toks, 127, w, 0, nums, 0⟩

theorem witness_tileIssue :
    (let a := fmtA 2 2
     let s := mini 0 [(0, tok 1 2)]
     CanFire s h0 ⟨[0], [0], [], [0]⟩ [tok 1 2] ∧ mldsFault a s [tok 1 2] = none) ∧
    CanFire (mini 0 [(0, tok 0x7F00000)]) h0 (computing [0]) [tok 0x7F00000] ∧
      bits (tk [tok 0x7F00000] 0).data 24 8 ≠ 255 :=
  ⟨meets_sound (by decide +kernel), canFire_sound (by decide +kernel), by decide⟩

/-- A weight beat of an abandoned accumulation of its instance. -/
theorem witness_weightDiscarded :
    let w : BitVec 64 := BitVec.ofNat 64 (0xA7 * 2 ^ 56)
    let s := { queued w [(0, tok 1 2)] with tiles := [(0, { tags := [{ TileTag.fresh k0 0 with dropped := true }] })] }
    Settled s 0 (rmw0 w [(0, tok 1 2)]) st0 ∧ (actingFor s (rmw0 w [(0, tok 1 2)]) st0).abandoned n0 k0 = true ∧
      (actingFor s (rmw0 w [(0, tok 1 2)]) st0).tileDue n0 (·.before (rmw0 w [(0, tok 1 2)])) = false := by
  unfold Settled
  decide +kernel

theorem witness_tilePerform :
    (∀ w ∈ [0xA7 * 2 ^ 56, 0xA8 * 2 ^ 56, 0xA9 * 2 ^ 56 + 1, 0xAC * 2 ^ 56, 0xB0 * 2 ^ 56],
      Settled (queued (BitVec.ofNat 64 w) [(0, tok 1 2)]) 0 (rmw0 (BitVec.ofNat 64 w) [(0, tok 1 2)]) st0 ∧
      (actingFor (queued (BitVec.ofNat 64 w) [(0, tok 1 2)]) (rmw0 (BitVec.ofNat 64 w) [(0, tok 1 2)]) st0).tileDue n0 (·.before (rmw0 (BitVec.ofNat 64 w) [(0, tok 1 2)])) = false ∧
      (actingFor (queued (BitVec.ofNat 64 w) [(0, tok 1 2)]) (rmw0 (BitVec.ofNat 64 w) [(0, tok 1 2)]) st0).abandoned n0 k0 = false) ∧
    opcode (BitVec.ofNat 64 (0xA7 * 2 ^ 56)) = 0xA7 ∧ opcode (BitVec.ofNat 64 (0xA8 * 2 ^ 56)) = 0xA8 ∧
    opcode (BitVec.ofNat 64 (0xA9 * 2 ^ 56 + 1)) = 0xA9 ∧ opcode (BitVec.ofNat 64 (0xAC * 2 ^ 56)) = 0xAC ∧
    opcode (BitVec.ofNat 64 (0xB0 * 2 ^ 56)) = 0xB0 := by
  unfold Settled
  decide +kernel

def withTag (s : State) (x : TileTag) : State := { s with tiles := [(0, { tags := [x] })] }
def t0 : TileTag := TileTag.fresh k0 0

/-- A first beat of a tag, a beat of an abandoned entry, and a drain of a final one. -/
theorem witness_tileStreams :
    (let a := fmtA 2 2
     let s := mini 0 [(0, { tok 1 2 with nlane := 47 })]
     let ts := [{ tok 1 2 with nlane := 47 }]
     CanFire (s.nextStep n0 k0 t0) h0 ⟨[0], [0], [], [0]⟩ ts ∧
       (s.tagOf n0 k0 = t0 ∧ (s.nextStep n0 k0 t0).cur = s.cur ∧ t0.dropped = false ∧ t0.wants (tk ts 0).seq.toNat = true ∧
        mfirFault a ((s.nextStep n0 k0 t0).overstated (tk ts 0) ((s.nextStep n0 k0 t0).tagFor n0 t0 0).1) (s.nextStep n0 k0 t0) ts = none ∧
        (s.nextStep n0 k0 t0).crumbFault n0 0 (tk ts 0) = none ∧
        (s.nextStep n0 k0 t0).tileDue n0 (fun _ => true) = false ∧ (s.nextStep n0 k0 t0).tileFrozen n0 k0 = false)) ∧
    (let x := { t0 with dropped := true }
     let s := withTag (mini 0 [(0, tok 1 2)]) x
     CanFire s h0 ⟨[0], [0], [], [0]⟩ [tok 1 2] ∧
       (s.tagOf n0 k0 = x ∧ x.dropped = true ∧ x.over = false ∧ s.tileDue n0 (fun _ => true) = false ∧ s.tileFrozen n0 k0 = false)) ∧
    (let a := fmtA 14 11
     let x := { t0 with final := true }
     let s := withTag (mini 0 [(0, tok 0)]) x
     CanFire s h0 (carrying [0]) [tok 0] ∧
       ((s.tile n0).tags.find? (fun y => y.key = k0 && y.slot = 0) = some x ∧ mdrnFault a s [tok 0] = none ∧
        s.tileDue n0 (fun _ => true) = false ∧ x.final = true ∧ x.drained = false ∧ fmtOf (s.ent a.vci) = x.fmt ∧ x.poison = [])) := by
  refine ⟨?_, ?_, ?_⟩ <;> exact meets_sound (by decide +kernel)

theorem witness_verdict :
    (let a := fmtA 2 11
     let s := mini 0 (at01 (tok 1 2) (tok 1 2))
     CanFire s h0 (computing [0, 1]) [tok 1 2, tok 1 2] ∧ bndsFault a s [tok 1 2, tok 1 2] = none) ∧
    (let p : BitVec 30 := 1
     let s := mini 0 [(0, tok 0 14)]
     CanFire s h0 (computing [0]) [tok 0 14] ∧
       (s.here = some st0 ∧ (bit p 3 = true → s.inMask st0.part (bits p 10 3) (bits p 4 6) = true))) ∧
    (let p : BitVec 30 := 0x18
     let s := mini 0 [(0, tok 0 14)]
     let s := { s with host := { s.host with parts := [(0, BitVec.ofNat 1024 (2 ^ 513))] } }
     CanFire s h0 (computing [0]) [tok 0 14] ∧
       (bit p 3 = true ∧ s.here = some st0 ∧ (bit p 3 = true → s.inMask st0.part (bits p 10 3) (bits p 4 6) = true))) ∧
    (let a := fmtA 14 11 true
     let s := mini 0 [(0, tok 0xC000000000000 14)]
     let sl := slotsA a [0, 1]
     CanFire s h0 ⟨sl, sl, sl.filter (· != 0), sl⟩ [tok 0xC000000000000 14] ∧ vpikFault a sl s [tok 0xC000000000000 14] = none) ∧
    (let a := fmtA 14 11
     let s := mini 0 (at01 (tok 1 14) (tok 1 14))
     let sl := slotsA a [0, 1]
     CanFire s h0 ⟨sl, sl, sl.filter (· != 0), sl⟩ [tok 1 14, tok 1 14] ∧ vpikFault a sl s [tok 1 14, tok 1 14] = none) ∧
    (let a := fmtA 14 17 false 1
     let s := mini 0 [(0, tok 1 14)]
     CanFire s h0 ⟨[0], [0], [], [0]⟩ [tok 1 14] ∧ iscrFault a s [tok 1 14] = none) := by
  refine ⟨?_, ?_, ?_, ?_, ?_, ?_⟩ <;> exact meets_sound (by decide +kernel)

theorem witness_accumulating :
    (let a := fmtA 2 14
     let ts := [tok 3 2, tok 4 2, tok 2 0]
     let s := mini 0 (at012 (tok 3 2) (tok 4 2) (tok 2 0))
     ∃ t, s.nextBeats a s.cur.node s.cur.key 0 = some t ∧ t.cur = s.cur ∧ keptHere s = none ∧
       CanFire t h0 ⟨[0, 1, 2], [0, 1, 2], [0, 1, 2], []⟩ ts ∧ vaccFault a (fun s ts => s.openVacc (tk ts 2)) t ts = none ∧
       declFault (tk (t.vaccToks a ts) 2) = none) ∧
    (let a := fmtA 2 14
     let ts := [{ tok 3 2 with seq := 1 }, { tok 4 2 with seq := 1 }]
     let k : Kept := ⟨n0, k0, [tok 2], [], [1, 0, 0, 0, 0, 0]⟩
     let s := mini 0 (at01 { tok 3 2 with seq := 1 } { tok 4 2 with seq := 1 })
     let s := { s with fab := { s.fab with kept := [k] } }
     ∃ t, s.nextBeats a s.cur.node s.cur.key (Vacc.ofKept k).next = some t ∧ t.cur = s.cur ∧ keptHere s = some k ∧
       (CanFire t h0 ⟨[0, 1], [0, 1, 2], if (Vacc.ofKept k).crumbed then [] else [0, 1], []⟩ ts ∧
       ((Vacc.ofKept k).crumbed = false → vaccFault a (fun _ _ => Vacc.ofKept k) t ts = none))) ∧
    (let a := fmtA 14 14
     let t0 : Tok := { tok 3 14 with fl := { last := true } }
     let s := mini 0 [(0, t0)]
     ∃ t, s.bySeq s.cur.node s.cur.key 0 0 = some t ∧ t.cur = s.cur ∧
       (CanFire t h0 ⟨[0], [0], [], []⟩ [t0] ∧ topkFault a t [t0] = none)) :=
  ⟨⟨_, rfl, rfl, rfl, canFire_sound (by decide +kernel), by decide +kernel, by decide +kernel⟩,
   ⟨_, rfl, rfl, by decide +kernel, meets_sound (by decide +kernel)⟩, ⟨_, rfl, rfl, meets_sound (by decide +kernel)⟩⟩

/-! Match stores: store 0 of wafer 0, whose keys are `klc` coded, KVC 2, in cell 0. -/

def desc (klc : Nat) (more : Nat := 0) : Desc := BitVec.ofNat 128 (1 + klc * 2 ^ 35 + 2 * 2 ^ 38 + more)
def miniK (w : BitVec 64) (toks : List (Nat × Tok)) (d : Desc) (kept : List Kept := []) : State :=
  let s := mini w toks
  { s with
    mat := { s.mat with stores := [(0, { desc := d })] }
    fab := { s.fab with kept := kept }
    pl := { s.pl with roles := [(0, BitVec.ofNat 129 3)] } }
def fmtK (mode : BitVec 2 := 0) (filt : BitVec 8 := 0) : FmtK := ⟨2, 0, 0, 0, mode, filt⟩
def desc0 : Tok := tok (2 * 2 ^ 38)

theorem witness_matchStore :
    (let c := fmtK
     let s := miniK 0 [(0, desc0)] 0
     CanFire s h0 (computing [0]) [desc0] ∧ (∀ x ∈ s.kdefCodes (s.ownStore c) c.keyvc (tk [desc0] 0).data, x.2 = false)) ∧
    (let c := fmtK
     let s := miniK 0 [(0, tok 1)] (desc 0)
     CanFire s h0 (computing [0]) [tok 1] ∧ (∀ x ∈ s.putCodes (s.ownStore c) c.keyvc, x.2 = false)) ∧
    (let c := fmtK
     let s := miniK 0 [(0, tok 1)] (desc 0)
     CanFire s h0 (carrying [0]) [tok 1] ∧ (∀ x ∈ s.storeCodes (s.ownStore c) c.keyvc, x.2 = false)) ∧
    (let c := fmtK 0 3
     let s := mini 0 [(0, tok 0x21)]
     CanFire s h0 (computing [0]) [tok 0x21] ∧
       (c.filt ≠ 0 ∧ bits (tk [tok 0x21] 0).data 14 18 = 0 ∧ bits (tk [tok 0x21] 0).data 6 2 = 0)) := by
  refine ⟨?_, ?_, ?_, ?_⟩ <;> exact meets_sound (by decide +kernel)

/-- The first of two key beats, and the second, which is the last. -/
def beat0 : Tok := tok 5 2
def beat1 : Tok := { tok 6 2 with seq := 1, fl := { last := true } }
def keptBeat : Kept := ⟨n0, k0, [], [beat0], []⟩

theorem witness_keyBeats :
    (let s := miniK 0 [(0, beat0)] (desc 2)
     ∃ t, KeyBeat s t 0 false ∧ CanFire t h0 ⟨[0], [0, 1, 2], [0], []⟩ [beat0] ∧
       (∀ x ∈ (t.putCodes 0 2).filter fun x => x.1 != 4 && x.1 != 12, x.2 = false)) ∧
    (let s := miniK 0 (at012 beat1 (tok 7) (tok 8)) (desc 2) [keptBeat]
     ∃ t, KeyBeat s t 0 true ∧ CanFire t h0 ⟨[0, 1, 2], [0, 1, 2], [0, 1], []⟩ [beat1, tok 7, tok 8] ∧
       (∀ x ∈ t.putCodes 0 2, x.2 = false)) ∧
    (let s := miniK 0 [(0, beat0)] (desc 2)
     ∃ t, KeyBeat s t 0 false ∧ CanFire t h0 ⟨[0], [0, 1], [0], []⟩ [beat0] ∧ (∀ x ∈ t.storeCodes 0 2, x.2 = false)) ∧
    (let s := miniK 0 (at01 beat1 (tok 0)) (desc 2) [keptBeat]
     let ts := [beat1, tok 0]
     let c := fmtK
     ∃ t, KeyBeat s t 0 true ∧ CanFire t h0 ⟨[0, 1], [0, 1], [0, 1], []⟩ ts ∧ (∀ x ∈ t.storeCodes 0 2, x.2 = false) ∧
       (t.store (s.ownStore c)).desc.kind ≠ 1 ∧ bits (tk ts 1).data 192 192 = 0 ∧ bits (tk ts 1).data 118 10 = 0 ∧
       (c.mode = 2 → c.k = 0) ∧ (t.mergeFeed h0 = true → h0.ta = noTarget)) := by
  refine ⟨⟨_, ⟨rfl, rfl, ?_, by decide +kernel⟩, meets_sound (by decide +kernel)⟩,
    ⟨_, ⟨rfl, rfl, ?_, by decide +kernel⟩, meets_sound (by decide +kernel)⟩,
    ⟨_, ⟨rfl, rfl, ?_, by decide +kernel⟩, meets_sound (by decide +kernel)⟩,
    ⟨_, ⟨rfl, rfl, ?_, by decide +kernel⟩, meets_sound (by decide +kernel)⟩⟩
  · exact ⟨beat0, by decide +kernel⟩
  · exact ⟨beat1, by decide +kernel⟩
  · exact ⟨beat0, by decide +kernel⟩
  · exact ⟨beat1, by decide +kernel⟩

/-- Merge nodes: the first token of two listed stores with the control beat, and an end mark of the other with a result kept. -/
def mergeCtl : Tok := tok (2 ^ 380 + 2 ^ 23)
def scoreTok (v : Nat) (g : Nat) : Tok := tok (v + g * 2 ^ 160) 14
def endTok (g : Nat) : Tok := { fl := { endf := true }, src := g + 1 }
def keptMerge (fin : Nat) (done : List Nat) (cands : List Tok) : Kept := ⟨n0, k0, mergeCtl :: cands, cands, [fin, 0, 0] ++ done⟩

/-- Stores 0 and 1 hold a SOFT result of two lanes each. -/
def miniFeeds (toks : List (Nat × Tok)) (kept : List Kept) : State :=
  let s := miniK 0 toks 0 kept
  let x : Store := { desc := desc 0, feed := some (n0, k0, [0], [0, 0, 1, 2]) }
  { s with mat := { s.mat with stores := [(0, x), (1, x)] } }

theorem witness_merges :
    (let s := mini 0 (at01 (scoreTok 9 0) mergeCtl)
     let ts := [scoreTok 9 0, mergeCtl]
     CanFire s h0 ⟨[0, 1], [0, 1], [1], [1]⟩ ts ∧
       (keptHere s = none ∧ (mergeHere s ts).refuses (some (bits (tk ts 0).data 160 23)) = false ∧ isMark (tk ts 0) = false ∧
        (mergeHere s ts).last = [])) ∧
    (let k := keptMerge 1 [0] []
     let s := miniK 0 [(0, endTok 1)] 0 [k]
     let ts := [endTok 1]
     CanFire s h0 ⟨[0], [0, 1], [], []⟩ ts ∧
       (keptHere s = some k ∧ (mergeHere s ts).refuses (tk ts 0).from = false ∧ isMark (tk ts 0) = true ∧
        (mergeHere s ts).retry = false ∧ (tk ts 0).fl.retry = false ∧
        mergeNin (mergeHere s ts).ctl.data < (mergeHere s ts).fin + 1 ∧ s.fetches true (mergeHere s ts) = [] ∧
        s.winners s.cur.node s.cur.key [] 0 (mergeHere s ts).cands ≠ none)) ∧
    (let k := keptMerge 1 [0] [tok 0]
     let x := tok 1
     let s := miniFeeds [(0, x)] [k]
     let ts := [x]
     let all := { mergeHere s ts with cands := (mergeHere s ts).cands ++ [x] }
     CanFire s h0 ⟨[0], [0, 1], [], []⟩ ts ∧
       ((mergeHere s ts).refuses (some (bits x.data 0 23)) = false ∧ (mergeHere s ts).retry = false ∧ x.fl.nil = false ∧
        mergeNin (mergeHere s ts).ctl.data < (mergeHere s ts).fin + 1 ∧ s.fetches false all = [] ∧ all.parts = [0, 1] ∧
        ∀ g ∈ all.parts, s.fetched s.cur.node s.cur.key [] g none ≠ none)) := by
  refine ⟨?_, ?_, ?_⟩ <;> exact meets_sound (by decide +kernel)

/-! Sequence pages. -/

theorem witness_pages :
    (let s := miniP 0 [(0, tok 0)]
     let e : Ste := ⟨true, 0, 0, 0, 0x21000, 1, 0⟩
     CanFire s h0 (computing [0]) [tok 0] ∧ (pageAddr [tok 0] = (0, 0, 0, 0) ∧ s.notTurn (fmtMem 0 0) [tok 0] = false ∧
       s.seqBusy = false ∧ s.seqStuck 0 = false ∧ (resolvePos 0 0 0).got s = .ok (some (1, 0x25000, e, 0)) s ∧
       (readDesc 1).got s = .ok 1 s)) ∧
    (let s := miniP 0 [(0, tok 256)]
     CanFire s h0 (computing [0]) [tok 256] ∧ (pageAddr [tok 256] = (0, 0, 16, 0) ∧ s.notTurn (fmtMem 0 0) [tok 256] = false ∧
       s.seqBusy = false ∧ s.seqStuck 0 = false ∧ (resolvePos 0 0 16).got s = .ok none s)) ∧
    (let s := miniP 0 (at01 (tok 16) (tok 7))
     let ts := [tok 16, tok 7]
     CanFire s h0 ⟨[0, 1], [0, 1], [0], [0, 1]⟩ ts ∧ (pageAddr ts = (0, 0, 1, 0) ∧ s.notTurn (fmtMem 0 0) ts = false ∧
       s.seqBusy = false ∧ s.seqStuck 0 = false ∧
       (appendCheck n0 k0 0 0 1 0).got s = .ok (1, gib 0x25030) { s with pages := { s.pages with pinned := [(1, n0, k0)] } })) :=
  ⟨⟨canFire_sound (by decide +kernel), by decide +kernel⟩, ⟨canFire_sound (by decide +kernel), by decide +kernel⟩,
    ⟨canFire_sound (by decide +kernel), by decide +kernel⟩⟩

/-! The sequencer. -/

def seqing : Strand := { st0 with mode := .run }
def miniQ : State := { mini 0 [] with strands := [seqing] }

theorem witness_sequencing :
    Sequencing miniQ seqing ∧ seqing.l0 = some k0 ∧ miniQ.drained seqing = true ∧ bits (0 : BitVec 6) 0 2 < seqing.slots.length ∧
    (bits (0x800 : BitVec 32) 8 2 < seqing.slots.length) ∧ miniQ.streamPending seqing 0 = false ∧
    goodDesc (setBits (Tab.get 0 0 seqing.sd) 0 64 (miniQ.readReg seqing 0).toNat) = true ∧ goodDesc (miniQ.constDesc seqing 0) = true ∧
    goodDesc (Tab.get 0 0 seqing.sd) = true ∧ (∀ w ∈ seqing.wafers, (miniQ.stream seqing.die w 0).armed = false) ∧
    seqing.step = (miniQ.domain seqing.part).step := by
  unfold Sequencing
  decide +kernel

/-- Every condition of QBR on the registers 3 and 5, as signed numbers, holds and fails. -/
theorem witness_branches :
    holdsCond 0 3 3 ∧ ¬holdsCond 0 3 5 ∧ holdsCond 1 3 5 ∧ ¬holdsCond 1 3 3 ∧ holdsCond 2 (-1) 3 ∧ ¬holdsCond 2 3 3 ∧ holdsCond 3 3 3 ∧
    ¬holdsCond 3 5 3 ∧ holdsCond 4 5 3 ∧ ¬holdsCond 4 3 3 ∧ holdsCond 5 3 3 ∧ ¬holdsCond 5 3 5 ∧ holdsCond 6 3 5 := by
  unfold holdsCond
  omega

/-! Instances and tokens. -/

def inst0 : Inst :=
  { ctx := c0, key := k0, wave := some 0, held := [], issued := [], rmw := false, entered := [], beats := [], tail := false, since := 0, due := 0,
    granted := [] }
def inStrand (st : Strand) (s : State := mini 0 []) : State := { s with strands := [st] }
def waitingTag : TagReq := ⟨n0, k0, tok 0, 1, some k0, 0, false⟩

theorem witness_instances :
    (let st := { st0 with insts := [{ inst0 with issued := [0] }] }
     let s := inStrand st
     s.strandOf c0 = some st ∧ st.inst c0 k0 = some { inst0 with issued := [0] } ∧ s.mayCommit st { inst0 with issued := [0] } = true) ∧
    (let x := { inst0 with tail := true }
     let st := { st0 with insts := [x] }
     let s := inStrand st
     s.strandOf c0 = some st ∧ st.inst c0 k0 = some x ∧ x.tail = true ∧ x.due = 0 ∧ st.frozen = false ∧ s.hasToken c0 k0 = false ∧
       st.reqs = [] ∧ s.flt.regs = []) ∧
    (let st := { st0 with levels := upd (fun l => { l with adv := true }) 1 st0.levels }
     let s := inStrand st
     s.strand 0 5 = some st ∧ (st.level 1).adv = true ∧ s.inFlight st 1 ((st.level 1).gen + 1) = false) ∧
    (let st := { st0 with reqs := [waitingTag] }
     let s := inStrand st
     s.strand 0 5 = some st ∧ st.nextReq 1 = some waitingTag ∧ s.block n0.ctx = some (block0 [0]) ∧ st.frozen = false ∧
       st.saving = false ∧ (st.level 1).free = false ∧ s.latchEmpty n0 = true ∧
       (st.grantable waitingTag (s.levelRoom st n0.ctx.slot 1)).isSome) := by
  decide +kernel

def n2 : Node := ⟨c0, 2⟩
def lt0 (t : Tok := tok 1) : LTok := ⟨n0, 0, k0, t⟩
def latch0 (left : List (Nat × Nat)) : Latch := ⟨n0, k0, tok 1, left⟩
def inFab (f : Fabric → Fabric) (s : State := mini 0 []) : State := { s with fab := f s.fab }

/-- Of one possibility the free choice takes it. -/
theorem pick_one (s : State) : s.pick 1 = 0 := Nat.mod_one _
def flight0 : Flight := Flight.inject n0 (lt0)

theorem witness_tokens :
    (let s := inFab fun f => { f with latch := [latch0 [(1, 0)]] }
     s.fab.latch[0]? = some (latch0 [(1, 0)]) ∧ (latch0 [(1, 0)]).left[s.pick 1]? = some (1, 0) ∧ s.held c0 = false ∧ s.mayPass (.inl n0) = true ∧
       s.mrgoWaits ⟨⟨c0, 1⟩, 0, k0, tok 1⟩ = false ∧ (⟨c0, 1⟩ : Node).cell = n0.cell ∧ s.partRoom ⟨c0, 1⟩ = true) ∧
    (let s := inFab fun f => { f with latch := [latch0 [(2, 1)]] }
     s.fab.latch[0]? = some (latch0 [(2, 1)]) ∧ (latch0 [(2, 1)]).left[s.pick 1]? = some (2, 1) ∧ s.held c0 = false ∧ s.mayPass (.inl n0) = true ∧
       s.mrgoWaits ⟨n2, 1, k0, tok 1⟩ = false ∧ n2.cell ≠ n0.cell ∧ s.injects n0 = true) ∧
    (let s := inFab fun f => { f with net := [flight0] }
     s.fab.net[0]? = some flight0 ∧ flight0.home = true ∧ s.partRoom n0 = true) ∧
    (let s := inFab fun f => { f with part := [lt0] }
     s.fab.part[0]? = some lt0 ∧ s.strandOf c0 = some st0 ∧ s.stale lt0 = false ∧ s.wadvDiscards st0 lt0 = false ∧
       lt0.tok.fl.hdr = false ∧ s.inTurn [] lt0 = true ∧ s.writeWalk lt0 = none ∧ s.operandRoom st0 lt0 = true) ∧
    (let t := lt0 { tok 1 with fl := { hdr := true } }
     let s := inFab fun f => { f with part := [t] }
     s.fab.part[0]? = some t ∧ t.tok.fl.hdr = true ∧ s.inTurn [] t = true ∧ s.stale t = false) ∧
    8 ≤ (inFab fun f => { f with agePhase := 8 }).fab.agePhase ∧
    (let s := inFab (fun f => { f with starve := [(starveKey (cellKey 0 0 0) 0, 60)], forced := [] })
       { mini 0 [] with pl := { (mini 0 []).pl with ctx := [(0, { active := some (block0 [0]), prio := 1 })] } }
     s.fab.forced = [] ∧ s.forces ⟨⟨0, 0, 0⟩, 2 * 0⟩ = true) := by
  simp only [pick_one]
  decide +kernel

/-- A walk of engine 0 that writes 48-byte beats to page 0 from the tokens for slot 0 of node 0: two beats, WIN 0. -/
def writer0 (ret : List (Nat × Tok × Bool) := []) : Stream :=
  { startWalk (BitVec.ofNat 256 (2 ^ 236 + 2 ^ 160 + 48 * 2 ^ 64)) k0 0 5 with returns := ret }
theorem witness_writeWalk :
    let s := inFab (fun f => { f with part := [lt0] }) ({ mini 0 [] with eng := { State.reset.eng with streams := [(0, writer0)] } })
    s.fab.part[0]? = some lt0 ∧ s.strandOf c0 = some st0 ∧ s.stale lt0 = false ∧ s.wadvDiscards st0 lt0 = false ∧
      lt0.tok.fl.hdr = false ∧ s.inTurn [] lt0 = true ∧ s.writeWalk lt0 = some (0, writer0) ∧
      writer0.takeBeat lt0.tok = some (writer0 [(0, tok 1, false)]) ∧ s.held c0 = false := by
  decide +kernel

/-! Strands. -/

theorem witness_strands :
    (let st := { st0 with exits := [(0, 0, none)] }
     (inStrand st).strand 0 5 = some st ∧ st.mode ≠ .ended ∧ (inStrand st).phaseOver st = true ∧ (inStrand st).foldsAsked st = false) ∧
    (let st := { st0 with exits := [(0, 0, none)] }
     let s := inStrand st (miniK 0 [] (desc 0))
     let s := { s with mat := { s.mat with stores := [(0, { desc := desc 0, fold := [taskKey 0 5] })] } }
     s.strand 0 5 = some st ∧ st.mode ≠ .ended ∧ s.phaseOver st = true ∧ s.foldsAsked st = true) ∧
    (let st := { st0 with mode := .ended }
     (inStrand st).strand 0 5 = some st ∧ (inStrand st).drained st = true) ∧
    (let st := { st0 with mode := .load 0 0 }
     (inStrand st).strand 0 5 = some st ∧ st.frozen = false ∧ st.saving = false ∧ (inStrand st).drained st = true ∧ st.l0 = some k0) ∧
    (let st := { st0 with mode := .loaded 0 0 }
     (inStrand st).strand 0 5 = some st ∧ (inStrand st).clashes st 0 = [] ∧ (inStrand st).mayFlip st 0 = true ∧ st.wafers.length ≤ 16) ∧
    (let st := { st0 with mode := .loaded 0 0, wafers := List.range 17 }
     (inStrand st).strand 0 5 = some st ∧ (inStrand st).clashes st 0 = [] ∧ (inStrand st).mayFlip st 0 = true ∧ 16 < st.wafers.length) ∧
    (let st := { st0 with mode := .flipping 0 0 (List.range 17) 5, wafers := List.range 17 }
     (inStrand st).strand 0 5 = some st ∧ (inStrand st).clashes st 0 = [] ∧ (∀ w ∈ st.wafers, w ∈ List.range 17) ∧
       (inStrand st).mayFlip st 0 = true) ∧
    (let st := { st0 with mode := .flipping 0 0 (List.range 15) 0, wafers := List.range 17 }
     (inStrand st).strand 0 5 = some st ∧ (inStrand st).clashes st 0 = [] ∧ 15 ∈ st.wafers ∧ (st.unacked (List.range 15) 0).length = 1 ∧
       (st.unacked (List.range 15) 0)[(inStrand st).pick 1]? = some 15) ∧
    (let st := { st0 with mode := .flipping 0 0 (List.range 3) 1024, wafers := List.range 17 }
     (inStrand st).strand 0 5 = some st ∧ st.wafers.find? (fun x => !(List.range 3).contains x) = some 3) ∧
    (let st := { st0 with mode := .cycles 0 }
     (inStrand st).strand 0 5 = some st ∧ st.frozen = false ∧ st.saving = false) ∧
    (let st := { st0 with saving := true }
     (inStrand st).strand 0 5 = some st ∧ (inStrand st).quiet st = true ∧ (inStrand st).saveWaits st st.lead = false) := by
  simp only [pick_one]
  decide +kernel

/-- A task that any wafer of die 0 may run, and one whose table entry is not valid. -/
def entry0 : BitVec 256 := BitVec.ofNat 256 (1 + 3 * 2 ^ 32 + 2 ^ 148)
def part0 : BitVec 1024 := BitVec.ofNat 1024 (1 + 2 ^ 512)
def ready0 (task : Nat) (restore : Bool := false) : Ready := ⟨task, 3, [], restore, 0⟩
def saved0 : Saved :=
  { strand := { st0 with task := 7, slots := [0, 1, 2, 3], mode := .run }, latch := [], part := [], ostore := [], hlatch := [], kept := []
    mrgo := [], yielded := [], rmwq := [], blocks := [], wafers := [], regs := [], reserved := [], later := [], seed := 0
    broken := false }
def waitingFor (r : Ready) (strands : List Strand) (v : List Saved) (plans : Tab Plan := []) : State :=
  let s := mini 0 []
  { s with
    strands := strands, saved := v, pl := { s.pl with ctx := [] }
    sch := { s.sch with ready := [(0, r)], tasks := [(taskKey 0 7, entry0), (taskKey 0 5, entry0)], plans := plans }
    host := { s.host with parts := [(0, part0)] } }
/-- An eviction that the die's plan has decided on. -/
def evicting : State := waitingFor (ready0 7) [{ st0 with mode := .run }] [] [(0, ⟨7, 3, [0], [0, 1, 2, 3], [0], [], [5], true⟩)]

def places (r : Ready) : Option Placing → Bool
  | some (.onto x _ _) => x = r
  | _ => false
theorem places_sound {r : Ready} {o : Option Placing} (c : places r o = true) : ∃ ws slots, o = some (.onto r ws slots) := by
  unfold places at c
  split at c
  · exact ⟨_, _, by rw [of_decide_eq_true c]⟩
  · contradiction
def discards (r : Ready) (code : Nat) : Option Placing → Bool
  | some (.discard x n) => x = r && n = code
  | _ => false
theorem discards_sound {r : Ready} {code : Nat} {o : Option Placing} (c : discards r code o = true) : o = some (.discard r code) := by
  unfold discards at c
  split at c
  · simp only [Bool.and_eq_true, decide_eq_true_eq] at c; rw [c.1, c.2]
  · contradiction

theorem witness_placing :
    (let s := waitingFor (ready0 7) [] []
     (ready0 7).restore = false ∧ ∃ ws slots, (s.plan 0).nextPlace 0 = some (.onto (ready0 7) ws slots)) ∧
    (let s := waitingFor (ready0 6) [] []
     (s.plan 0).nextPlace 0 = some (.discard (ready0 6) 1)) ∧
    (let s := waitingFor (ready0 7 true) [] [saved0]
     (s.plan 0).savedOf 0 7 = some saved0 ∧ ∃ ws slots, (s.plan 0).nextPlace 0 = some (.onto (ready0 7 true) ws slots)) ∧
    (let st := { st0 with mode := .run }
     evicting.strand 0 5 = some st ∧ st.saving = false ∧ evicting.movable st = true ∧ (evicting.plan 0).planned st = true) := by
  refine ⟨⟨rfl, places_sound (by decide +kernel)⟩, discards_sound (by decide +kernel), ⟨by decide +kernel, places_sound (by decide +kernel)⟩,
    by decide +kernel⟩

/-- A priority on its way to the cells `left` of context 0. -/
def prio0 (left : List Nat) : PrioWrite := ⟨c0, [c0], 4, left, 0⟩
def inPrio (left : List Nat) : State := { mini 0 [] with sch := { (mini 0 []).sch with prioq := [prio0 left] } }
theorem witness_priorities :
    (let s := inPrio [0]
     s.sch.prioq[0]? = some (prio0 [0]) ∧ s.mayReach 0 (prio0 [0]) = [0] ∧ (prio0 [0]).left.filter (· != [0].getD (s.pick 1) 0) = []) ∧
    (let s := inPrio [0, 4]
     s.sch.prioq[0]? = some (prio0 [0, 4]) ∧ s.mayReach 0 (prio0 [0, 4]) = [0, 4] ∧
       (prio0 [0, 4]).left.filter (· != [0, 4].getD (s.pick 2) 0) ≠ []) := by
  refine ⟨?_, rfl, rfl, ?_⟩
  · simp only [pick_one]; decide +kernel
  · have h : (inPrio [0, 4]).pick 2 = 0 ∨ (inPrio [0, 4]).pick 2 = 1 := by
      have : (inPrio [0, 4]).pick 2 < 2 := Nat.mod_lt _ (by decide)
      omega
    rcases h with h | h <;> rw [h] <;> decide

/-! Answers, held effects, engines. -/

def pend0 (e : Eff) : Pend := ⟨0, 5, n0, k0, 127, 0, 0, false, 0, [0], none, { kind := 0, cause := 0 }, e⟩
def inMem (f : Mem → Mem) (s : State := miniM 0 []) : State := { s with mem := f s.mem }
def resp0 : Resp := ⟨n0, k0, [outBoth (tok 5)], false, 0⟩
def kgen0 : PortReq := ⟨0, n0, k0, 2, .kgen, 0, Loc.none, 0, none, [], none⟩
def offer0 (who : Option (Node × Key)) : Offer := ⟨0, 0, 1, 9, who, 0, 5, none⟩
def append0 : SeqReq := ⟨n0, k0, 5, ⟨0, 0, 1, 0, 7, 48, 1, false, false, none⟩, 0, 0, false, Loc.none⟩
def yield0 : Yielded := ⟨n0, k0, tok 5, 0⟩

def isOk {α : Type} : Got α → Bool
  | .ok _ _ => true
  | _ => false

theorem witness_memoryEvents :
    (let s := inMem fun m => { m with resp := [resp0] }
     s.mem.resp[0]? = some resp0 ∧ s.strandOf c0 = some st0 ∧ st0.liveAt c0 k0 = true ∧ s.latchEmpty n0 = true) ∧
    (let p := pend0 (.store (bank3 0) [(0, 1)] false false)
     let s := inMem fun m => { m with pend := [p] }
     s.mem.pend[0]? = some p ∧ p.stuck = false ∧ s.parked p = false ∧ s.pendFenced p = false ∧ p.behind [] = false ∧
       s.rmwFirst p = false) ∧
    (let p := pend0 (.fnc 0 (tok 0) [])
     let s := inMem fun m => { m with pend := [p] }
     s.mem.pend[0]? = some p ∧ s.parked p = false ∧ s.pendFenced p = false ∧ s.fenceWaits p [] = false) ∧
    (let p := pend0 (.qfnc 1)
     let s := inMem fun m => { m with pend := [p] }
     s.mem.pend[0]? = some p ∧ s.parked p = false ∧ s.pendFenced p = false ∧ s.releasedFirst 0 p = false ∧ s.storesOpen p = false) ∧
    (let p := pend0 (.dfnc 0 192 (tok 0))
     let s := inMem fun m => { m with pend := [p] }
     s.mem.pend[0]? = some p ∧ s.parked p = false ∧ s.pendFenced p = false ∧ s.allReady = true) ∧
    (let s := miniK 0 [] (desc 0)
     let s := { s with mat := { s.mat with portq := [kgen0] } }
     s.mat.portq.find? (fun r => r.store = storeKey 0 0 0) = some kgen0 ∧ (s.store (storeKey 0 0 0)).feed = none ∧ s.pagedWaits kgen0 = false) ∧
    (let s := { mini 0 [] with mat := { (mini 0 []).mat with offers := [offer0 none] } }
     s.mat.offers[0]? = some (offer0 none)) ∧
    (let s := { mini 0 [] with mat := { (mini 0 []).mat with offers := [offer0 (some (n0, k0))] } }
     s.mat.offers[0]? = some (offer0 (some (n0, k0))) ∧ s.strandOf c0 = some st0 ∧ s.settled st0 k0 = true) ∧
    (let s := miniP 0 []
     let s := { s with pages := { s.pages with seqq := [append0] } }
     s.pages.seqq[0]? = some append0 ∧ append0.stuck = false ∧ s.allReady = true ∧
       append0.waits [] = false ∧ isOk ((appendPerform n0 k0 append0.op).got s append0.step) = true) ∧
    (let s := inFab fun f => { f with yielded := [yield0] }
     s.fab.yielded[0]? = some yield0 ∧ s.strandOf c0 = some st0 ∧ st0.liveAt c0 k0 = true ∧ yield0.left = 0 ∧ s.latchEmpty n0 = true ∧
       st0.frozen = false ∧ st0.saving = false) := by
  refine ⟨?_, ?_, ?_, ?_, ?_, ?_, ?_, ?_, ?_, ?_⟩ <;> decide +kernel

/-- A read-modify-write whose instance is settled, and what performing it answers. -/
theorem witness_settledRmw :
    let w : BitVec 64 := 0xA900000000000001
    ∃ t outs, Settled (queued w [(0, tok 0)]) 0 (rmw0 w [(0, tok 0)]) st0 ∧
      (actingFor (queued w [(0, tok 0)]) (rmw0 w [(0, tok 0)]) st0).performRmw (rmw0 w [(0, tok 0)]) = .fires t outs := by
  refine ⟨_, _, ?_, rfl⟩
  unfold Settled
  decide +kernel

/-- A walk of one beat from the scratchpad to slot 0 of node 0: descriptor, then engine 0 of wafer 0. -/
def walk (x : Stream) : State := { mini 0 [] with eng := { (mini 0 []).eng with streams := [(0, x)] } }
def walkDesc : BitVec 256 := BitVec.ofNat 256 (2 ^ 233 + 3 * 65536)
def walk0 : Stream := { desc := walkDesc, armed := true, key := some k0, task := 5 }
theorem isOk_sound {α : Type} {g : Got α} (c : isOk g = true) : ∃ b s, g = .ok b s := by
  unfold isOk at c
  split at c
  · exact ⟨_, _, rfl⟩
  · contradiction

theorem witness_streams :
    (let s := walk walk0
     (s.stream 0 0 0 = walk0 ∧ s.strand 0 5 = some st0 ∧ walk0.mayWrite = false ∧ walk0.mayRequest = true ∧ 0 ∈ st0.wafers) ∧ ∃ b t,
       s.engineRead (st0.asker 0) (st0.step != (s.domain st0.part).step) (bits walk0.desc 233 3) (beatAddr walk0.desc walk0.next) 48 = .ok b t) ∧
    (let x := { walk0 with next := 1, returns := [(0, tok 4, true)] }
     let s := walk x
     s.stream 0 0 0 = x ∧ x.key = some k0 ∧ x.writes = false ∧ x.slot < 4 ∧ s.strandOf (walkNode 0 0 x).ctx = some st0 ∧
       st0.gated (walkNode 0 0 x).ctx = false ∧ s.mayPass (.inr (streamKey 0 0 0, 0)) = true) ∧
    (let x := { writer0 [(0, tok 4, false)] with desc := setBits walkDesc 236 1 1 }
     let s := walk x
     (s.stream 0 0 0 = x ∧ s.strand 0 5 = some st0 ∧ 0 ∈ st0.wafers ∧ x.mayWrite = true ∧ (tok 4).fl.nil = false) ∧ ∃ b t,
       s.engineWrite ⟨st0.asker 0, st0.task, st0.step, s.locOf st0 (walkNode 0 0 x) (x.key.getD Key.zero)⟩ (bits x.desc 233 3)
         (beatAddr x.desc 0) (s.rowBytes (walkNode 0 0 x) (tok 4)) (tok 4).fl.poi (s.rowFmt (walkNode 0 0 x) (tok 4)) 0 = .ok b t) ∧
    (let x := writer0 [(0, { tok 4 with fl := { nil := true } }, false)]
     (walk x).stream 0 0 0 = x ∧ x.mayWrite = true) ∧
    (let x := { walk0 with fin := true, pending := some (walkDesc, k0, 0, 5) }
     (walk x).stream 0 0 0 = x ∧ x.fin = true) :=
  ⟨⟨by decide +kernel, isOk_sound (by decide +kernel)⟩, by decide +kernel, ⟨by decide +kernel, isOk_sound (by decide +kernel)⟩,
    by decide +kernel, by decide +kernel⟩

def loc0 : Loc := { kind := 0, cause := 0 }
def inQueue (q : Nat) (l : List QEnt) : State := { mini 0 [] with eng := { (mini 0 []).eng with queues := [(queueKey 0 q, l)] } }
def xfer0 (b0 : Beat) (i : Nat) : QEnt := .op (.xfer b0 0) 0 5 0 [0] loc0 true i false none
def mig0 (stage : Nat) : Migration := ⟨0, 0, 0, 0, 65536, 65536, false, 0, stage, [], 0, 0⟩
def row0 : Row := ⟨0, n0, k0, none, outA (tok 3)⟩

theorem witness_engines :
    (let s := inQueue 3 [xfer0 0 1]
     s.queue 0 3 = [xfer0 0 1] ∧ packetOp 0 ≠ 2 ∧ packetTotal 0 ≤ 1 ∧ s.pod.sent = [] ∧ s.pod.remotes = []) ∧
    (let b : Beat := BitVec.ofNat 384 (2 * 2 ^ 246)
     let s := inQueue 3 [xfer0 b 0]
     s.queue 0 3 = [xfer0 b 0] ∧ packetOp b = 2 ∧ s.mem.migs = [] ∧ s.pod.sent = [] ∧ s.pod.remotes = []) ∧
    (let s := inMem fun m => { m with migs := [mig0 1] }
     s.mem.migs[0]? = some (mig0 1) ∧ (mig0 1).stage = 1) ∧
    (let s := inMem fun m => { m with migs := [mig0 2] }
     s.mem.migs[0]? = some (mig0 2) ∧ (mig0 2).stage = 2 ∧ ∀ st ∈ s.strands, (mig0 2).stamp ≤ st.stamp) ∧
    (let s := { mini 0 [] with eng := { (mini 0 []).eng with rows := [row0] } }
     s.eng.rows[0]? = some row0 ∧ s.strandOf c0 = some st0 ∧ st0.liveAt c0 k0 = true ∧ row0.remote = none ∧ s.latchEmpty n0 = true ∧
       row0.out.a = true) ∧
    (let e : QEnt := .op (.gath true 0 0 [] [] (tok 0)) 0 5 0 [0] loc0 true 0 false none
     let s := inQueue 16 [e]
     s.queue 0 16 = [e] ∧ gathTotal 0 [] ≤ 0 ∧ s.pod.sent = [] ∧ s.pod.remotes = []) := by
  refine ⟨?_, ?_, ?_, ?_, ?_, ?_⟩ <;> decide +kernel

/-! Glazes and links: module 0 is the root of partition 0, whose barrier binding to module 1 stands on lane group 5; `leaf` has module 1
for its root. -/

def rec0 : GRec := ⟨0, false, 0, 0, 0, 0, 0, 0, 0, 0, 0⟩
def sent0 (kind : Nat) : Sent := ⟨rec0, n0, k0, kind, tok 0, tok 0, false, 0⟩
def domain0 (root : Nat) (d : Domain := {}) : Domain := { d with reg := BitVec.ofNat 64 (2 ^ 63 + root * 2 ^ 40) }
def bound0 (cls : Nat) : Link := { word := BitVec.ofNat 64 (2 ^ 63 + 2 ^ 49 + cls * 2 ^ 33) }
def inPod (root : Nat) (d : Domain) (cls : Nat := 3) (f : Pod → Pod := id) (s : State := mini 0 []) : State :=
  { s with pod := f { s.pod with domains := [(0, domain0 root d)], links := [(5, bound0 cls)] } }

theorem witness_glazes :
    (∀ kind ∈ [0, 1], let s := inPod 0 {} 3 fun p => { p with sent := [sent0 kind] }
      s.pod.sent[0]? = some (sent0 kind) ∧ s.bufferFull (sent0 kind).grec = false) ∧
    (let g : Glz := ⟨none, 0, 0, []⟩
     let st := { st0 with glz := [g] }
     let s := inPod 0 {} 3 id (inStrand st)
     s.strands[0]? = some st ∧ st.glz = [g] ∧ g.step = (s.domain st.part).step ∧ s.glazeWaits st g = false) ∧
    (let s := inPod 0 { contrib := [(0, 5, none)] }
     bit (s.domain 0).reg 63 = true ∧ (s.domain 0).entered = false ∧ s.pod.buddy = 0 ∧ s.pod.fenced = false ∧
       (s.domain 0).npart + 1 ≤ (s.domain 0).contrib.length) ∧
    (let s := inPod 1 { entered := true }
     s.treeParent 3 0 = some 5 ∧ s.allEntered 0 = true ∧ (s.domain 0).sentUp = false) ∧
    (let s := inPod 0 { entered := true, up := [(5, 0, 1)] }
     s.treeChildren 3 0 = [(5, 1)] ∧ s.glazeReleased 0 = true ∧ 5 ∉ (s.domain 0).down) ∧
    (let s := inPod 0 { entered := true, up := [(5, 0, 1)] } 3 fun p => { p with records := [] }
     (s.domain 0).entered = true ∧ s.glazeReleased 0 = true ∧ s.pod.records = []) := by
  refine ⟨?_, ?_, ?_, ?_, ?_, ?_⟩ <;> decide +kernel

/-- A flit of the binding: its PMAC is the one that the link's key gives. -/
def beats0 : Flit := ⟨true, 0, 0, 0, false, true, 0, 0⟩
def coll0 (sent : Bool) (result : Option (List Beat)) : Coll := ⟨0, 3, 0, 0, 0, [0], some [tok 1], n0, k0, [], false, sent, result, loc0⟩
def inColl (root : Nat) (c : Coll) : State :=
  let s := inPod root {} 2
  { s with eng := { s.eng with colls := [c] }, pod := { s.pod with links := if root = 0 then [] else s.pod.links } }

theorem witness_links :
    (let s := inPod 0 {}
     let l := s.link 5
     bit l.word 63 = true ∧ l.training = false ∧ bit s.host.ready (47 + 5 / 9) = true ∧ ∀ last, ∃ f : Flit, f.last = last ∧
       f.fecOk = true ∧ f.seq.toNat = l.rx.toNat % 65536 ∧
       f.pmac = Config.pmac (Tab.get 0 (bindPart l.word) s.host.linkKeys) (flitNonce 5 l.rx.toNat) (bareFlit f)) ∧
    (let s := (inPod 0 {}).setLink 5 { bound0 3 with training := true }
     (s.link 5).training = true ∧ (s.link 5).failed < 2) ∧
    (let s := inPod 0 {} 3 fun p => { p with heard := [(5, 26000000)] }
     20 * 1300000 ≤ Tab.get 0 5 s.pod.heard ∧ 5 ∉ s.pod.peersFailed) ∧
    (let s := inPod 0 {} 3 fun p => { p with fenced := true, recovery := BitVec.ofNat 128 (2 ^ 62) }
     s.pod.fenced = true ∧ bit s.pod.recovery 62 = true ∧ bit s.pod.recovery 63 = false) ∧
    (let s := inColl 1 (coll0 false none)
     s.eng.colls[0]? = some (coll0 false none) ∧ s.treeChildren 2 0 = [] ∧ s.treeParent 2 0 = some 5) ∧
    (let s := inColl 0 (coll0 false none)
     s.eng.colls[0]? = some (coll0 false none) ∧ s.treeChildren 2 0 = [] ∧ s.treeParent 2 0 = none ∧ s.module.toNat = (s.domain 0).root) ∧
    (let s := inColl 0 (coll0 true (some [7]))
     s.eng.colls[0]? = some (coll0 true (some [7]))) := by
  refine ⟨⟨by decide, by decide, by decide, fun last =>
      ⟨{ beats0 with last := last, pmac := Config.pmac 0 (flitNonce 5 0) { beats0 with last := last } }, rfl, rfl, rfl, rfl⟩⟩,
    ?_, ?_, ?_, ?_, ?_, ?_⟩ <;> decide +kernel

/-! Faults and the host. -/

def reg0 : FaultReg := ⟨n0, k0, 0x20, 1, 0, 0, 0, [0]⟩
def req0 (sub : Subject) : RecReq := ⟨0, 0, 0, 0, 0, sub⟩

theorem witness_faults :
    (let s := { mini 0 [] with flt := { (mini 0 []).flt with regs := [reg0] } }
     s.strand 0 5 = some st0 ∧ st0.frozen = false ∧ insSort FaultReg.le (s.effective st0) = [reg0]) ∧
    (let r := req0 (.exact 0 5 n0 k0)
     let st := { st0 with frozen := true }
     let s := inStrand st { mini 0 [] with flt := { (mini 0 []).flt with reqs := [r] } }
     s.flt.reqs[0]? = some r ∧ s.strand 0 5 = some st ∧ s.landed st = true ∧ s.recordWaits r = false) ∧
    (let r := req0 .only
     let s := { mini 0 [] with flt := { (mini 0 []).flt with reqs := [r] } }
     s.flt.reqs[0]? = some r ∧ r.subject = .only ∧ s.recordWaits r = false) ∧
    (mini 0 []).checkOpen 0 0 = true ∧
    (let r := { waitingTag with waited := 2 }
     let st := { st0 with reqs := [r] }
     let s := inStrand st { mini 0 [] with flt := { (mini 0 []).flt with tagBound := [(0, BitVec.ofNat 64 (2 ^ 63 + 1))] } }
     s.strands[0]? = some st ∧ st.reqs[0]? = some r ∧
       st.reqs.findIdx? (fun r => boundOn (Tab.get 0 st.die s.flt.tagBound) r.waited && !r.told) = some 0) := by
  refine ⟨?_, ?_, ?_, ?_, ?_⟩ <;> decide +kernel

/-- Partition 2 with a TSTATE; every readiness flag but bit 20 is set. -/
def inTstate (v : Nat) : State :=
  { mini 0 [] with
    host := { (mini 0 []).host with parts := [(2, BitVec.ofNat 1024 (v * 2))], ready := setBits allUp 20 1 0 } }

theorem witness_host :
    (let s := inTstate 0
     s.host.waiting = [] ∧ s.launchWaits 0 = false ∧ s.launchAccepted 0 = true ∧ s.maySetFlag 20 = true ∧ bit s.host.ready 1 = true ∧
       bit s.host.ready 46 = true ∧ s.hostRecordAt 1 (Tab.get 0 1 s.flt.hostVa) = none ∧ s.barReadWaits (dieWindow 1 + 0xB0808) 0 = false ∧
       s.barReadWaits (moduleWindow + 0x35000) 0 = false) ∧
    (let s := mini 0 []
     let v : Word := 0x8000000000000000
     s.host.waiting = [] ∧ bit v 63 = true ∧ (∀ l ∈ s.sharedLines, s.paReady (s.home l.1) = true) ∧ bit s.pod.recovery 63 = false) ∧
    (inTstate 0).tstate 2 = 0 ∧ (inTstate 1).tstate 2 = 1 ∧ (inTstate 2).tstate 2 ≠ 0 ∧ (inTstate 2).tstate 2 ≠ 3 := by
  decide +kernel

/-! Steps, frames and memory. -/

def goesOn (o : Host.Outcome State Fault Refusal) : Bool := match o with | .next _ => true | _ => false
theorem goesOn_sound {o : Host.Outcome State Fault Refusal} (c : goesOn o = true) : ∃ t, o = .next t := by
  unfold goesOn at c
  split at c
  · exact ⟨_, rfl⟩
  · contradiction

/-- A block word and a sequencer word where the next step finds them, an event, and a cycle. -/
def withAgenda (l : List Activity) : State := { mini 0 [] with agenda := l }
def qadd0 : SeqW := ⟨0, 0, 1, 0, true, false, 0x1200⟩
def isBytes (f : SeqFetch) (bs : List Byte) : Bool := match f with | .bytes b _ => b = bs | _ => false

theorem witness_steps :
    (let s := State.reset.withFetchWord 64 0x2001128CD2980005
     s.agenda = [.fire n0 k0] ∧ ({ s with agenda := [] } : State).outranked n0 k0 = false ∧ s.nodeBytes n0 = some (leBytes 8 0x2001128CD2980005) ∧
       decode (leBytes 8 0x2001128CD2980005) = .ok (.iadd ⟨0, 1, 0x25, 0x33⟩ ⟨9, 9, true, 0, 5⟩, [])) ∧
    (let s := State.reset.withFetchWord 64 0xF600020200001200
     s.agenda = [.word 0 0] ∧ isBytes (({ s with agenda := [] } : State).seqBytes 0 0) (leBytes 8 0xF600020200001200) = true ∧
       (s.strand 0 0).isSome = true ∧ isSeqOpcode (leBytes 8 0xF600020200001200) = true ∧
       decode (leBytes 8 0xF600020200001200) = .ok (.qadd qadd0, [])) ∧
    (withAgenda [.event .tokenAgeTick]).agenda = [.event .tokenAgeTick] ∧ (withAgenda [.cycle]).agenda = [.cycle] := by
  refine ⟨?_, ?_, ?_⟩ <;> decide +kernel

/-- Of two firings of one node the older goes first (R68). -/
theorem witness_outranked :
    let x := mini1 k1 [(0, tok 7)]
    let s := { x with
      pl := { x.pl with ctx := [(0, { active := some (block0 [0x0500FFFFC0000000]) })] }
      fab := { x.fab with ostore := x.fab.ostore ++ [LTok.mk n0 0 k0 { tok 7 with age := 3 }] } }
    s.outranked n0 k1 = true := by
  decide +kernel

/-- The word that withFetchWord places is the one that runs: the node has issued, and its operands are gone (R19). -/
theorem test_placedWordRuns :
    (match step (State.reset.withFetchWord 64 0x2001128CD2980005) with
     | .next t => t.fab.issued == [n0] && t.fab.ostore.isEmpty && t.fab.latch.length == 1
     | _ => false) = true := by
  decide +kernel

/-- A well-formed instruction with its word, and the bytes of a word followed by another byte. -/
theorem witness_codec :
    (let i : Instr := .iadd ⟨0, 1, 0x25, 0x33⟩ ⟨9, 9, true, 0, 5⟩
     i.wellFormed = true ∧ encode i = some 0x2001128CD2980005) ∧
    decode (leBytes 8 0x2001128CD2980005 ++ [7]) = .ok (.iadd ⟨0, 1, 0x25, 0x33⟩ ⟨9, 9, true, 0, 5⟩, [7]) := by
  decide +kernel

/-- A word whose predicate is false in mode 01. -/
theorem witness_cancelled :
    let h : Hd := ⟨0, 1, 0x1FF, 0x1FF⟩
    let a := fmtA 9 9
    let s := mini 0 [(0, tok 1 9), (1, tok 2 9), (3, tok 0)]
    shape s (.iadd h a) = some (h, [0, 1], [0, 1], 127) ∧ s.mayFire s.cur.node s.cur.key = true ∧
      s.operands s.cur.node s.cur.key (taken h [0, 1]) = some [tok 1 9, tok 2 9, tok 0] ∧
      performs h (s.slotTok s.cur.node s.cur.key 3) = false ∧
      s.tokenFault s.cur.node s.cur.key h ⟨[0, 1], [0, 1], [], []⟩ = none := by
  decide +kernel

theorem witness_frames :
    (∃ t, dataflow (.movi h0 5) = true ∧ exec (.movi h0 5) (mini 0x0200000000000005 [(0, tok 0)]) = .next t) ∧
    (∃ t, waiting (.cpri h0 1) = true ∧ exec (.cpri h0 1) (mini 0 [(0, tok 0)]) = .next t) ∧
    (∃ t, touching (.ld (hw 3) (fmtMem 13 1)) = true ∧
      exec (.ld (hw 3) (fmtMem 13 1)) (miniM 0 [(0, tok (3 * 65536))]) = .next t) ∧
    (∃ t, steering (.qadd qadd0) = some qadd0 ∧ exec (.qadd qadd0) miniQ = .next t) := by
  refine ⟨?_, ?_, ?_, ?_⟩
  · obtain ⟨t, h⟩ := goesOn_sound (o := exec (.movi h0 5) (mini 0x0200000000000005 [(0, tok 0)])) (by decide +kernel)
    exact ⟨t, rfl, h⟩
  · obtain ⟨t, h⟩ := goesOn_sound (o := exec (.cpri h0 1) (mini 0 [(0, tok 0)])) (by decide +kernel)
    exact ⟨t, rfl, h⟩
  · obtain ⟨t, h⟩ := goesOn_sound (o := exec (.ld (hw 3) (fmtMem 13 1)) (miniM 0 [(0, tok (3 * 65536))])) (by decide +kernel)
    exact ⟨t, rfl, h⟩
  · obtain ⟨t, h⟩ := goesOn_sound (o := exec (.qadd qadd0) miniQ) (by decide +kernel)
    exact ⟨t, rfl, h⟩

theorem witness_storeHome :
    (let p := pend0 (.store (bank3 0) [(196608, 1)] false false)
     let s := inMem fun m => { m with pend := [p] }
     MemCanonical s ∧ s.mem.pend[0]? = some p ∧ p.stuck = false ∧ s.parked p = false ∧ s.pendFenced p = false ∧ p.behind [] = false ∧
       s.rmwFirst p = false ∧ s.memReady (bank3 0) = true ∧ (bank3 0).bank = true) ∧
    (let a := page 48
     let p := pend0 (.store a (at_ a [1, 2]) false false)
     let s := inMem fun m => { m with pend := [p] }
     s.mem.pend[0]? = some p ∧ s.rmwFirst p = false ∧ s.memReady a = true ∧ a.bank = false ∧ a.hmod = s.module ∧ a.cv = false ∧ a.base ≤ a.addr ∧
       a.addr + 2 ≤ a.base + a.size ∧ s.mem.redirect = [] ∧ s.mem.poi = [] ∧ s.mem.bad = []) ∧
    (let a := page 48 shared1
     let p := pend0 (.store a [(48, 1)] false false)
     let s := inMem fun m => { m with pend := [p] }
     s.mem.pend[0]? = some p ∧ s.rmwFirst p = false ∧ s.memReady a = true ∧ a.bank = false ∧ a.hmod ≠ s.module) := by
  unfold MemCanonical
  refine ⟨?_, ?_, ?_⟩ <;> decide +kernel

/-- A queued ATOM.ADD and a queued CAS of a 32-bit word in bank 3, through the scratchpad. -/
def atomW : BitVec 64 := 0x8700FFFFD5FC2000
def casW : BitVec 64 := 0x8800FFFFD5FC2000
def atAddr : Tok := tok (3 * 65536) 13
def queuedM (w : BitVec 64) (toks : List (Nat × Tok)) : State :=
  let s := miniM w []
  { s with mem := { s.mem with rmwq := [rmw0 w toks], nextSeq := 1 } }

theorem witness_atoms :
    (let ops := at01 atAddr (tok 7 10)
     let s := queuedM atomW ops
     let u := actingFor s (rmw0 atomW ops) st0
     Settled s 0 (rmw0 atomW ops) st0 ∧ opcode atomW = 0x87 ∧ bit atomW 54 = false ∧
       (u.access st0 n0 (fmtM atomW).space.toNat (effAddr (fmtM atomW) 4 atAddr) 4 true 0x87).1 = .ok (bank3 0) ∧
       u.pendAhead n0 (bank3 0) 4 (s.rmwTop (rmw0 atomW ops)) true = false ∧ u.rmwAhead (rmw0 atomW ops) (bank3 0).va 4 = false) ∧
    (let ops := at012 atAddr (tok 0 10) (tok 9 10)
     let s := queuedM casW ops
     let u := actingFor s (rmw0 casW ops) st0
     Settled s 0 (rmw0 casW ops) st0 ∧ opcode casW = 0x88 ∧ bit casW 54 = false ∧
       (u.access st0 n0 (fmtM casW).space.toNat (effAddr (fmtM casW) 4 atAddr) 4 true 0x88).1 = .ok (bank3 0) ∧
       u.pendAhead n0 (bank3 0) 4 (s.rmwTop (rmw0 casW ops)) true = false ∧ u.rmwAhead (rmw0 casW ops) (bank3 0).va 4 = false) := by
  unfold Settled
  refine ⟨?_, ?_⟩ <;> decide +kernel

/-- A step from a canonical state. -/
theorem witness_canonical :
    let s := State.reset.withFetchWord 64 0xF600020200001200
    MemCanonical s ∧ ∃ t, step s = .next t := by
  refine ⟨?_, goesOn_sound (by decide +kernel)⟩
  unfold MemCanonical
  decide +kernel

/-! Well-formedness (R361, R362, R412): a term or a word that each check refuses. -/

theorem test_short : decode (leBytes 7 0x2001128CD29800) = .error .short := by decide
theorem test_reservedOpcode : decode (leBytes 8 0xAD00FFFFC0000000) = .error .reservedOpcode := by decide
theorem test_fnOfAnOpcodeWithoutOne : (Instr.iadd ⟨1, 0, 0x25, 0x33⟩ ⟨9, 9, true, 0, 5⟩).error = some .badFn := by decide
theorem test_fnNotListed : (Instr.plog ⟨16, 0, 0x71, 0xB4⟩ 0).error = some .badFn := by decide
theorem test_roundingNotListed : (Instr.fadd ⟨0, 0, 0x25, 0x33⟩ ⟨11, 11, false, 5, 0⟩).error = some .reservedCode := by decide
theorem test_spaceNotListed : (Instr.ld ⟨2, 0, 1, 0x1FF⟩ ⟨9, 2, 0, 7, 3⟩).error = some .reservedCode := by decide
theorem test_silentWordWithTarget : (Instr.drop ⟨0, 0, 3, 0x1FF⟩ 0).error = some .reservedCode := by decide
theorem test_immWithoutIms : (Instr.movCopy ⟨0, 0, 1, 0x1FF⟩ ⟨2, 2, false, 0, 7⟩).error = some .unusedField := by decide
theorem test_payloadOfAWordWithoutOne : (Instr.fan ⟨0, 0, 1, 2⟩ 1).error = some .unusedField := by decide
theorem test_equalTargets : (Instr.fan ⟨0, 0, 5, 5⟩ 0).error = some .equalTargets := by decide
theorem test_lowestCodeFirst : (Instr.iadd ⟨1, 0, 5, 5⟩ ⟨9, 9, false, 0, 5⟩).error = some .badFn := by decide
theorem test_seqReservedRegister : (Instr.qset ⟨0, 0, 0x18, 0, true, false, 0⟩).error = some .seqField := by decide
theorem test_seqLoopClass : (Instr.qloop ⟨0, 0, 0x40, 0, true, false, 0⟩).error = some .seqClass := by decide
theorem test_seqConstant : (Instr.qarmConstants ⟨0, 0, 1, 0, true, false, 26⟩).error = some .seqConst := by decide

/-! Decoding: words that the spec writes out, or that are put together from its encoding tables bit by bit. -/

theorem test_decodeExamples : Obligations.DecodeWords := by unfold Obligations.DecodeWords; decide
/-! Every constructor that has a word: a word put together from the tables of R197, R199, R200, R201 and R205, and what it reads as. -/

def readsAs (l : List (Nat × Instr)) : Bool := l.all fun p => decodeTableWord 64 p.1 == some p.2

theorem test_wordsDataflow : readsAs [
    (0x010116B51E5BBEEF, .movImmediate ⟨0, 1, 0x2D, 0xD4⟩ ⟨15, 5, true, 3, 0xBEEF⟩),
    (0x010265060D700000, .movCopy ⟨0, 2, 0xCA, 0x18⟩ ⟨6, 23, false, 0, 0x0⟩),
    (0x0200A14A24EF4133, .movi ⟨0, 0, 0x142, 0x128⟩ 0x24EF4133),
    (0x030338471288F565, .movhi ⟨0, 3, 0x70, 0x11C⟩ 0x1288F565),
    (0x04038A4940000000, .fan ⟨0, 3, 0x114, 0x125⟩ 0x0),
    (0x0501FFFFC0000000, .drop ⟨0, 1, 0x1FF, 0x1FF⟩ 0x0),
    (0x0600B64800000000, .steer ⟨0, 0, 0x16C, 0x120⟩ 0x0),
    (0x0701AF3640000000, .merge ⟨0, 1, 0x15E, 0xD9⟩ 0x0),
    (0x08034C6500000000, .mrgo ⟨0, 3, 0x98, 0x194⟩ 0x0),
    (0x090192C340000000, .sel ⟨0, 1, 0x125, 0x10D⟩ 0x0),
    (0x0A36490900000000, .plog ⟨13, 2, 0x92, 0x24⟩ 0x0),
    (0x0B02EEB500000005, .taga ⟨0, 2, 0x1DD, 0xD4⟩ 0x5),
    (0x0C00FFFFC0000006, .tagf ⟨0, 0, 0x1FF, 0x1FF⟩ 0x6),
    (0x0D02B30800000001, .tagxUp ⟨0, 2, 0x166, 0x20⟩ 0x1),
    (0x0D03CC8800000000, .tagxDown ⟨0, 3, 0x199, 0x20⟩ 0x0),
    (0x0E02AEA480000000, .wadv ⟨0, 2, 0x15D, 0x92⟩ 0x0),
    (0x0F02769580000000, .gate ⟨0, 2, 0xED, 0x56⟩ 0x0),
    (0x1003FFFFD8000000, .exit ⟨0, 3, 0x1FF, 0x1FF⟩ ⟨3, 0x0⟩),
    (0x1103FFFFFB369143, .brb ⟨0, 3, 0x1FF, 0x1FF⟩ ⟨7, 0x3369143⟩),
    (0x1202D0EE80000013, .rdk ⟨0, 2, 0x1A1, 0x1BA⟩ 0x13),
    (0x1303FFFFC000000A, .wrk ⟨0, 3, 0x1FF, 0x1FF⟩ 0xA),
    (0x14013B1D0000001F, .cnst ⟨0, 1, 0x76, 0x74⟩ 0x1F),
    (0x1501481240000001, .ord ⟨0, 1, 0x90, 0x49⟩ 0x1),
    (0x1702909087D8CBCF, .idx ⟨0, 2, 0x121, 0x42⟩ ⟨3, 29, true, 0, 0xCBCF⟩),
    (0x18031AD140400000, .strm ⟨0, 3, 0x35, 0x145⟩ ⟨1, 0x0⟩),
    (0x1901FFFFC1800000, .eosd ⟨0, 1, 0x1FF, 0x1FF⟩ ⟨6, 0x0⟩)] = true := by decide

theorem test_wordsInteger : readsAs [
    (0x200001138D700000, .iadd ⟨0, 0, 0x2, 0x4E⟩ ⟨6, 23, false, 0, 0x0⟩),
    (0x21009C93A168F2C3, .isub ⟨0, 0, 0x139, 0x4E⟩ ⟨16, 22, true, 0, 0xF2C3⟩),
    (0x2200D8BB7D300000, .imul ⟨0, 0, 0x1B1, 0xED⟩ ⟨30, 19, false, 0, 0x0⟩),
    (0x2301BEDE7CA00000, .imulh ⟨0, 1, 0x17D, 0x179⟩ ⟨30, 10, false, 0, 0x0⟩),
    (0x24015C5883300000, .imad ⟨0, 1, 0xB8, 0x162⟩ ⟨1, 19, false, 0, 0x0⟩),
    (0x25025C2D2AE20000, .idiv ⟨0, 2, 0xB8, 0xB4⟩ ⟨21, 14, false, 2, 0x0⟩),
    (0x2603333F421BF1C9, .irem ⟨0, 3, 0x66, 0xFD⟩ ⟨1, 1, true, 3, 0xF1C9⟩),
    (0x270158E7AD700000, .ineg ⟨0, 1, 0xB1, 0x19E⟩ ⟨22, 23, false, 0, 0x0⟩),
    (0x28013A995BE00000, .iabs ⟨0, 1, 0x75, 0x65⟩ ⟨13, 30, false, 0, 0x0⟩),
    (0x2903CD0A8F800000, .imin ⟨0, 3, 0x19A, 0x2A⟩ ⟨7, 24, false, 0, 0x0⟩),
    (0x2A036F2A33D82B7A, .imax ⟨0, 3, 0xDE, 0xA8⟩ ⟨25, 29, true, 0, 0x2B7A⟩),
    (0x2B012013BA98B368, .iand ⟨0, 1, 0x40, 0x4E⟩ ⟨29, 9, true, 0, 0xB368⟩),
    (0x2C018C020C8863BD, .ior ⟨0, 1, 0x118, 0x8⟩ ⟨6, 8, true, 0, 0x63BD⟩),
    (0x2D0140259F48D688, .ixor ⟨0, 1, 0x80, 0x96⟩ ⟨15, 20, true, 0, 0xD688⟩),
    (0x2E01E92D74800000, .inot ⟨0, 1, 0x1D2, 0xB5⟩ ⟨26, 8, false, 0, 0x0⟩),
    (0x2F00C64D12B00000, .ishl ⟨0, 0, 0x18C, 0x134⟩ ⟨9, 11, false, 0, 0x0⟩),
    (0x3003B84729E00000, .ishr ⟨0, 3, 0x170, 0x11C⟩ ⟨20, 30, false, 0, 0x0⟩),
    (0x3100308538100000, .isar ⟨0, 0, 0x61, 0x14⟩ ⟨28, 1, false, 0, 0x0⟩),
    (0x32039D4D9918F4C1, .irot ⟨0, 3, 0x13A, 0x136⟩ ⟨12, 17, true, 0, 0xF4C1⟩),
    (0x3301E0F699C00000, .iclz ⟨0, 1, 0x1C1, 0x1DA⟩ ⟨12, 28, false, 0, 0x0⟩),
    (0x340364A81FB00000, .ipopc ⟨0, 3, 0xC9, 0xA0⟩ ⟨15, 27, false, 0, 0x0⟩),
    (0x3501C8722E984646, .ibfx ⟨0, 1, 0x190, 0x1C8⟩ ⟨23, 9, true, 0, 0x4646⟩),
    (0x3603BE3254E00000, .ibfi ⟨0, 3, 0x17C, 0xC9⟩ ⟨10, 14, false, 0, 0x0⟩),
    (0x370F66B5285809F9, .icmp ⟨3, 3, 0xCD, 0xD4⟩ ⟨20, 5, true, 0, 0x9F9⟩),
    (0x380274DA315839C7, .addi ⟨0, 2, 0xE9, 0x168⟩ ⟨24, 21, true, 0, 0x39C7⟩),
    (0x390114A217100000, .lea ⟨0, 1, 0x29, 0x88⟩ ⟨11, 17, false, 0, 0x0⟩),
    (0x3A036644BF400000, .aff ⟨0, 3, 0xCC, 0x112⟩ ⟨31, 20, false, 0, 0x0⟩),
    (0x3B02CD1749100000, .clamp ⟨0, 2, 0x19A, 0x5D⟩ ⟨4, 17, false, 0, 0x0⟩)] = true := by decide

theorem test_wordsFloat : readsAs [
    (0x4000156D09040000, .fadd ⟨0, 0, 0x2A, 0x1B4⟩ ⟨4, 16, false, 4, 0x0⟩),
    (0x41008CF650210000, .fsub ⟨0, 0, 0x119, 0x1D9⟩ ⟨8, 2, false, 1, 0x0⟩),
    (0x42010C1966DAE431, .fmul ⟨0, 1, 0x18, 0x65⟩ ⟨19, 13, true, 2, 0xE431⟩),
    (0x4302CC2000140000, .fma ⟨0, 2, 0x198, 0x80⟩ ⟨0, 1, false, 4, 0x0⟩),
    (0x44011B68B7FA9D95, .fmin ⟨0, 1, 0x36, 0x1A2⟩ ⟨27, 31, true, 2, 0x9D95⟩),
    (0x4501335D919A1BD8, .fmax ⟨0, 1, 0x66, 0x176⟩ ⟨8, 25, true, 2, 0x1BD8⟩),
    (0x4600A17076A00000, .fabs ⟨0, 0, 0x142, 0x1C1⟩ ⟨27, 10, false, 0, 0x0⟩),
    (0x4700DF555F200000, .fneg ⟨0, 0, 0x1BE, 0x155⟩ ⟨15, 18, false, 0, 0x0⟩),
    (0x481B28B92178A5A6, .fcmp ⟨6, 3, 0x51, 0xE4⟩ ⟨16, 23, true, 0, 0xA5A6⟩),
    (0x4901E09B56010000, .fcvt ⟨0, 1, 0x1C1, 0x6D⟩ ⟨11, 0, false, 1, 0x0⟩),
    (0x4A03811900520000, .frcp ⟨0, 3, 0x102, 0x64⟩ ⟨0, 5, false, 2, 0x0⟩),
    (0x4B030A8266E20000, .frsq ⟨0, 3, 0x15, 0x9⟩ ⟨19, 14, false, 2, 0x0⟩),
    (0x4C03B89352210000, .fex2 ⟨0, 3, 0x171, 0x4D⟩ ⟨9, 2, false, 1, 0x0⟩),
    (0x4D010611AE610000, .flg2 ⟨0, 1, 0xC, 0x46⟩ ⟨23, 6, false, 1, 0x0⟩),
    (0x4E00AE3E41D10000, .ftnh ⟨0, 0, 0x15C, 0xF9⟩ ⟨0, 29, false, 1, 0x0⟩),
    (0x4F00406C5ED40000, .fexs ⟨0, 0, 0x80, 0x1B1⟩ ⟨15, 13, false, 4, 0x0⟩),
    (0x500312F4A4200000, .fscl ⟨0, 3, 0x25, 0x1D2⟩ ⟨18, 2, false, 0, 0x0⟩),
    (0x510024A0A6840000, .itof ⟨0, 0, 0x49, 0x82⟩ ⟨19, 8, false, 4, 0x0⟩),
    (0x5200450C9BF40000, .ftoi ⟨0, 0, 0x8A, 0x32⟩ ⟨13, 31, false, 4, 0x0⟩),
    (0x5303C47299340000, .frnd ⟨0, 3, 0x188, 0x1CA⟩ ⟨12, 19, false, 4, 0x0⟩)] = true := by decide

theorem test_wordsLaneAndChannel : readsAs [
    (0x60007468B918005A, .vbcst ⟨0, 0, 0xE8, 0x1A2⟩ ⟨28, 17, true, 0, 0x5A⟩),
    (0x61019412A1700000, .vshuf ⟨0, 1, 0x128, 0x4A⟩ ⟨16, 23, false, 0, 0x0⟩),
    (0x620AB49D72110000, .vred ⟨2, 2, 0x169, 0x75⟩ ⟨25, 1, false, 1, 0x0⟩),
    (0x630B66DD2D800000, .vscan ⟨2, 3, 0xCD, 0x174⟩ ⟨22, 24, false, 0, 0x0⟩),
    (0x640252EB4EC30000, .vdot ⟨0, 2, 0xA5, 0x1AD⟩ ⟨7, 12, false, 3, 0x0⟩),
    (0x650210B189700000, .vcmpr ⟨0, 2, 0x21, 0xC6⟩ ⟨4, 23, false, 0, 0x0⟩),
    (0x66001A6AA4900000, .vexpd ⟨0, 0, 0x34, 0x1AA⟩ ⟨18, 9, false, 0, 0x0⟩),
    (0x6702829876100000, .vpack ⟨0, 2, 0x105, 0x61⟩ ⟨27, 1, false, 0, 0x0⟩),
    (0x6800EF3451200000, .vunpk ⟨0, 0, 0x1DE, 0xD1⟩ ⟨8, 18, false, 0, 0x0⟩),
    (0x690178AB6708CFFA, .vselm ⟨0, 1, 0xF1, 0xAD⟩ ⟨19, 16, true, 0, 0xCFFA⟩),
    (0x6A017B554EA8005A, .vlane ⟨0, 1, 0xF6, 0x155⟩ ⟨7, 10, true, 0, 0x5A⟩),
    (0x6B0080C63958DAD7, .viota ⟨0, 0, 0x101, 0x118⟩ ⟨28, 21, true, 0, 0xDAD7⟩),
    (0x7001300B00000036, .vcset ⟨0, 1, 0x60, 0x2C⟩ 0x36),
    (0x71003CA180000015, .vcget ⟨0, 0, 0x79, 0x86⟩ 0x15),
    (0x720062DF9B800000, .hdr ⟨0, 0, 0xC5, 0x17E⟩ ⟨13, 24, false, 0, 0x0⟩),
    (0x7300472E1A540000, .qnt ⟨0, 0, 0x8E, 0xB8⟩ ⟨13, 5, false, 4, 0x0⟩),
    (0x74036EEC10200000, .dqnt ⟨0, 3, 0xDD, 0x1B0⟩ ⟨8, 2, false, 0, 0x0⟩),
    (0x750312F7BBC00000, .sclx ⟨0, 3, 0x25, 0x1DE⟩ ⟨29, 28, false, 0, 0x0⟩),
    (0x760026428DD00000, .i4xp ⟨0, 0, 0x4C, 0x10A⟩ ⟨6, 29, false, 0, 0x0⟩),
    (0x7700C81D85300000, .i4xu ⟨0, 0, 0x190, 0x76⟩ ⟨2, 19, false, 0, 0x0⟩)] = true := by decide

theorem test_wordsMemory : readsAs [
    (0x8006A2D909324C44, .ld ⟨1, 2, 0x145, 0x164⟩ ⟨4, 76, 2, 2, 0xC44⟩),
    (0x8109004463404F82, .st ⟨2, 1, 0x0, 0x111⟩ ⟨17, 80, 0, 2, 0xF82⟩),
    (0x82013E34A6394164, .ldb ⟨0, 1, 0x7C, 0xD2⟩ ⟨19, 14, 1, 2, 0x164⟩),
    (0x830340556EE83F8C, .stb ⟨0, 3, 0x80, 0x155⟩ ⟨23, 58, 0, 1, 0x1F8C⟩),
    (0x84025D3201296450, .ldl ⟨0, 2, 0xBA, 0xC8⟩ ⟨0, 74, 1, 3, 0x450⟩),
    (0x85074E1D612C66F9, .stnt ⟨1, 3, 0x9C, 0x75⟩ ⟨16, 75, 0, 3, 0x6F9⟩),
    (0x8603FFFFC694792E, .pref ⟨0, 3, 0x1FF, 0x1FF⟩ ⟨3, 37, 0, 3, 0x192E⟩),
    (0x8740071246BC592C, .atom ⟨16, 0, 0xE, 0x49⟩ ⟨3, 47, 0, 2, 0x192C⟩),
    (0x8842142A17DC420A, .cas ⟨16, 2, 0x28, 0xA8⟩ ⟨11, 119, 0, 2, 0x20A⟩),
    (0x890754950B1C652B, .fatom ⟨1, 3, 0xA9, 0x54⟩ ⟨5, 71, 0, 3, 0x52B⟩),
    (0x8A02E247316C33C1, .enq ⟨0, 2, 0x1C4, 0x11C⟩ ⟨24, 91, 0, 1, 0x13C1⟩),
    (0x8B030D3C2FC82C5A, .deq ⟨0, 3, 0x1A, 0xF0⟩ ⟨23, 114, 0, 1, 0xC5A⟩),
    (0x8C02FFFFC1C00000, .sarm ⟨0, 2, 0x1FF, 0x1FF⟩ ⟨7, 0x0⟩),
    (0x8D01FFFFC0004015, .qfnc ⟨0, 1, 0x1FF, 0x1FF⟩ ⟨0, 0x4015⟩),
    (0x8E0031088170116D, .dfnc ⟨0, 0, 0x62, 0x22⟩ ⟨0, 92, 0, 0, 0x116D⟩),
    (0x8F020ADF80000000, .rdci ⟨0, 2, 0x15, 0x17E⟩ 0x0),
    (0x90024C5C80190000, .fnc ⟨0, 2, 0x98, 0x172⟩ ⟨0, 6, 1, 0, 0x0⟩),
    (0x910BC6E57E853FC7, .lds ⟨2, 3, 0x18D, 0x195⟩ ⟨31, 33, 1, 1, 0x1FC7⟩),
    (0x920A9A296E504CA0, .sts ⟨2, 2, 0x134, 0xA5⟩ ⟨23, 20, 0, 2, 0xCA0⟩),
    (0x930168533200000B, .cntrRead ⟨0, 1, 0xD0, 0x14C⟩ ⟨200, 0xB⟩),
    (0x93078A9448600006, .cntrSnap ⟨1, 3, 0x115, 0x51⟩ ⟨33, 0x200006⟩),
    (0x9308430A0FC00005, .cntrStall ⟨2, 0, 0x86, 0x28⟩ ⟨63, 0x5⟩),
    (0x930C7F3911C00000, .cntrLink ⟨3, 0, 0xFE, 0xE4⟩ ⟨71, 0x0⟩)] = true := by decide

theorem test_wordsEngine : readsAs [
    (0xA001FFFFC1000000, .xfer ⟨0, 1, 0x1FF, 0x1FF⟩ ⟨4, 0x0⟩),
    (0xA1004AC850427600, .xpk ⟨0, 0, 0x95, 0x121⟩ 0x10427600),
    (0xA20270170000003C, .gath ⟨0, 2, 0xE0, 0x5C⟩ ⟨0, 0x3C⟩),
    (0xA301E31840000010, .scat ⟨0, 1, 0x1C6, 0x61⟩ ⟨0, 0x10⟩),
    (0xA403FFFFC000337A, .dcnt ⟨0, 3, 0x1FF, 0x1FF⟩ ⟨0, 0x337A⟩),
    (0xA503FFFFC00E5873, .trdy ⟨0, 3, 0x1FF, 0x1FF⟩ ⟨0, 0xE5873⟩),
    (0xA682E09D18406369, .coll ⟨32, 2, 0x1C1, 0x74⟩ ⟨97, 0x6369⟩),
    (0xA700FFFFE1000000, .mlds ⟨0, 0, 0x1FF, 0x1FF⟩ ⟨16, 16, false, 0, 0x0⟩),
    (0xA802FFFFC0000000, .mswp ⟨0, 2, 0x1FF, 0x1FF⟩ 0x0),
    (0xA901FFFFC0000001, .mctl ⟨0, 1, 0x1FF, 0x1FF⟩ 0x1),
    (0xAA01D0B4AF700000, .mfir ⟨0, 1, 0x1A1, 0xD2⟩ ⟨23, 23, false, 0, 0x0⟩),
    (0xAB01CAC649A40000, .mdrn ⟨0, 1, 0x195, 0x119⟩ ⟨4, 26, false, 4, 0x0⟩),
    (0xAC01FFFFC0000001, .mclr ⟨0, 1, 0x1FF, 0x1FF⟩ 0x1)] = true := by decide

theorem test_wordsVerdict : readsAs [
    (0xB00CBF714000000D, .vdclSystolic ⟨3, 0, 0x17E, 0x1C5⟩ 0xD),
    (0xB00E492740000015, .vdclDeclare ⟨3, 2, 0x92, 0x9D⟩ 0x15),
    (0xB103DCD233900000, .vacc ⟨0, 3, 0x1B9, 0x148⟩ ⟨25, 25, false, 0, 0x0⟩),
    (0xB200E6360B980001, .bnds ⟨0, 0, 0x1CC, 0xD8⟩ ⟨5, 25, true, 0, 0x1⟩),
    (0xB301024633980567, .topk ⟨0, 1, 0x4, 0x118⟩ ⟨25, 25, true, 0, 0x567⟩),
    (0xB402FFFFC0001EAD, .thrp ⟨0, 2, 0x1FF, 0x1FF⟩ 0x1EAD),
    (0xB503C02605E81B53, .vpik ⟨0, 3, 0x180, 0x98⟩ ⟨2, 30, true, 0, 0x1B53⟩),
    (0xB603E74F94E80003, .iscr ⟨0, 3, 0x1CE, 0x13E⟩ ⟨10, 14, true, 0, 0x3⟩)] = true := by decide

theorem test_wordsMatch : readsAs [
    (0xC001363395880000, .kdef ⟨0, 1, 0x6C, 0xCE⟩ ⟨10, 49, 0, 0, 0, 0⟩),
    (0xC102265C04200000, .kput ⟨0, 2, 0x4C, 0x170⟩ ⟨2, 4, 0, 0, 0, 0⟩),
    (0xC202633AA7ACE67F, .kqry ⟨0, 2, 0xC6, 0xEA⟩ ⟨19, 53, 39, 1, 2, 127⟩),
    (0xC303A8B9B8B00000, .kdel ⟨0, 3, 0x151, 0xE6⟩ ⟨28, 22, 0, 0, 0, 0⟩),
    (0xC4009EBB0002C000, .kmrg ⟨0, 0, 0x13D, 0xEC⟩ ⟨0, 0, 22, 0, 0, 0⟩),
    (0xC5031A1040000000, .ksmx ⟨0, 3, 0x34, 0x41⟩ ⟨0, 0, 0, 0, 0, 0⟩),
    (0xC600815404800000, .kgen ⟨0, 0, 0x102, 0x150⟩ ⟨2, 16, 0, 0, 0, 0⟩),
    (0xC700C74107800000, .kcnt ⟨0, 0, 0x18E, 0x104⟩ ⟨3, 48, 0, 0, 0, 0⟩),
    (0xC801DA4E80000022, .kflt ⟨0, 1, 0x1B4, 0x13A⟩ ⟨0, 0, 0, 0, 0, 34⟩),
    (0xC903CE579C400000, .ksid ⟨0, 3, 0x19C, 0x15E⟩ ⟨14, 8, 0, 0, 0, 0⟩)] = true := by decide

theorem test_wordsPageAndRemote : readsAs [
    (0xD002C09461D0A000, .splk ⟨0, 2, 0x181, 0x51⟩ ⟨16, 116, 0, 5, 0x0⟩),
    (0xD10396CE9F44A000, .spap ⟨0, 3, 0x12D, 0x13A⟩ ⟨15, 81, 0, 5, 0x0⟩),
    (0xD2002E9480000000, .spfk ⟨0, 0, 0x5D, 0x52⟩ 0x0),
    (0xD302E49540000000, .sprl ⟨0, 2, 0x1C9, 0x55⟩ 0x0),
    (0xD400DEC78000008B, .spwn ⟨0, 0, 0x1BD, 0x11E⟩ 0x8B),
    (0xD500896D40000001, .sprg ⟨0, 0, 0x112, 0x1B5⟩ 0x1),
    (0xD80260C92F506535, .rld ⟨0, 2, 0xC1, 0x124⟩ ⟨23, 84, 0, 3, 0x535⟩),
    (0xD9032D5F250073D8, .rst ⟨0, 3, 0x5A, 0x17C⟩ ⟨18, 64, 0, 3, 0x13D8⟩),
    (0xDA0EBE1C37A8774D, .ratm ⟨3, 2, 0x17C, 0x70⟩ ⟨27, 106, 0, 3, 0x174D⟩),
    (0xDB007C4E80140000, .glaze ⟨0, 0, 0xF8, 0x13A⟩ ⟨0, 5, 0, 0, 0x0⟩)] = true := by decide

theorem test_wordsSystem : readsAs [
    (0xE0005A8D8000922C, .trap ⟨0, 0, 0xB5, 0x36⟩ 0x922C),
    (0xE10194CB00005B56, .bkpt ⟨0, 1, 0x129, 0x12C⟩ 0x5B56),
    (0xE202FFFFC0003618, .svc ⟨0, 2, 0x1FF, 0x1FF⟩ 0x3618),
    (0xE301720880000014, .rdsr ⟨0, 1, 0xE4, 0x22⟩ 0x14),
    (0xE402CE8100000016, .wrsr ⟨0, 2, 0x19D, 0x4⟩ 0x16),
    (0xE502A5388000001C, .cpri ⟨0, 2, 0x14A, 0xE2⟩ 0x1C),
    (0xE6032A0500008B85, .yld ⟨0, 3, 0x54, 0x14⟩ 0x8B85),
    (0xE7002E1400001ADB, .steal ⟨0, 0, 0x5C, 0x50⟩ ⟨0, 0x1ADB⟩),
    (0xE8008D1900151234, .spltSteal ⟨0, 0, 0x11A, 0x64⟩ 0x151234),
    (0xE8019B4080351234, .spltClaim ⟨0, 1, 0x136, 0x102⟩ 0x351234),
    (0xE9032D2726400001, .perf ⟨0, 3, 0x5A, 0x9C⟩ ⟨153, 0x1⟩),
    (0xEA00B70040000E80, .done ⟨0, 0, 0x16E, 0x1⟩ 0xE80),
    (0xEB0315534000000F, .frd ⟨0, 3, 0x2A, 0x14D⟩ 0xF),
    (0xEC01FFFFC0000000, .resm ⟨0, 1, 0x1FF, 0x1FF⟩ 0x0)] = true := by decide

theorem test_wordsSequencer : readsAs [
    (0xF00800028DC508C6, .qcfgLabel ⟨2, 0, 0, 0, true, false, 0x8DC508C6⟩),
    (0xF00C0A0000000000, .qcfgRegister ⟨3, 0, 5, 0, false, false, 0x0⟩),
    (0xF1002602FFFFFFF0, .qloop ⟨0, 0, 19, 0, true, false, 0xFFFFFFF0⟩),
    (0xF210042600001234, .qbr ⟨4, 0, 2, 9, true, false, 0x1234⟩),
    (0xF3000F1000000000, .qarmRegister ⟨0, 0, 7, 68, false, false, 0x0⟩),
    (0xF30012020000003C, .qarmConstants ⟨0, 0, 9, 0, true, false, 0x3C⟩),
    (0xF3001E0280000000, .qarmKeep ⟨0, 0, 15, 0, true, false, 0x80000000⟩),
    (0xF400000200012345, .qwaitCycles ⟨0, 0, 0, 0, true, false, 0x12345⟩),
    (0xF4001A0000000000, .qwaitStream ⟨0, 0, 13, 0, false, false, 0x0⟩),
    (0xF50042C800000000, .qset ⟨0, 0, 33, 50, false, false, 0x0⟩),
    (0xF6001002FFFFFFFF, .qadd ⟨0, 0, 8, 0, true, false, 0xFFFFFFFF⟩),
    (0xF700000000000000, .qend ⟨0, 0, 0, 0, false, false, 0x0⟩),
    (0xF800000200000B05, .qprd ⟨0, 0, 0, 0, true, false, 0xB05⟩),
    (0xF900000200000000, .qglzNowait ⟨0, 0, 0, 0, true, false, 0x0⟩),
    (0xF9000C0000000000, .qglzWait ⟨0, 0, 6, 0, false, false, 0x0⟩)] = true := by decide

/-- QLOOP Q0 back three words (R331): FN 0, DA 16, IMB 1, IMM32 0xFFFF_FFFD. -/
theorem test_decodeQloop : decodeTableWord 64 0xF1002002FFFFFFFD = some (.qloop ⟨0, 0, 16, 0, true, false, 0xFFFFFFFD⟩) := by decide
theorem test_decodeKmrg : decodeTableWord 64 0xC400160C00004000 = some (.kmrg ⟨0, 0, 0x2C, 0x30⟩ ⟨0, 0, 2, 0, 0, 0⟩) := by decide
theorem test_decodeAtom : decodeTableWord 64 0x8700FFFFC5FC0000 = some (.atom ⟨0, 0, 0x1FF, 0x1FF⟩ ⟨2, 127, 0, 0, 0⟩) := by decide
theorem test_decodeQset : decodeTableWord 64 0xF500B60201480000 = some (.qset ⟨0, 0, 0x5B, 0, true, false, 0x01480000⟩) := by decide
theorem test_decodeQarm : decodeTableWord 64 0xF300020200000018 = some (.qarmConstants ⟨0, 0, 1, 0, true, false, 24⟩) := by decide
/-- A system word: OPC 0xE5, FN 0, PM 00, both targets 0x1FF, IMM30 28. -/
theorem test_decodeCpri : decodeTableWord 64 0xE500FFFFC000001C = some (.cpri ⟨0, 0, 0x1FF, 0x1FF⟩ 28) := by decide

/-! Values that the spec writes out. -/

/-- CRC-16/CCITT-FALSE of "123456789" (R211). -/
theorem test_crc : crc16 ((List.range 9).map fun i => BitVec.ofNat 8 (0x31 + i)) = 0x29B1 := by decide +kernel

/-! One firing, whose result goes to slot 0 of node 1. -/

def h1 : Hd := ⟨0, 0, 4, 0x1FF⟩

/-- The payload of the token that a firing leaves in the latch of node 0. -/
def emitted (o : Host.Outcome State Fault Refusal) : Option Beat :=
  match o with | .next t => (t.fab.latch.head?).map (·.tok.data) | _ => none

/-- R91: without SAT a sum wraps, 255 + 1 in U8. -/
theorem test_addWraps : emitted (exec (.iadd h1 (fmtA 3 3)) (mini 0 (at01 (tok 0xFF 3) (tok 1 3)))) = some 0 := by decide +kernel
/-- R237's table: −7 ÷ 2 is −4 in the mode RNE of the VC entry. -/
theorem test_divRne : emitted (exec (.idiv h1 (fmtA 9 9)) (mini 0 (at01 (tok 0xFFFFFFF9 9) (tok 2 9)))) = some 0xFFFFFFFC := by
  decide +kernel
/-- R248: 1.0 + 1.0 in FP32 is 2.0. -/
theorem test_floatAdd : emitted (exec (.fadd h1 (fmtA 11 11)) (mini 0 (at01 (tok 0x3F800000 11) (tok 0x3F800000 11)))) =
    some 0x40000000 := by decide +kernel
/-- R214: MOVI's 30 bits are sign-extended to lane 0. -/
theorem test_movi : emitted (exec (.movi h1 0x3FFFFFFF) (mini 0 [(0, tok 9)])) = some 0xFFFFFFFFFFFFFFFF := by decide +kernel

end Sys2Proof.Tests
end

section
/-! PROOFS. What the host does to the module: obligation O43. An access that reaches an idle port is done at once; what a write to BAR 0
does follows from the window and the offset it names. -/

namespace Sys2Proof.Claims
open Sys2Proof.Machine

variable {s : State}

/-! Idle ports. -/

/-- An access that need not wait, at ports that hold nothing back, is done and leaves the ports as they were. -/
theorem post_of_idle (hw : s.host.waiting = []) (port : Bool) {w : HostWrite} (h : s.hostWaits w = false) :
    s.post port w = settled (s.applyWrite w) := by
  simp only [State.post, hw, List.nil_append, State.portWrites, List.any_nil, h, Bool.or_self, Bool.false_eq_true, if_false]
  rfl

theorem postAny_of_idle (hw : s.host.waiting = []) {w : HostWrite} (h : s.spent.hostWaits w = false) :
    s.postAny w = settled (s.spent.applyWrite w) :=
  post_of_idle (s := s.spent) hw _ h

theorem retryPorts_of_idle (hw : s.host.waiting = []) : s.retryPorts = settled s := by
  simp only [State.retryPorts, hw, State.portWrites]
  rfl

/-! The windows of BAR 0. -/

theorem inDieWindow_dieWindow {die off : Nat} (hd : die < 8) (ho : off < 0x100000) : inDieWindow (dieWindow die + off) = true := by
  rw [inDieWindow, decide_eq_true_iff, dieWindow]
  omega

theorem dieWindow_div {die off : Nat} (ho : off < 0x100000) : (dieWindow die + off - 0x1000000) / 0x100000 = die := by
  simp only [dieWindow]
  omega

theorem dieWindow_mod {die off : Nat} (ho : off < 0x100000) : (dieWindow die + off) % 0x100000 = off := by
  simp only [dieWindow]
  omega

theorem inDieWindow_moduleWindow (off : Nat) : inDieWindow (moduleWindow + off) = false := by
  rw [inDieWindow, decide_eq_false_iff_not, moduleWindow]
  omega

theorem writeBar_dieWindow {die off : Nat} (hd : die < 8) (ho : off < 0x100000) (ha : off % 8 = 0) (v : Word) (ide : Option Nat) :
    s.writeBar (dieWindow die + off) v ide = s.writeDieReg die off v ide := by
  have haligned : ((dieWindow die + off) % 8 != 0 || dieWindow die + off < 0x10000) = false := by
    rw [Bool.or_eq_false_iff, bne_eq_false_iff_eq, decide_eq_false_iff_not, dieWindow]
    omega
  rw [State.writeBar, haligned, if_neg Bool.false_ne_true, if_pos (inDieWindow_dieWindow hd ho), dieWindow_div ho, dieWindow_mod ho]

theorem writeBar_moduleWindow {off : Nat} (ho : off < 0x100000) (ha : off % 8 = 0) (v : Word) (ide : Option Nat) :
    s.writeBar (moduleWindow + off) v ide = s.writeModuleReg off v ide := by
  have haligned : ((moduleWindow + off) % 8 != 0 || moduleWindow + off < 0x10000) = false := by
    rw [Bool.or_eq_false_iff, bne_eq_false_iff_eq, decide_eq_false_iff_not, moduleWindow]
    omega
  have hwindow : (moduleWindow ≤ moduleWindow + off && moduleWindow + off < 0x2100000) = true := by
    rw [Bool.and_eq_true, decide_eq_true_iff, decide_eq_true_iff, moduleWindow]
    omega
  have hoff : (moduleWindow + off) % 0x100000 = off := by
    simp only [moduleWindow]
    omega
  rw [State.writeBar, haligned, if_neg Bool.false_ne_true, if_neg (by rw [inDieWindow_moduleWindow]; exact Bool.false_ne_true),
    if_pos hwindow, hoff]

/-! What a write waits for. -/

/-- A die's window lies below the recovery register, and only its ACT word reads memory. -/
theorem barReadWaits_dieWindow {die off : Nat} (hd : die < 8) (ho : off < 0x100000) (hact : off ≠ 0xB0808) (v : Word) :
    s.barReadWaits (dieWindow die + off) v = false := by
  have hrecovery : dieWindow die + off ≠ moduleWindow + 0x35000 := by
    simp only [dieWindow, moduleWindow]
    omega
  simp [State.barReadWaits, dieWindow_mod ho, hact, hrecovery]

theorem barReadWaits_act {die : Nat} {v : Word} (hd : die < 8)
    (h : ∀ o va, s.hostRecordAt die (Tab.get 0 die s.flt.hostVa) = some o → o.va = some va → s.partWaits o.part va = false) :
    s.barReadWaits (dieWindow die + 0xB0808) v = false := by
  have hwin := inDieWindow_dieWindow hd (off := 0xB0808) (by decide)
  simp only [State.barReadWaits, hwin, dieWindow_mod (die := die) (off := 0xB0808) (by decide), dieWindow_div (die := die) (off := 0xB0808) (by decide),
    decide_true, Bool.and_self, if_true, Option.any_eq_false]
  exact fun o ho va hva => h o va ho hva

theorem barReadWaits_moduleWindow {off : Nat} (hoff : off ≠ 0x35000) (v : Word) : s.barReadWaits (moduleWindow + off) v = false := by
  simp [State.barReadWaits, inDieWindow_moduleWindow, hoff]

theorem barReadWaits_recovery {v : Word} (h : bit v 63 = true → ∀ l ∈ s.sharedLines, s.paReady (s.home l.1) = true) :
    s.barReadWaits (moduleWindow + 0x35000) v = false := by
  simp only [State.barReadWaits, inDieWindow_moduleWindow, Bool.false_and, Bool.false_eq_true, if_false]
  by_cases hv : bit v 63 = true
  · simpa [hv] using h hv
  · simp [hv]

theorem hostWaits_dieWindow {die off : Nat} {v : Word} (ho : off < 0x100000) (hr : bit s.host.ready die = true)
    (h : s.barReadWaits (dieWindow die + off) v = false) (ide : Option Nat) :
    s.hostWaits (.write (dieWindow die + off) v ide) = false := by
  simp [State.hostWaits, dieWindow_div ho, hr, h]

theorem hostWaits_moduleWindow {off : Nat} {v : Word} (h : s.barReadWaits (moduleWindow + off) v = false) (ide : Option Nat) :
    s.hostWaits (.write (moduleWindow + off) v ide) = false := by
  simp [State.hostWaits, inDieWindow_moduleWindow, h]

/-! A write to an idle port, in a die's window and in the module's. -/

theorem postBar_dieWindow (hw : s.host.waiting = []) (port : Bool) {die off : Nat} {v : Word} (hd : die < 8) (ho : off < 0x100000)
    (ha : off % 8 = 0) (hr : bit s.host.ready die = true) (h : s.barReadWaits (dieWindow die + off) v = false) (ide : Option Nat) :
    s.postBar port (dieWindow die + off) v ide = .next (settled (s.writeDieReg die off v ide)) := by
  rw [State.postBar, post_of_idle hw port (hostWaits_dieWindow ho hr h ide), State.applyWrite, writeBar_dieWindow hd ho ha]

theorem postBar_moduleWindow (hw : s.host.waiting = []) (port : Bool) {off : Nat} {v : Word} (ho : off < 0x100000) (ha : off % 8 = 0)
    (h : s.barReadWaits (moduleWindow + off) v = false) (ide : Option Nat) :
    s.postBar port (moduleWindow + off) v ide = .next (settled (s.writeModuleReg off v ide)) := by
  rw [State.postBar, post_of_idle hw port (hostWaits_moduleWindow h ide), State.applyWrite, writeBar_moduleWindow ho ha]

/-! The registers that the events name. -/

theorem writeDieReg_tlb (die : Nat) (v : Word) (ide : Option Nat) : s.writeDieReg die 0xA0000 v ide = s.invalidateTlb die := rfl

theorem writeDieReg_act (die : Nat) (v : Word) (ide : Option Nat) : s.writeDieReg die 0xB0808 v ide = s.hostResume die v := rfl

theorem writeModuleReg_freePage (v : Word) (ide : Option Nat) : s.writeModuleReg 0x32028 v ide = s.addFreePage v := rfl

theorem writeModuleReg_recovery (v : Word) (ide : Option Nat) : s.writeModuleReg 0x35000 v ide = s.writeRecovery v := rfl

theorem bits_zero_eq_mod (v : Word) (n : Nat) : bits v 0 n = v.toNat % 2 ^ n := by
  simp [bits]

/-- The two words of a lane group's binding follow each other. -/
theorem writeModuleReg_binding {lg : Nat} (hlg : lg < 72) (half : Bool) (v : Word) (ide : Option Nat) :
    s.writeModuleReg (0x30000 + 16 * lg + 8 * b2n half) v ide =
      if half then withPod s fun p => { p with links := Tab.put {} lg { Tab.get {} lg p.links with tag := v } p.links }
      else s.writeBinding lg v := by
  have hhalf : b2n half ≤ 1 := by cases half <;> decide
  have hparts : ¬ 0x30000 + 16 * lg + 8 * b2n half < 0x2000 := by omega
  have hkeys : (0x10000 ≤ 0x30000 + 16 * lg + 8 * b2n half && 0x30000 + 16 * lg + 8 * b2n half < 0x14000) = false := by
    simp only [Bool.and_eq_false_iff, decide_eq_false_iff_not]
    omega
  have hlinks : (0x20000 ≤ 0x30000 + 16 * lg + 8 * b2n half && 0x30000 + 16 * lg + 8 * b2n half < 0x20800) = false := by
    simp only [Bool.and_eq_false_iff, decide_eq_false_iff_not]
    omega
  have hbind : (0x30000 ≤ 0x30000 + 16 * lg + 8 * b2n half && 0x30000 + 16 * lg + 8 * b2n half < 0x30480) = true := by
    simp only [Bool.and_eq_true, decide_eq_true_eq]
    omega
  have hgroup : (0x30000 + 16 * lg + 8 * b2n half - 0x30000) / 16 = lg := by omega
  have hword : (0x30000 + 16 * lg + 8 * b2n half) % 16 = 8 * b2n half := by omega
  rw [State.writeModuleReg, if_neg hparts, hkeys, if_neg Bool.false_ne_true, hlinks, if_neg Bool.false_ne_true, hbind, if_pos rfl,
    hgroup, hword]
  cases half <;> rfl

/-! The events. -/

theorem execLaunchToken_idle (hw : s.host.waiting = []) (port : Bool) {tok : BitVec 512} (hwait : s.launchWaits tok = false)
    (hok : s.launchAccepted tok = true) :
    execLaunchToken port tok s = .next
      (settled (s.launch (launchDie tok) (launchTask tok) (launchOps tok) (bit tok 20) (tok.extractLsb' 16 4))) := by
  rw [execLaunchToken, post_of_idle hw port (w := .launch tok) hwait, State.applyWrite, State.applyLaunch, if_pos hok]

theorem execTlbInvalidation_idle (hw : s.host.waiting = []) (port : Bool) {die : Nat} (hd : die < 8) (hr : bit s.host.ready die = true) :
    execTlbInvalidation ⟨port, die⟩ s = .next (settled (s.invalidateTlb die)) := by
  rw [execTlbInvalidation, if_neg (Nat.not_le.2 hd)]
  rw [postBar_dieWindow hw port hd (by decide) (by decide) hr (barReadWaits_dieWindow hd (by decide) (by decide) 0), writeDieReg_tlb]

theorem execHostResume_idle (hw : s.host.waiting = []) (port : Bool) {die : Nat} (hd : die < 8) (hr : bit s.host.ready die = true)
    (v : Word)
    (h : ∀ o va, s.hostRecordAt die (Tab.get 0 die s.flt.hostVa) = some o → o.va = some va → s.partWaits o.part va = false) :
    execHostResume die ⟨port, v⟩ s = .next
      (settled (s.resume (s.hostRecordAt die (Tab.get 0 die s.flt.hostVa)) (bits v 0 2) (bit v 2))) := by
  rw [execHostResume, if_neg (Nat.not_le.2 hd)]
  rw [postBar_dieWindow hw port hd (by decide) (by decide) hr (barReadWaits_act hd h), writeDieReg_act, State.hostResume]

theorem execFreePageWrite_idle (hw : s.host.waiting = []) (port : Bool) (v : Word) :
    execFreePageWrite ⟨port, v⟩ s = .next
      (settled { s with pages := { s.pages with free := s.pages.free ++ [v.toNat % 2 ^ 32] } }) := by
  rw [execFreePageWrite]
  rw [postBar_moduleWindow hw port (by decide) (by decide) (barReadWaits_moduleWindow (by decide) v), writeModuleReg_freePage,
    State.addFreePage, bits_zero_eq_mod]

theorem execBindingWrite_idle (hw : s.host.waiting = []) (port : Bool) {lg : Nat} (hlg : lg < 72) (half : Bool) (v : Word) :
    execBindingWrite lg half ⟨port, v⟩ s = .next (settled (
      if half then withPod s fun p => { p with links := Tab.put {} lg { Tab.get {} lg p.links with tag := v } p.links }
      else s.writeBinding lg v)) := by
  have hhalf : b2n half ≤ 1 := by cases half <;> decide
  rw [execBindingWrite, if_neg (Nat.not_le.2 hlg), Nat.add_assoc, Nat.add_assoc, ← Nat.add_assoc 0x30000,
    postBar_moduleWindow hw port (by omega) (by omega) (barReadWaits_moduleWindow (by omega) v), writeModuleReg_binding hlg]

theorem execBuddyCopyEnable_idle (hw : s.host.waiting = []) (port : Bool) (v : Word)
    (h : bit v 63 = true → ∀ l ∈ s.sharedLines, s.paReady (s.home l.1) = true) :
    execBuddyCopyEnable ⟨port, v⟩ s = .next (settled (s.writeRecovery v)) := by
  rw [execBuddyCopyEnable]
  rw [postBar_moduleWindow hw port (by decide) (by decide) (barReadWaits_recovery h), writeModuleReg_recovery]

theorem execReadinessFlagSet_idle (hw : s.host.waiting = []) {b : Nat} (hb : s.maySetFlag b = true) :
    execReadinessFlagSet b s = .next (settled (withHost s fun h => { h with ready := withReady (setBits h.ready b 1 1) })) := by
  rw [execReadinessFlagSet, hb, Bool.not_true, if_neg Bool.false_ne_true]
  exact congrArg _ (retryPorts_of_idle hw)

/-- The counter of host errors stops at its greatest value. -/
theorem countHostError_eq : s.countHostError = withHost s fun h => { h with
    errors := BitVec.ofNat 64 (min (2 ^ 64 - 1) (h.errors.toNat + 1)) } := by
  have hlt := s.host.errors.isLt
  have hcount : (if s.host.errors = BitVec.allOnes 64 then s.host.errors else s.host.errors + 1) =
      BitVec.ofNat 64 (min (2 ^ 64 - 1) (s.host.errors.toNat + 1)) := by
    split
    · next hfull => rw [hfull]; rfl
    · next hfull =>
      have hne : s.host.errors.toNat ≠ 2 ^ 64 - 1 := fun he => hfull (BitVec.eq_of_toNat_eq he)
      rw [Nat.min_eq_right (by omega)]
      exact BitVec.eq_of_toNat_eq (by simp [BitVec.toNat_add])
  rw [State.countHostError, hcount]
  rfl

theorem execTdispRequest_lock {p : Nat} (h : s.tstate p = 0) : execTdispRequest p .lock s = .next (s.setTstate p 1) := by
  simp only [execTdispRequest, h]

theorem execTdispRequest_start {p : Nat} (h : s.tstate p = 1) : execTdispRequest p .start s = .next (s.setTstate p 2) := by
  simp only [execTdispRequest, h]

theorem execTdispStop_running {p : Nat} (hp : p < 64) (h : s.tstate p ≠ 0) :
    execTdispStop p s = .next ((s.setTstate p 0).clearPart p) := by
  rw [execTdispStop, if_neg (by simp [h]; omega)]

theorem execIdeIntegrityFailure_sound {p : Nat} (h : s.tstate p ≠ 3) : execIdeIntegrityFailure p s = .next (s.tdiFault p 1) := by
  rw [execIdeIntegrityFailure, if_neg h]

end Sys2Proof.Claims

open Sys2Proof Sys2Proof.Machine Sys2Proof.Claims

/-- Settles O43: each host event at idle ports is the write to the register it names, and the rest are the events' own definitions. -/
theorem hostEventsComplete : Obligations.HostEventsComplete := by
  unfold Obligations.HostEventsComplete
  intro s
  refine ⟨fun hw port => ⟨?launch, ?dies, ?moduleRegs, ?freePages, ?bindings, ?buddy, ?flags⟩, fun hw => ⟨?discarded, ?errors, ?clears⟩,
    ?lock, ?start, ?stop, ?ide, rfl, rfl⟩
  case launch => exact fun tok hwait hok => execLaunchToken_idle hw port hwait hok
  case dies =>
    refine fun die hd hr => ⟨execTlbInvalidation_idle hw port hd hr, fun v h => execHostResume_idle hw port hd hr v h, ?_⟩
    exact fun off v ide ho ha h => postBar_dieWindow hw port hd ho ha hr h ide
  case moduleRegs => exact fun off v ide ho ha h => postBar_moduleWindow hw port ho ha h ide
  case freePages => exact execFreePageWrite_idle hw port
  case bindings => exact fun lg v hlg => ⟨execBindingWrite_idle hw port hlg false v, execBindingWrite_idle hw port hlg true v⟩
  case buddy =>
    intro v h t
    have hexec := execBuddyCopyEnable_idle hw port v h
    refine ⟨fun hon hwas => hexec.trans ?_, fun hoff => hexec.trans ?_⟩
    · rw [State.writeRecovery, if_pos (by simp [hon, hwas])]
      rfl
    · rw [State.writeRecovery, if_neg (by rcases hoff with hoff | hoff <;> simp [hoff])]
      rfl
  case flags => exact fun b hb => execReadinessFlagSet_idle hw hb
  case discarded =>
    intro rd
    have hpost := postAny_of_idle hw (w := .discarded) rfl
    rw [State.applyWrite, countHostError_eq] at hpost
    exact congrArg Host.Outcome.next hpost
  case errors => exact congrArg Host.Outcome.next (postAny_of_idle hw (w := .readErrors) rfl)
  case clears =>
    intro die hr
    have hready : (!bit s.spent.host.ready die) = false := by simpa using hr
    exact ⟨congrArg Host.Outcome.next (postAny_of_idle hw (w := .readSummary die) hready),
      congrArg Host.Outcome.next (postAny_of_idle hw (w := .readCorrected die) hready)⟩
  case lock => exact fun p => execTdispRequest_lock
  case start => exact fun p => execTdispRequest_start
  case stop => exact fun p => execTdispStop_running
  case ide => exact fun p => execIdeIntegrityFailure_sound
end

section
/-! PROOFS. Every step keeps memory and the banks in canonical form: obligation O58. One lemma for each function of the model that
returns a state, in the order of the model: that of `State.f` is `MemCanonical.f`, so that a proof reads as the calls it follows
(`h.hold.issue` for `(s.hold …).issue …`); that of another function `f` is `f_canonical`. Only a few write memory, and they do by
`memWrite`, `memPut`, `moveCells` and the cuts of a saved bank, of which the model's laws say that they keep the form. The rest is frames. -/

namespace Sys2Proof.Claims

open Sys2Proof.Machine

variable {s t : State}

/-- An outcome of which the next state, if it has one, is canonical. -/
def OutcomeCanonical : Host.Outcome State Fault Refusal → Prop
  | .next t => MemCanonical t
  | _ => True

/-- A word's answer in which every state is canonical. -/
def ResCanonical : Res → Prop
  | .fires t _ | .stops t _ => MemCanonical t
  | _ => True

theorem MemCanonical.of_snd {α : Type} {p : α × State} {x : α} (h : MemCanonical p.2) (e : p = (x, t)) : MemCanonical t := by
  subst e; exact h

theorem MemCanonical.of_fst {α : Type} {p : State × α} {x : α} (h : MemCanonical p.1) (e : p = (t, x)) : MemCanonical t := by
  subst e; exact h

theorem MemCanonical.foldl {α : Type} {f : State → α → State} {l : List α} (h : MemCanonical s)
    (hf : ∀ t x, MemCanonical t → MemCanonical (f t x)) : MemCanonical (l.foldl f s) := by
  induction l generalizing s with
  | nil => exact h
  | cons x l ih => exact ih (hf s x h)

/-- An answer in which the state, if it has one, is canonical. -/
def GotCanonical {α : Type} : Got α → Prop
  | .ok _ t | .fails _ t => MemCanonical t
  | .waits => True

def OptionCanonical : Option State → Prop
  | some t => MemCanonical t
  | none => True

/-- An operation of the sequence port that keeps memory canonical. -/
def PortCanonical {α : Type} (p : Port α) : Prop := ∀ step s, MemCanonical s → MemCanonical (p step s).2

theorem GotCanonical.of_ok {α : Type} {g : Got α} {v : α} (h : GotCanonical g) (e : g = .ok v t) : MemCanonical t := by
  subst e; exact h
theorem GotCanonical.of_fails {α : Type} {g : Got α} {x : Exn} (h : GotCanonical g) (e : g = .fails x t) : MemCanonical t := by
  subst e; exact h
theorem OptionCanonical.of_some {o : Option State} (h : OptionCanonical o) (e : o = some t) : MemCanonical t := by
  subst e; exact h

section
variable {α β : Type} {p : Port α}

theorem PortCanonical.pure {a : α} : PortCanonical (pure a : Port α) := fun _ _ h => h
theorem PortCanonical.failPort {x : Exn} : PortCanonical (failPort x : Port α) := fun _ _ h => h
theorem PortCanonical.getState : PortCanonical getState := fun _ _ h => h
theorem PortCanonical.getStep : PortCanonical getStep := fun _ _ h => h
theorem PortCanonical.putState (h : MemCanonical s) : PortCanonical (putState s) := fun _ _ _ => h

theorem Port.bind_apply {f : α → Port β} (step : BitVec 32) (s : State) :
    (p >>= f) step s = match p step s with
      | (.ok a, s) => f a step s
      | (.error x, s) => (.error x, s) := by
  change (match p step s with | (a, s) => ExceptT.bindCont (m := StateM State) (fun a => f a step) a s) = _
  rcases p step s with ⟨a | a, s⟩ <;> rfl

theorem PortCanonical.bind {f : α → Port β} (hp : PortCanonical p) (hf : ∀ a, PortCanonical (f a)) :
    PortCanonical (p >>= f) := by
  intro step s h
  rw [Port.bind_apply]
  have h := hp step s h
  split
  · exact hf _ _ _ (h.of_snd ‹_›)
  · exact h.of_snd ‹_›

theorem PortCanonical.getState_bind {f : State → Port β} (hf : ∀ s, MemCanonical s → PortCanonical (f s)) :
    PortCanonical (Machine.getState >>= f) :=
  fun step s h => hf s h step s h

theorem eachPort_canonical {f : α → Port Unit} (hf : ∀ a, PortCanonical (f a)) (l : List α) : PortCanonical (eachPort f l) := by
  induction l with
  | nil => exact .pure
  | cons x l ih => exact .bind (hf x) fun _ => ih

theorem sumPort_canonical {f : α → Port Nat} (hf : ∀ a, PortCanonical (f a)) (l : List α) : PortCanonical (sumPort f l) := by
  induction l with
  | nil => exact .pure
  | cons x l ih => exact .bind (hf x) fun _ => .bind ih fun _ => .pure

theorem mapPort_canonical {f : α → Port β} (hf : ∀ a, PortCanonical (f a)) (l : List α) : PortCanonical (mapPort f l) := by
  induction l with
  | nil => exact .pure
  | cons x l ih => exact .bind (hf x) fun _ => .bind ih fun _ => .pure

end
theorem ResCanonical.of_fires {r : Res} {outs : List Out} (h : ResCanonical r) (e : r = .fires t outs) : MemCanonical t := by
  subst e; exact h
theorem ResCanonical.of_stops {r : Res} {x : Exn} (h : ResCanonical r) (e : r = .stops t x) : MemCanonical t := by
  subst e; exact h

theorem OptionCanonical.getD {o : Option State} (ho : OptionCanonical o) (h : MemCanonical s) : MemCanonical (o.getD s) := by
  cases o with
  | none => exact h
  | some t => exact ho

theorem MemCanonical.foldl_snd {α β : Type} {f : β × State → α → β × State} {l : List α} {b : β × State}
    (h : MemCanonical b.2) (hf : ∀ b x, MemCanonical b.2 → MemCanonical (f b x).2) : MemCanonical (l.foldl f b).2 := by
  induction l generalizing b with
  | nil => exact h
  | cons x l ih => exact ih (hf b x h)

/-- A candidate of a scan whose reads keep memory canonical. -/
structure CandCanonical (c : Cand) : Prop where
  read : ∀ i, PortCanonical (c.read i)
  rcd : PortCanonical c.rcd
  value : PortCanonical c.value

def FetchedCanonical : Fetched → Prop
  | .ok _ t | .fails _ _ t => MemCanonical t
  | .waits => True

def SeqFetchCanonical : SeqFetch → Prop
  | .idle => True
  | .stops t | .bytes _ t => MemCanonical t

theorem FetchedCanonical.of_ok {f : Fetched} {v : Nat} (h : FetchedCanonical f) (e : f = .ok v t) : MemCanonical t := by
  subst e; exact h
theorem FetchedCanonical.of_fails {f : Fetched} {c : Nat} {va : Word} (h : FetchedCanonical f) (e : f = .fails c va t) :
    MemCanonical t := by
  subst e; exact h
theorem SeqFetchCanonical.of_stops {f : SeqFetch} (h : SeqFetchCanonical f) (e : f = .stops t) : MemCanonical t := by
  subst e; exact h
theorem SeqFetchCanonical.of_bytes {f : SeqFetch} {bs : List Byte} (h : SeqFetchCanonical f) (e : f = .bytes bs t) :
    MemCanonical t := by
  subst e; exact h

/-- A fetch, and what goes on from its answer. -/
theorem FetchedCanonical.goOn {α : Type} {Q : α → Prop} {f : Fetched} {a : α} {b : Nat → Word → State → α}
    {g : Nat → State → α} (hf : FetchedCanonical f) (ha : Q a) (hb : ∀ c va t, MemCanonical t → Q (b c va t))
    (hg : ∀ v t, MemCanonical t → Q (g v t)) :
    Q (match (generalizing := false) f with | .waits => a | .fails c va t => b c va t | .ok v t => g v t) := by
  cases f with
  | waits => exact ha
  | fails c va t => exact hb c va t hf
  | ok v t => exact hg v t hf


/-- The banks that a saved strand holds are canonical, each of one wafer's bytes. -/
def SavedCanonical (v : Saved) : Prop := ∀ m ∈ v.wafers, Memory.wf m.bank = true ∧ ∀ c ∈ m.bank, c.1 < 64 * Config.bankBytes

/-- A change of saved strands that leaves their wafers alone. -/
theorem savedCanonical_map {l : List Saved} {f : Saved → Saved} (hl : ∀ v ∈ l, SavedCanonical v) (hf : ∀ v, (f v).wafers = v.wafers) :
    ∀ v ∈ l.map f, SavedCanonical v := by
  intro v hv
  obtain ⟨x, hx, rfl⟩ := List.mem_map.1 hv
  intro m hm
  exact hl x hx m (hf x ▸ hm)

theorem savedCanonical_filter {l : List Saved} (p : Saved → Bool) (hl : ∀ v ∈ l, SavedCanonical v) : ∀ v ∈ l.filter p, SavedCanonical v :=
  fun v hv => hl v (List.mem_of_mem_filter hv)

theorem savedCanonical_append {l : List Saved} {v : Saved} (hl : ∀ v ∈ l, SavedCanonical v) (hv : SavedCanonical v) :
    ∀ x ∈ l ++ [v], SavedCanonical x := by
  intro x hx
  obtain hx | hx := List.mem_append.1 hx
  · exact hl x hx
  · rw [List.mem_singleton.1 hx]
    exact hv

theorem MemCanonical.of_snd_snd {α β : Type} {p : α × β × State} {x : α} {y : β} (h : MemCanonical p.2.2) (e : p = (x, y, t)) :
    MemCanonical t := by
  subst e; exact h

theorem MemCanonical.saved (h : MemCanonical s) : ∀ v ∈ s.saved, SavedCanonical v := h.2.2

/-- Memory is apart from the planes' registers. -/
theorem MemCanonical.withPlanes {pl} (h : MemCanonical s) : MemCanonical { s with pl := pl } := h

theorem MemCanonical.writePhys {a bs} (h : MemCanonical s) :
    MemCanonical { s with mem := { s.mem with phys := memWrite s.mem.phys a bs } } :=
  ⟨memWrite_wf h.1, h.2⟩

theorem MemCanonical.writeBank {a bs} (h : MemCanonical s) :
    MemCanonical { s with mem := { s.mem with bank := memWrite s.mem.bank a bs } } :=
  ⟨h.1, memWrite_wf h.2.1, h.2.2⟩

theorem MemCanonical.foldl_mem {α : Type} {f : State → α → State} {l : List α} (h : MemCanonical s)
    (hf : ∀ t, ∀ x ∈ l, MemCanonical t → MemCanonical (f t x)) : MemCanonical (l.foldl f s) := by
  induction l generalizing s with
  | nil => exact h
  | cons x l ih =>
    exact ih (hf s x List.mem_cons_self h) fun t y hy => hf t y (List.mem_cons_of_mem _ hy)

theorem MemCanonical.ite {c : Prop} [Decidable c] (hs : MemCanonical s) (ht : MemCanonical t) : MemCanonical (if c then s else t) := by
  split
  exacts [hs, ht]

theorem MemCanonical.ite_snd {α : Type} {c : Prop} [Decidable c] {p q : α × State} (hp : MemCanonical p.2) (hq : MemCanonical q.2) :
    MemCanonical (if c then p else q).2 := by
  split
  exacts [hp, hq]

theorem ResCanonical.ite {c : Prop} [Decidable c] {p q : Res} (hp : ResCanonical p) (hq : ResCanonical q) :
    ResCanonical (if c then p else q) := by
  split
  exacts [hp, hq]

/-! ## Sys2Proof/Machine/State -/

theorem MemCanonical.reset : MemCanonical State.reset :=
  ⟨reset_mem_wf.1, reset_mem_wf.2, fun _ h => nomatch h⟩

/-! ## Sys2Proof/Machine/Ops -/

theorem MemCanonical.spent (h : MemCanonical s) : MemCanonical s.spent := h
theorem MemCanonical.setCtx {c p} (h : MemCanonical s) : MemCanonical (s.setCtx c p) := h
theorem MemCanonical.setStrand {st} (h : MemCanonical s) : MemCanonical (s.setStrand st) := h
theorem MemCanonical.onStrand {die task f} (h : MemCanonical s) : MemCanonical (s.onStrand die task f) := h
theorem MemCanonical.emit {n k hd outs} (h : MemCanonical s) : MemCanonical (s.emit n k hd outs) := h
theorem MemCanonical.setDown {x} (h : MemCanonical s) : MemCanonical (s.setDown x) := h

theorem MemCanonical.enter {x} (h : MemCanonical s) : MemCanonical (s.enter x) := by
  unfold State.enter
  dsimp only
  split
  · exact h
  split
  exacts [h, h.setStrand]

theorem MemCanonical.takeFault {n k wave slots a4} (h : MemCanonical s) : MemCanonical (s.takeFault n k wave slots a4) := by
  unfold State.takeFault
  dsimp only
  split
  · split <;> exact h
  · exact h

theorem MemCanonical.askRecord {r} (h : MemCanonical s) : MemCanonical (s.askRecord r) := h
theorem MemCanonical.report {l part sub} (h : MemCanonical s) : MemCanonical (s.report l part sub) := h.askRecord
theorem MemCanonical.countBeat {n p} (h : MemCanonical s) : MemCanonical (s.countBeat n p) := h

theorem MemCanonical.consume {n k p} (h : MemCanonical s) : MemCanonical (s.consume n k p) := by
  unfold State.consume
  dsimp only
  split
  exacts [h, .countBeat h]

theorem MemCanonical.restore {n k ops} (h : MemCanonical s) : MemCanonical (s.restore n k ops) := h
theorem MemCanonical.consumeAll {n k ps} (h : MemCanonical s) : MemCanonical (s.consumeAll n k ps) := h.foldl fun _ _ h₁ => h₁.consume
theorem MemCanonical.markIssued {n} (h : MemCanonical s) : MemCanonical (s.markIssued n) := h

theorem MemCanonical.markMsq {n k wave m} (h : MemCanonical s) : MemCanonical (s.markMsq n k wave m) := by
  unfold State.markMsq
  split
  · exact h
  split
  exacts [h, h.setStrand]

theorem MemCanonical.fire {h' : Hd} {sl : Slots} {msq : Nat} {pre : State → List Tok → Option Exn} {body : State → List Tok → Res}
    (h : MemCanonical s) (hb : ∀ ts, ResCanonical (body s ts)) : OutcomeCanonical (s.fire h' sl msq pre body) := by
  rcases fire_cases (rfl : s.fire h' sl msq pre body = _) with e | ⟨w, took, x, e⟩ | ⟨w, e⟩ | ⟨w, t, e⟩ |
    ⟨ts, w, took, x, s', hr, e⟩ | ⟨ts, s', outs, hr, e⟩ <;> rw [e]
  · exact h
  · exact h.takeFault
  · exact h.consumeAll.markIssued.markMsq
  · exact h.consumeAll.markIssued.markMsq.emit
  · exact ((hb ts).of_stops hr).takeFault
  · exact ((hb ts).of_fires hr).consumeAll.markIssued.emit

theorem MemCanonical.hold {msq wave e} (h : MemCanonical s) : MemCanonical (s.hold msq wave e) := by
  unfold State.hold
  dsimp only
  split
  exacts [h, h.setStrand]

theorem MemCanonical.bySeq {n k p q} (h : MemCanonical s) : OptionCanonical (s.bySeq n k p q) := by
  unfold State.bySeq
  dsimp only
  split
  · split
    · split
      exacts [h, trivial]
    · trivial
  · split
    exacts [trivial, h]

/-! ## Sys2Proof/Machine/MemOps -/

theorem MemCanonical.findErrors {secs} (h : MemCanonical s) : MemCanonical (s.findErrors secs) := by
  unfold State.findErrors
  dsimp only
  split <;> exact h

theorem MemCanonical.setPoi {sec p} (h : MemCanonical s) : MemCanonical (s.setPoi sec p) := h

theorem MemCanonical.putSector {sec top data cv kidx} (h : MemCanonical s) :
    MemCanonical (s.putSector sec top data cv kidx) := by
  obtain ⟨hp, hb, hv⟩ := h
  exact ⟨memWrite_wf hp, hb, hv⟩

theorem MemCanonical.writeBack {line kidx} (h : MemCanonical s) : MemCanonical (s.writeBack line kidx) := by
  unfold State.writeBack
  dsimp only
  split
  · split
    · exact h
    refine h.foldl fun _ _ h₁ => ?_
    split
    · exact h₁.putSector.setPoi
    · split <;> exact h₁
  · exact h

theorem MemCanonical.evict {line kidx} (h : MemCanonical s) : MemCanonical (s.evict line kidx) := h.writeBack

theorem MemCanonical.mayEvict {line kidx} (h : MemCanonical s) : MemCanonical (s.mayEvict line kidx) := by
  unfold State.mayEvict
  split
  · exact h
  split
  exacts [h.spent.evict, h.spent]

theorem MemCanonical.fillL2 {line l} (h : MemCanonical s) : MemCanonical (s.fillL2 line l) := by
  unfold State.fillL2
  dsimp only
  split
  exacts [h, h.spent.evict]

theorem MemCanonical.plainLine {a line} (h : MemCanonical s) : MemCanonical (s.plainLine a line).2 := by
  unfold State.plainLine
  dsimp only
  split
  · exact h.mayEvict
  split
  · exact h.mayEvict.findErrors
  split
  exacts [h.mayEvict.findErrors.fillL2, h.mayEvict.findErrors]

theorem MemCanonical.addTlb {x} (h : MemCanonical s) : MemCanonical (s.addTlb x) := by
  unfold State.addTlb
  dsimp only
  split
  · repeat' split
    all_goals exact h
  · repeat' split
    all_goals exact h

theorem MemCanonical.lookup {die wafer part stamp va} (h : MemCanonical s) : MemCanonical (s.lookup die wafer part stamp va).2 := by
  unfold State.lookup
  extract_lets
  split
  · extract_lets
    split
    · split
      exacts [h, h.spent]
    · exact h.spent
  · split
    exacts [h.addTlb.addTlb, h]

theorem MemCanonical.translate {die wafer part stamp va write} (h : MemCanonical s) :
    MemCanonical (s.translate die wafer part stamp va write).2 := by
  unfold State.translate
  refine .ite_snd h ?_
  split
  · exact (h.lookup.of_snd ‹_›).findErrors
  · have h₁ := h.lookup.of_snd ‹_›
    exact .ite_snd h₁ (.ite_snd h₁ h₁)

theorem MemCanonical.access {st n space ea size write op} (h : MemCanonical s) : MemCanonical (s.access st n space ea size write op).2 := by
  unfold State.access
  split
  · exact h
  split
  · exact h
  split
  · exact h.translate.of_snd ‹_›
  have h₁ := h.translate.of_snd ‹_›
  repeat' split
  all_goals exact h₁

theorem MemCanonical.readLine {a addr n} (h : MemCanonical s) : MemCanonical (s.readLine a addr n).2 := by
  unfold State.readLine
  dsimp only
  split <;> exact h.plainLine.of_snd ‹_›

theorem MemCanonical.readLines {a addr n} (h : MemCanonical s) : MemCanonical (s.readLines a addr n).2 := by
  unfold State.readLines
  dsimp only
  split
  · exact h.readLine
  split
  · exact h.readLine.of_snd ‹_›
  have h₁ := h.readLine.of_snd ‹_›
  split <;> exact h₁.readLine.of_snd ‹_›

theorem MemCanonical.readRun {a n} (h : MemCanonical s) : MemCanonical (s.readRun a n).2 := by
  unfold State.readRun
  dsimp only
  split
  · exact h
  refine .foldl_snd h fun b x h => ?_
  split
  · exact h
  · split <;> exact (MemCanonical.readLine h).of_snd ‹_›

theorem MemCanonical.readHome {a n} (h : MemCanonical s) : MemCanonical (s.readHome a n).2 := by
  unfold State.readHome
  dsimp only
  split
  · exact h
  split
  · split
    exacts [h, h.spent]
  · split
    exacts [h.readLines, h.findErrors]

theorem MemCanonical.addCopy {c} (h : MemCanonical s) : MemCanonical (s.addCopy c) := h

theorem MemCanonical.wholeLine {a line} (h : MemCanonical s) : MemCanonical (s.wholeLine a line).2 := by
  unfold State.wholeLine
  dsimp only
  split
  exacts [h.plainLine, h.findErrors]

theorem MemCanonical.readScoped {st n a len scope} (h : MemCanonical s) : MemCanonical (s.readScoped st n a len scope).2 := by
  unfold State.readScoped
  extract_lets line wlc rdc hit
  refine .ite_snd h.readHome (.ite_snd h.readHome ?_)
  clear_value hit
  split
  · exact .ite_snd h.spent h.spent.readHome
  split
  · have h₁ := h.readHome.of_snd ‹_›
    extract_lets into
    refine .ite_snd h₁.spent ?_
    split
    · exact (h₁.spent.wholeLine.of_snd ‹_›).foldl fun _ _ h₂ => h₂.addCopy
    · exact h₁.spent.wholeLine.of_snd ‹_›
  · exact h.readHome

theorem MemCanonical.writeSector {a top sec bytes poi} (h : MemCanonical s) :
    MemCanonical (s.writeSector a top sec bytes poi) := by
  unfold State.writeSector
  dsimp only
  split
  · exact h.putSector.setPoi
  split
  · exact h.putSector
  split
  · exact h.findErrors
  split
  · exact h
  · obtain ⟨hp, hb, hv⟩ := h
    exact ⟨memPut_wf hp, hb, hv⟩

theorem MemCanonical.writeLine {a bytes poi line} (h : MemCanonical s) : MemCanonical (s.writeLine a bytes poi line) := by
  unfold State.writeLine
  dsimp only
  split
  · exact h.plainLine
  split
  exacts [h.plainLine.fillL2, h.plainLine.fillL2.evict]

theorem MemCanonical.writeHome {die wafer a bytes poi} (h : MemCanonical s) :
    MemCanonical (s.writeHome die wafer a bytes poi) := by
  unfold State.writeHome
  split
  · obtain ⟨hp, hb, hv⟩ := h
    exact ⟨hp, memPut_wf hb, hv⟩
  split
  · exact h
  dsimp only
  split
  · exact .foldl h fun _ _ h => h.writeLine
  · exact .foldl h fun _ _ h => h.writeSector

theorem MemCanonical.setDomain {p d} (h : MemCanonical s) : MemCanonical (s.setDomain p d) := h
theorem MemCanonical.setLink {lg l} (h : MemCanonical s) : MemCanonical (s.setLink lg l) := h
theorem MemCanonical.sendFlit {lg b ciph} (h : MemCanonical s) : MemCanonical (s.sendFlit lg b ciph) := h

theorem MemCanonical.sendOn {cls part d m e b ciph} (h : MemCanonical s) : MemCanonical (s.sendOn cls part d m e b ciph) := by
  unfold State.sendOn
  dsimp only
  split
  exacts [h.sendFlit, h]

theorem MemCanonical.sendRecord {part step die cls a data mask fmt poi aop w} (h : MemCanonical s) :
    MemCanonical (s.sendRecord part step die cls a data mask fmt poi aop w) := by
  unfold State.sendRecord
  extract_lets d oseq s₁ rank pod s₂ pa pa' r pod' rm s₃
  have h₁ : MemCanonical s₁ := h.setDomain
  have h₂ : MemCanonical s₂ := h₁
  split
  · exact h₂
  · have h₃ : MemCanonical s₃ := h₂.sendOn
    exact h₃

theorem MemCanonical.respond {n k outs late} (h : MemCanonical s) : MemCanonical (s.respond n k outs late) := h

/-! ## Sys2Proof/Machine/Operands -/

theorem MemCanonical.wrote {n vco lanes} (h : MemCanonical s) : MemCanonical (s.wrote n vco lanes) := by
  unfold State.wrote
  dsimp only
  split <;> exact h

/-! ## Sys2Proof/Machine/Integer -/

theorem MemCanonical.intWord {hd a base l op} (h : MemCanonical s) : OutcomeCanonical (s.intWord hd a base l op) := by
  unfold State.intWord
  exact h.fire fun _ => h

theorem execIcmp_canonical {hd a} (h : MemCanonical s) : OutcomeCanonical (execIcmp hd a s) := by
  unfold execIcmp
  exact h.fire fun _ => h

theorem execIdx_canonical {hd a} (h : MemCanonical s) : OutcomeCanonical (execIdx hd a s) := by
  unfold execIdx
  refine h.fire fun _ => ?_
  dsimp only
  split
  exacts [trivial, h]

/-! ## Sys2Proof/Machine/Dataflow -/

theorem execMovCopy_canonical {hd a} (h : MemCanonical s) : OutcomeCanonical (execMovCopy hd a s) := h.fire fun _ => h
theorem execMovImmediate_canonical {hd a} (h : MemCanonical s) : OutcomeCanonical (execMovImmediate hd a s) := h.fire fun _ => h.wrote
theorem execMovi_canonical {hd p} (h : MemCanonical s) : OutcomeCanonical (execMovi hd p s) := h.fire fun _ => h
theorem execMovhi_canonical {hd p} (h : MemCanonical s) : OutcomeCanonical (execMovhi hd p s) := h.fire fun _ => h
theorem execFan_canonical {hd p} (h : MemCanonical s) : OutcomeCanonical (execFan hd p s) := h.fire fun _ => h
theorem execDrop_canonical {hd p} (h : MemCanonical s) : OutcomeCanonical (execDrop hd p s) := h.fire fun _ => h
theorem execSteer_canonical {hd p} (h : MemCanonical s) : OutcomeCanonical (execSteer hd p s) := h.fire fun _ => h
theorem execSel_canonical {hd p} (h : MemCanonical s) : OutcomeCanonical (execSel hd p s) := h.fire fun _ => h
theorem execMerge_canonical {hd p} (h : MemCanonical s) : OutcomeCanonical (execMerge hd p s) := h.fire fun _ => h
theorem MemCanonical.setWindow {m} (h : MemCanonical s) : MemCanonical (s.setWindow m) := h

theorem MemCanonical.release {hd m} (h : MemCanonical s) : MemCanonical (s.release hd m) := by
  unfold State.release
  split
  · split
    exacts [h.setWindow.emit, h.setWindow]
  · exact h.setWindow

theorem execMrgo_canonical {hd p} (h : MemCanonical s) : OutcomeCanonical (execMrgo hd p s) := by
  unfold execMrgo
  dsimp only
  split
  · split
    exacts [h.release, h]
  · refine h.fire fun _ => ?_
    split
    · trivial
    split
    · trivial
    split
    exacts [trivial, h.release]

theorem execPlog_canonical {hd p} (h : MemCanonical s) : OutcomeCanonical (execPlog hd p s) := h.fire fun _ => h

theorem execTaga_canonical {hd p} (h : MemCanonical s) : OutcomeCanonical (execTaga hd p s) := by
  unfold execTaga
  refine h.fire fun _ => ?_
  dsimp only
  split
  · split
    · trivial
    split
    · trivial
    split
    exacts [h, h.setStrand]
  · trivial

theorem execTagf_canonical {hd p} (h : MemCanonical s) : OutcomeCanonical (execTagf hd p s) := by
  unfold execTagf
  refine h.fire fun _ => ?_
  split
  exacts [trivial, h.hold]

theorem MemCanonical.emitInto {n k hd o} (h : MemCanonical s) : MemCanonical (s.emitInto n k hd o) := (h.foldl fun _ _ h₁ => h₁.enter).emit

theorem execTagxDown_canonical {hd p} (h : MemCanonical s) : OutcomeCanonical (execTagxDown hd p s) := by
  unfold execTagxDown
  refine h.fire fun _ => ?_
  dsimp only
  split
  · trivial
  split
  exacts [trivial, h.emitInto]

theorem execTagxUp_canonical {hd p} (h : MemCanonical s) : OutcomeCanonical (execTagxUp hd p s) := by
  unfold execTagxUp
  refine h.fire fun _ => ?_
  dsimp only
  split
  · trivial
  split
  exacts [h.hold, trivial]

theorem MemCanonical.setCont {c k v} (h : MemCanonical s) : MemCanonical (s.setCont c k v) := by
  unfold State.setCont
  split
  exacts [h, h.setStrand]

theorem execWadv_canonical {hd p} (h : MemCanonical s) : OutcomeCanonical (execWadv hd p s) := by
  unfold execWadv
  dsimp only
  split
  · exact h
  split
  · refine h.fire fun _ => ?_
    split
    · trivial
    split
    exacts [trivial, h.setCont.emitInto]
  · refine h.fire fun _ => ?_
    split
    exacts [trivial, h.setCont]

theorem MemCanonical.setKept {x} (h : MemCanonical s) : MemCanonical (s.setKept x) := h
theorem MemCanonical.unkeep {n k} (h : MemCanonical s) : MemCanonical (s.unkeep n k) := h

theorem execGate_canonical {hd p} (h : MemCanonical s) : OutcomeCanonical (execGate hd p s) := by
  unfold execGate
  refine h.fire fun _ => ?_
  split
  exacts [trivial, h.setKept]

theorem execExit_canonical {hd c} (h : MemCanonical s) : OutcomeCanonical (execExit hd c s) := h.fire fun _ => h.hold

theorem execBrb_canonical {hd c} (h : MemCanonical s) : OutcomeCanonical (execBrb hd c s) := by
  unfold execBrb
  refine h.fire fun _ => ?_
  split
  exacts [trivial, h.hold]

theorem execRdk_canonical {hd p} (h : MemCanonical s) : OutcomeCanonical (execRdk hd p s) := by
  unfold execRdk
  refine h.fire fun _ => ?_
  split
  · split
    exacts [trivial, h]
  · trivial

theorem execWrk_canonical {hd p} (h : MemCanonical s) : OutcomeCanonical (execWrk hd p s) := h.fire fun _ => h.hold
theorem execCnst_canonical {hd p} (h : MemCanonical s) : OutcomeCanonical (execCnst hd p s) := h.fire fun _ => h
theorem execOrd_canonical {hd p} (h : MemCanonical s) : OutcomeCanonical (execOrd hd p s) := h.fire fun _ => h
theorem MemCanonical.setStream {die wafer e v} (h : MemCanonical s) : MemCanonical (s.setStream die wafer e v) := h
theorem execStrm_canonical {hd p} (h : MemCanonical s) : OutcomeCanonical (execStrm hd p s) := h.fire fun _ => h
theorem execEosd_canonical {hd p} (h : MemCanonical s) : OutcomeCanonical (execEosd hd p s) := h.fire fun _ => h.hold

/-! ## Sys2Proof/Machine/FloatOps -/

theorem MemCanonical.floatWord {hd a base op} (h : MemCanonical s) : OutcomeCanonical (s.floatWord hd a base op) := by
  unfold State.floatWord
  exact h.fire fun _ => h.wrote

theorem execFcmp_canonical {hd a} (h : MemCanonical s) : OutcomeCanonical (execFcmp hd a s) := by
  unfold execFcmp
  exact h.fire fun _ => h

theorem MemCanonical.cvtWord {hd a l} (h : MemCanonical s) : OutcomeCanonical (s.cvtWord hd a l) := h.fire fun _ => h.wrote

/-! ## Sys2Proof/Machine/Vector -/

theorem execVbcst_canonical {hd a} (h : MemCanonical s) : OutcomeCanonical (execVbcst hd a s) := by
  unfold execVbcst
  exact h.fire fun _ => h

theorem execVshuf_canonical {hd a} (h : MemCanonical s) : OutcomeCanonical (execVshuf hd a s) := h.fire fun _ => h
theorem execVcmpr_canonical {hd a} (h : MemCanonical s) : OutcomeCanonical (execVcmpr hd a s) := h.fire fun _ => h
theorem execVexpd_canonical {hd a} (h : MemCanonical s) : OutcomeCanonical (execVexpd hd a s) := h.fire fun _ => h

theorem execVselm_canonical {hd a} (h : MemCanonical s) : OutcomeCanonical (execVselm hd a s) := by
  unfold execVselm
  refine h.fire fun _ => ?_
  dsimp only
  split
  exacts [h.spent, h]

theorem execVlane_canonical {hd a} (h : MemCanonical s) : OutcomeCanonical (execVlane hd a s) := by
  unfold execVlane
  exact h.fire fun _ => h

theorem execViota_canonical {hd a} (h : MemCanonical s) : OutcomeCanonical (execViota hd a s) := h.fire fun _ => h.wrote

theorem execVpack_canonical {hd a} (h : MemCanonical s) : OutcomeCanonical (execVpack hd a s) := by
  unfold execVpack
  refine h.fire fun _ => ?_
  dsimp only
  split
  exacts [h.spent, h]

theorem execVunpk_canonical {hd a} (h : MemCanonical s) : OutcomeCanonical (execVunpk hd a s) := h.fire fun _ => h
theorem execVred_canonical {hd a} (h : MemCanonical s) : OutcomeCanonical (execVred hd a s) := h.fire fun _ => h.wrote

theorem execVdot_canonical {hd a} (h : MemCanonical s) : OutcomeCanonical (execVdot hd a s) := by
  unfold execVdot
  exact h.fire fun _ => h.wrote

theorem execVscan_canonical {hd a} (h : MemCanonical s) : OutcomeCanonical (execVscan hd a s) := h.fire fun _ => h.wrote

/-! ## Sys2Proof/Machine/Chan -/

theorem execVcset_canonical {hd p} (h : MemCanonical s) : OutcomeCanonical (execVcset hd p s) := by
  unfold execVcset
  refine h.fire fun _ => ?_
  dsimp only
  split
  exacts [h, h.hold]

theorem execVcget_canonical {hd p} (h : MemCanonical s) : OutcomeCanonical (execVcget hd p s) := h.fire fun _ => h
theorem execHdr_canonical {hd a} (h : MemCanonical s) : OutcomeCanonical (execHdr hd a s) := h.fire fun _ => h
theorem execQnt_canonical {hd a} (h : MemCanonical s) : OutcomeCanonical (execQnt hd a s) := h.fire fun _ => h
theorem execDqnt_canonical {hd a} (h : MemCanonical s) : OutcomeCanonical (execDqnt hd a s) := h.fire fun _ => h.wrote

theorem execSclx_canonical {hd a} (h : MemCanonical s) : OutcomeCanonical (execSclx hd a s) := by
  unfold execSclx
  exact h.fire fun _ => h

theorem execI4xp_canonical {hd a} (h : MemCanonical s) : OutcomeCanonical (execI4xp hd a s) := h.fire fun _ => h.wrote
theorem execI4xu_canonical {hd a} (h : MemCanonical s) : OutcomeCanonical (execI4xu hd a s) := h.fire fun _ => h.wrote

/-! ## Sys2Proof/Machine/PageOps -/

theorem PortCanonical.run' {α : Type} {p : Port α} {step : BitVec 32} (hp : PortCanonical p) (h : MemCanonical s) :
    MemCanonical (p.run' s step).2 :=
  hp step s h

theorem MemCanonical.foundIn {x} (h : MemCanonical s) : MemCanonical (s.foundIn x) := h

theorem PortCanonical.got {α : Type} {p : Port α} {step : BitVec 32} (hp : PortCanonical p) (h : MemCanonical s) :
    GotCanonical (p.got s step) := by
  unfold Port.got
  split
  · exact (hp.run' h).of_snd ‹_›
  split
  · trivial
  · exact h.foundIn

theorem portAcc_canonical {va write} : PortCanonical (portAcc va write) := by
  unfold portAcc
  intro step s h
  dsimp only
  split
  · split
    · exact h
    split
    · exact h.findErrors
    repeat' split
    all_goals exact h
  · split
    · exact h
    split
    · exact h.findErrors
    repeat' split
    all_goals exact h

theorem portRead_canonical {va n} : PortCanonical (portRead va n) := by
  unfold portRead
  refine .bind portAcc_canonical fun _ => .getState_bind fun _ h => .bind .getStep fun _ => ?_
  split
  · exact .failPort
  split
  · exact .bind (.putState h.findErrors) fun _ => .failPort
  split
  exacts [.bind (.putState (h.readHome.of_snd ‹_›)) fun _ => .pure, .failPort]

theorem portPut_canonical {a bytes poi} : PortCanonical (portPut a bytes poi) := by
  unfold portPut
  intro step s h
  dsimp only
  split
  · split
    exacts [h, h.writeHome]
  · exact h.foldl fun _ _ h₁ => h₁.sendRecord

theorem portWrite_canonical {va n v} : PortCanonical (portWrite va n v) := by
  unfold portWrite
  refine .bind portAcc_canonical fun _ => .getState_bind fun _ h => ?_
  split
  exacts [.bind (.putState h.findErrors) fun _ => .failPort, portPut_canonical]

theorem readSte_canonical {n} : PortCanonical (readSte n) := .getState_bind fun _ _ => .bind portRead_canonical fun _ => .pure
theorem writeSte_canonical {n e} : PortCanonical (writeSte n e) := .getState_bind fun _ _ => portWrite_canonical

theorem goodSte_canonical {n} : PortCanonical (goodSte n) := by
  unfold goodSte
  refine .bind readSte_canonical fun _ => ?_
  split
  exacts [.failPort, .pure]

theorem overlayArray_canonical {e hg} : PortCanonical (overlayArray e hg) := by
  unfold overlayArray
  split
  exacts [.pure, portRead_canonical]

theorem overlayEntry_canonical {e hg j} : PortCanonical (overlayEntry e hg j) := by
  unfold overlayEntry
  refine .bind overlayArray_canonical fun _ => ?_
  split
  exacts [.pure, .bind portRead_canonical fun _ => .pure]

theorem lookupFrom_canonical {hg j f sq e} : PortCanonical (lookupFrom hg j f sq e) := by
  induction f generalizing sq e with
  | zero => exact .pure
  | succ f ih =>
    refine .bind overlayEntry_canonical fun _ => ?_
    split
    · exact .pure
    split
    · exact .pure
    · exact .bind goodSte_canonical fun _ => ih

theorem lookupPage_canonical {x hg j e} : PortCanonical (lookupPage x hg j e) := lookupFrom_canonical
theorem readDesc_canonical {page} : PortCanonical (readDesc page) := .getState_bind fun _ _ => .bind portRead_canonical fun _ => .pure
theorem writeDesc_canonical {page d} : PortCanonical (writeDesc page d) := .getState_bind fun _ _ => portWrite_canonical

theorem freePage_canonical {page} : PortCanonical (freePage page) := by
  unfold freePage
  intro step s h
  dsimp only
  exact h

theorem decRef_canonical {page} : PortCanonical (decRef page) := by
  unfold decRef
  refine .bind readDesc_canonical fun _ => ?_
  split
  · exact .pure
  refine .bind writeDesc_canonical fun _ => ?_
  split
  exacts [.bind freePage_canonical fun _ => .pure, .pure]

theorem resolved_canonical {sq e l} : PortCanonical (resolved sq e l) := by
  induction l with
  | nil => exact .pure
  | cons x l ih => exact .bind lookupPage_canonical fun _ => .bind ih fun _ => .pure

theorem pinPage_canonical {n k page} : PortCanonical (pinPage n k page) := .getState_bind fun _ h => .putState h

theorem appendCheck_canonical {n k sq hg p b} : PortCanonical (appendCheck n k sq hg p b) := by
  unfold appendCheck
  refine .bind readSte_canonical fun _ => .bind overlayArray_canonical fun _ => ?_
  dsimp only
  split
  · exact .failPort
  refine .getState_bind fun _ _ => ?_
  split
  · exact .failPort
  split
  · exact .failPort
  refine .bind lookupPage_canonical fun _ => ?_
  split
  · refine .bind readDesc_canonical fun _ => ?_
    split
    exacts [.failPort, .bind portAcc_canonical fun _ => .bind pinPage_canonical fun _ => .pure]
  · split
    · exact .bind portAcc_canonical fun _ => .bind pinPage_canonical fun _ => .pure
    · exact .failPort
    · exact .bind portAcc_canonical fun _ => .getState_bind fun _ h₁ => .bind (.putState h₁.spent) fun _ =>
        .bind pinPage_canonical fun _ => .pure

theorem MemCanonical.unpin {n k page} (h : MemCanonical s) : MemCanonical (s.unpin n k page) := h

theorem dropPage_canonical {sq e hg j} : PortCanonical (dropPage sq e hg j) := by
  unfold dropPage
  refine .bind lookupPage_canonical fun _ => ?_
  split
  · exact .pure
  refine .bind overlayArray_canonical fun _ => ?_
  split
  exacts [.pure, .bind portWrite_canonical fun _ => .bind decRef_canonical fun _ => .pure]

theorem appendPerform_canonical {n k op} : PortCanonical (appendPerform n k op) := by
  unfold appendPerform
  refine .bind readSte_canonical fun _ => .getState_bind fun _ _ => .bind ?_ fun _ => .getState_bind fun _ h₁ =>
      .bind portAcc_canonical fun _ => .bind portPut_canonical fun _ => .getState_bind fun _ h₂ => .bind (.putState h₂.unpin) fun _ => ?_
  · dsimp only
    split
    · exact .bind overlayArray_canonical fun _ => .bind readDesc_canonical fun _ => .bind writeDesc_canonical fun _ =>
        .bind portWrite_canonical fun _ => .getState_bind fun _ h₁ => .bind (.putState h₁) fun _ => .pure
    refine .bind lookupPage_canonical fun _ => ?_
    split
    exacts [.pure, .failPort]
  · split
    · exact .bind writeSte_canonical fun _ => .getState_bind fun _ _ => eachPort_canonical (fun _ => eachPort_canonical (fun _ =>
        dropPage_canonical) _) _
    · exact .pure

theorem forkPinned_canonical {a} : PortCanonical (forkPinned a) := by
  unfold forkPinned
  refine .bind readSte_canonical fun _ => ?_
  split
  exacts [.pure, .bind resolved_canonical fun _ => .getState_bind fun _ _ => .pure]

theorem bumpRefs_canonical {l} : PortCanonical (bumpRefs l) := by
  induction l with
  | nil => exact .pure
  | cons x l ih => exact .bind readDesc_canonical fun _ => .bind writeDesc_canonical fun _ => ih

theorem checkRefs_canonical {all l} : PortCanonical (checkRefs all l) := by
  induction l with
  | nil => exact .pure
  | cons x l ih =>
    refine .bind readDesc_canonical fun _ => ?_
    split
    exacts [.failPort, ih]

theorem flatten_canonical {child l} : PortCanonical (flatten child l) := by
  induction l with
  | nil => exact .pure
  | cons x l ih => exact .bind overlayArray_canonical fun _ => .bind portWrite_canonical fun _ => ih

theorem flatPointers_canonical {child l} : PortCanonical (flatPointers child l) := by
  induction l with
  | nil => exact .pure
  | cons x l ih =>
    refine .bind overlayArray_canonical fun _ => ?_
    split
    exacts [.failPort, ih]

theorem forkSeq_canonical {a b} : PortCanonical (forkSeq a b) := by
  unfold forkSeq
  refine .bind readSte_canonical fun _ => .bind readSte_canonical fun _ => ?_
  dsimp only
  split
  · refine .bind resolved_canonical fun _ => .bind checkRefs_canonical fun _ => ?_
    split
    · exact .failPort
    split
    · exact .failPort
    split
    · exact .failPort
    refine .bind resolved_canonical fun _ => ?_
    split
    · exact .bind bumpRefs_canonical fun _ => .bind writeSte_canonical fun _ => .pure
    · exact .bind flatPointers_canonical fun _ => .bind flatten_canonical fun _ => .bind bumpRefs_canonical fun _ =>
        .bind writeSte_canonical fun _ => .pure
  · split
    · exact .failPort
    split
    · exact .failPort
    split
    · exact .failPort
    refine .bind resolved_canonical fun _ => ?_
    split
    · exact .bind bumpRefs_canonical fun _ => .bind writeSte_canonical fun _ => .pure
    · exact .bind flatPointers_canonical fun _ => .bind flatten_canonical fun _ => .bind bumpRefs_canonical fun _ =>
        .bind writeSte_canonical fun _ => .pure

theorem releaseSeq_canonical {n} : PortCanonical (releaseSeq n) := by
  unfold releaseSeq
  refine .bind readSte_canonical fun _ => ?_
  split
  · exact .pure
  split
  · exact .failPort
  · exact .bind resolved_canonical fun _ => .bind (sumPort_canonical (fun _ => decRef_canonical) _) fun _ =>
      .bind writeSte_canonical fun _ => .pure

theorem setRgn_canonical {page v} : PortCanonical (setRgn page v) := .bind readDesc_canonical fun _ => writeDesc_canonical

theorem beatPoisoned_canonical {va} : PortCanonical (beatPoisoned va) := by
  unfold beatPoisoned
  intro step s h
  dsimp only
  split <;> exact (PortCanonical.run' portAcc_canonical h).of_snd ‹_›

theorem poisonedSlots_canonical {page npos} : PortCanonical (poisonedSlots page npos) :=
  .getState_bind fun _ _ => sumPort_canonical (fun _ => .bind
    (sumPort_canonical (fun _ => .bind beatPoisoned_canonical fun _ => .pure) _) fun _ => .pure) _

theorem regenerate_canonical {page owner hg j npos} : PortCanonical (regenerate page owner hg j npos) := by
  unfold regenerate
  refine .bind readDesc_canonical fun _ => .getState_bind fun _ _ => ?_
  dsimp only
  split
  · exact .pure
  refine .bind setRgn_canonical fun _ => ?_
  split
  · exact .pure
  · exact .bind poisonedSlots_canonical fun _ => .bind portAcc_canonical fun _ => .getState_bind fun _ h₁ =>
      .bind (.putState h₁) fun _ => .pure

theorem resolvePos_canonical {sq hg pos} : PortCanonical (resolvePos sq hg pos) := by
  unfold resolvePos
  refine .bind goodSte_canonical fun _ => .bind lookupPage_canonical fun _ => ?_
  split
  exacts [.pure, .getState_bind fun _ _ => .pure]

/-! ## Sys2Proof/Machine/MemWords -/

theorem MemCanonical.issue {m ts} (h : MemCanonical s) : MemCanonical (s.issue m ts) := h.markMsq

theorem MemCanonical.loadBytes {st m ts a len} (h : MemCanonical s) : MemCanonical (s.loadBytes st m ts a len).2 := by
  unfold State.loadBytes
  split
  exacts [h.readScoped.of_snd ‹_›, h.readScoped]

theorem MemCanonical.loadBody {m size ts out} (h : MemCanonical s) : ResCanonical (s.loadBody m size ts out) := by
  unfold State.loadBody
  dsimp only
  split
  · trivial
  split
  · trivial
  split
  · exact h.access.of_snd ‹_›
  have h₁ := h.access.of_snd ‹_›
  split
  · trivial
  split
  · split
    exacts [(h₁.mayEvict.readHome.of_snd ‹_›).issue.respond, trivial]
  · split
    exacts [(h₁.loadBytes.of_snd ‹_›).issue.respond, h₁.loadBytes.of_snd ‹_›]

theorem execLd_canonical {hd m} (h : MemCanonical s) : OutcomeCanonical (execLd hd m s) := h.fire fun _ => h.loadBody

theorem MemCanonical.takenPage {m ts sq hg pos} (_h : MemCanonical s) : PortCanonical (s.takenPage m ts sq hg pos) := by
  unfold State.takenPage
  refine .bind goodSte_canonical fun _ => ?_
  dsimp only
  split
  exacts [.pure, .bind portAcc_canonical fun _ => .pure]

theorem MemCanonical.poolPlace {m ts sq hg pos} (h : MemCanonical s) : PortCanonical (s.poolPlace m ts sq hg pos) := by
  unfold State.poolPlace
  refine .bind resolvePos_canonical fun _ => ?_
  split
  exacts [.pure, h.takenPage]

theorem MemCanonical.ldbPage {m ts} (h : MemCanonical s) : ResCanonical (s.ldbPage m ts) := by
  unfold State.ldbPage
  dsimp only
  split
  · trivial
  split
  · trivial
  split
  · trivial
  split
  · trivial
  · exact (PortCanonical.got h.poolPlace h).of_fails ‹_›
  · exact ((PortCanonical.got h.poolPlace h).of_ok ‹_›).issue.respond
  have h₁ := (PortCanonical.got h.poolPlace h).of_ok ‹_›
  split
  · trivial
  · exact (PortCanonical.got readDesc_canonical h₁).of_fails ‹_›
  have h₂ := (PortCanonical.got readDesc_canonical h₁).of_ok ‹_›
  split
  · exact h₂.issue.respond
  split
  · trivial
  · exact (PortCanonical.got portAcc_canonical h₂).of_fails ‹_›
  have h₃ := (PortCanonical.got portAcc_canonical h₂).of_ok ‹_›
  split
  · trivial
  split
  · trivial
  split
  · exact h₃.readHome.of_snd ‹_›
  have h₄ := h₃.readHome.of_snd ‹_›
  split
  · exact h₄.issue.respond
  split
  · trivial
  · exact (PortCanonical.got regenerate_canonical h₄).of_fails ‹_›
  · exact (PortCanonical.got regenerate_canonical h₄).of_ok ‹_›
  · exact ((PortCanonical.got regenerate_canonical h₄).of_ok ‹_›).issue.respond

theorem execLdb_canonical {hd m} (h : MemCanonical s) : OutcomeCanonical (execLdb hd m s) := by
  unfold execLdb
  refine h.fire fun _ => ?_
  split
  exacts [h.ldbPage, h.loadBody]

theorem MemCanonical.readBeats {st m ts a f i} (h : MemCanonical s) : MemCanonical (s.readBeats st m ts a f i).2 := by
  induction f generalizing s i with
  | zero => exact h
  | succ f ih =>
    unfold State.readBeats
    dsimp only
    split
    · exact h
    split
    · exact h.loadBytes.of_snd ‹_›
    have h := ih (i := i + 1) (h.loadBytes.of_snd ‹_›)
    split
    exacts [h.of_snd ‹_›, h]

theorem execLdl_canonical {hd m} (h : MemCanonical s) : OutcomeCanonical (execLdl hd m s) := by
  unfold execLdl
  refine h.fire fun _ => ?_
  dsimp only
  split
  · trivial
  split
  · trivial
  split
  · exact h.access.of_snd ‹_›
  have h₁ := h.access.of_snd ‹_›
  split
  · trivial
  split
  exacts [h₁.readBeats.of_snd ‹_›, (h₁.readBeats.of_snd ‹_›).issue.respond]

theorem execPref_canonical {hd m} (h : MemCanonical s) : OutcomeCanonical (execPref hd m s) := by
  unfold execPref
  refine h.fire fun _ => ?_
  split
  · trivial
  split
  · trivial
  split
  · exact h.issue
  split
  exacts [(h.translate.of_snd ‹_›).issue, h.issue]

theorem MemCanonical.storeBody {m size ts bytes} (h : MemCanonical s) : ResCanonical (s.storeBody m size ts bytes) := by
  unfold State.storeBody
  dsimp only
  split
  · trivial
  split
  · trivial
  split
  · exact h.access.of_snd ‹_›
  have h₁ := h.access.of_snd ‹_›
  split
  · trivial
  split
  exacts [trivial, h₁.hold.issue]

theorem execSt_canonical {hd m} (h : MemCanonical s) : OutcomeCanonical (execSt hd m s) := h.fire fun _ => h.storeBody
theorem execStnt_canonical {hd m} (h : MemCanonical s) : OutcomeCanonical (execStnt hd m s) := h.fire fun _ => h.storeBody
theorem execStb_canonical {hd m} (h : MemCanonical s) : OutcomeCanonical (execStb hd m s) := h.fire fun _ => h.storeBody

theorem execLds_canonical {hd m} (h : MemCanonical s) : OutcomeCanonical (execLds hd m s) := by
  unfold execLds
  refine h.fire fun _ => ?_
  dsimp only
  split
  · trivial
  split
  · trivial
  split
  · trivial
  split
  exacts [trivial, h.issue.respond]

theorem execSts_canonical {hd m} (h : MemCanonical s) : OutcomeCanonical (execSts hd m s) := by
  unfold execSts
  refine h.fire fun _ => ?_
  dsimp only
  split
  · trivial
  split
  · trivial
  split
  · trivial
  split
  exacts [trivial, h.hold.issue]

theorem MemCanonical.queueRmw {msq rd ts nums} (h : MemCanonical s) : MemCanonical (s.queueRmw msq rd ts nums) := h

theorem MemCanonical.rmwBody {m size rd ts check} (h : MemCanonical s) : ResCanonical (s.rmwBody m size rd ts check) := by
  unfold State.rmwBody
  split
  · trivial
  split
  · trivial
  split
  · exact h.access.of_snd ‹_›
  have h₁ := h.access.of_snd ‹_›
  split
  exacts [trivial, h₁.queueRmw.issue]

theorem execAtom_canonical {hd m} (h : MemCanonical s) : OutcomeCanonical (execAtom hd m s) := h.fire fun _ => h.rmwBody
theorem execCas_canonical {hd m} (h : MemCanonical s) : OutcomeCanonical (execCas hd m s) := h.fire fun _ => h.rmwBody
theorem execFatom_canonical {hd m} (h : MemCanonical s) : OutcomeCanonical (execFatom hd m s) := h.fire fun _ => h.rmwBody
theorem execDeq_canonical {hd m} (h : MemCanonical s) : OutcomeCanonical (execDeq hd m s) := h.fire fun _ => h.rmwBody

theorem execEnq_canonical {hd m} (h : MemCanonical s) : OutcomeCanonical (execEnq hd m s) := by
  unfold execEnq
  refine h.fire fun _ => ?_
  dsimp only
  split
  · trivial
  split
  · trivial
  split
  · exact h.access.of_snd ‹_›
  have h₁ := h.access.of_snd ‹_›
  split
  · trivial
  split
  exacts [trivial, h₁.hold.issue]

theorem MemCanonical.atomicFault {a len} (h : MemCanonical s) : MemCanonical (s.atomicFault a len).2 := by
  unfold State.atomicFault
  split
  · exact h
  split
  exacts [h.findErrors, h]

theorem MemCanonical.performAtomic {r} (h : MemCanonical s) : ResCanonical (s.performAtomic r) := by
  unfold State.performAtomic
  extract_lets w m ts size nl
  split
  · trivial
  split
  · exact h.access.of_snd ‹_›
  have h₁ := h.access.of_snd ‹_›
  refine .ite trivial ?_
  refine .ite (.ite trivial ?_) ?_
  · split
    · exact h₁.atomicFault.of_snd ‹_›
    have h₂ := h₁.atomicFault.of_snd ‹_›
    split
    · exact h₂.readHome.of_snd ‹_›
    · exact (h₂.readHome.of_snd ‹_›).sendRecord
  · split
    · exact h₁.atomicFault.of_snd ‹_›
    have h₂ := h₁.atomicFault.of_snd ‹_›
    split
    · exact h₂.readHome.of_snd ‹_›
    have h₃ := h₂.readHome.of_snd ‹_›
    exact MemCanonical.ite h₃ h₃.writeHome

theorem MemCanonical.performDeq {r} (h : MemCanonical s) : ResCanonical (s.performDeq r) := by
  unfold State.performDeq
  dsimp only
  split
  · trivial
  split
  · exact h.access.of_snd ‹_›
  have h₁ := h.access.of_snd ‹_›
  split
  · trivial
  split
  · trivial
  split
  · exact h₁.atomicFault.of_snd ‹_›
  have h₂ := h₁.atomicFault.of_snd ‹_›
  split
  · exact h₂.readHome.of_snd ‹_›
  have h₃ := h₂.readHome.of_snd ‹_›
  split
  · trivial
  split
  · trivial
  split
  · exact h₃
  split
  · exact h₃.atomicFault.of_snd ‹_›
  have h₄ := h₃.atomicFault.of_snd ‹_›
  split
  exacts [h₄.readHome.of_snd ‹_›, (h₄.readHome.of_snd ‹_›).writeHome]

theorem execFnc_canonical {hd m} (h : MemCanonical s) : OutcomeCanonical (execFnc hd m s) := by
  unfold execFnc
  refine h.fire fun _ => ?_
  dsimp only
  split
  exacts [trivial, h.hold.issue]

theorem MemCanonical.rangeFault {st va f left} (h : MemCanonical s) : MemCanonical (s.rangeFault st va f left).2 := by
  induction f generalizing s va left with
  | zero => exact h
  | succ f ih =>
    unfold State.rangeFault
    split
    · exact h
    split
    · exact h.translate.of_snd ‹_›
    · exact ih (h.translate.of_snd ‹_›)

theorem execDfnc_canonical {hd m} (h : MemCanonical s) : OutcomeCanonical (execDfnc hd m s) := by
  unfold execDfnc
  refine h.fire fun _ => ?_
  dsimp only
  split
  · trivial
  split
  · trivial
  split
  exacts [h.rangeFault.of_snd ‹_›, (h.rangeFault.of_snd ‹_›).hold.issue]

theorem execRdci_canonical {hd p} (h : MemCanonical s) : OutcomeCanonical (execRdci hd p s) := h.fire fun _ => h.queueRmw

theorem MemCanonical.performRdci {r} (h : MemCanonical s) : ResCanonical (s.performRdci r) := by
  unfold State.performRdci
  dsimp only
  split
  exacts [trivial, h]

theorem execSarm_canonical {hd p} (h : MemCanonical s) : OutcomeCanonical (execSarm hd p s) := h.fire fun _ => h.hold
theorem execQfnc_canonical {hd p} (h : MemCanonical s) : OutcomeCanonical (execQfnc hd p s) := h.fire fun _ => h.hold
theorem execCntrRead_canonical {hd p} (h : MemCanonical s) : OutcomeCanonical (execCntrRead hd p s) := h.fire fun _ => h
theorem execCntrStall_canonical {hd p} (h : MemCanonical s) : OutcomeCanonical (execCntrStall hd p s) := h.fire fun _ => h

theorem execCntrLink_canonical {hd p} (h : MemCanonical s) : OutcomeCanonical (execCntrLink hd p s) := by
  unfold execCntrLink
  refine h.fire fun _ => ?_
  dsimp only
  split <;> exact h

theorem execCntrSnap_canonical {hd p} (h : MemCanonical s) : OutcomeCanonical (execCntrSnap hd p s) := h.fire fun _ => h.queueRmw

theorem MemCanonical.performSnap {r} (h : MemCanonical s) : ResCanonical (s.performSnap r) := by
  unfold State.performSnap
  dsimp only
  split <;> exact h

/-! ## Sys2Proof/Machine/Access -/

theorem MemCanonical.enginePiece {u space ea n write} (h : MemCanonical s) : MemCanonical (s.enginePiece u space ea n write).2 := by
  unfold State.enginePiece
  dsimp only
  split
  · repeat' split
    all_goals exact h
  · split
    · exact h.translate.of_snd ‹_›
    have h₁ := h.translate.of_snd ‹_›
    split <;> exact h₁

theorem MemCanonical.enginePieces {u space write l} (h : MemCanonical s) :
    MemCanonical (s.enginePieces u space write l).2 := by
  induction l generalizing s with
  | nil => exact h
  | cons x l ih =>
    unfold State.enginePieces
    split
    · exact h.enginePiece.of_snd ‹_›
    · have h := ih (h.enginePiece.of_snd ‹_›)
      split <;> exact h.of_snd ‹_›

theorem MemCanonical.engineAccs {u space ea n write} (h : MemCanonical s) : GotCanonical (s.engineAccs u space ea n write) := by
  unfold State.engineAccs
  extract_lets
  split
  · trivial
  split
  · exact h.enginePieces.of_snd ‹_›
  have h₁ := h.enginePieces.of_snd ‹_›
  split
  exacts [trivial, h₁]

theorem MemCanonical.readPieces {space l} (h : MemCanonical s) : MemCanonical (s.readPieces space l).2 := by
  induction l generalizing s with
  | nil => exact h
  | cons x l ih =>
    unfold State.readPieces
    have h : MemCanonical (if space = 4 then s.mayEvict (s.home (x.1.base + (x.1.addr - x.1.base) / 192 * 192)) x.1.kidx else s) := by
      split
      exacts [h.mayEvict, h]
    dsimp only
    split
    · exact h.readHome.of_snd ‹_›
    · have h := ih (h.readHome.of_snd ‹_›)
      split <;> exact h.of_snd ‹_›

theorem MemCanonical.engineRead {u ahead space ea n} (h : MemCanonical s) : GotCanonical (s.engineRead u ahead space ea n) := by
  unfold State.engineRead
  split
  · trivial
  · exact h.engineAccs.of_fails ‹_›
  have h₁ := h.engineAccs.of_ok ‹_›
  split
  · trivial
  · split <;> exact h₁.readPieces.of_snd ‹_›

theorem MemCanonical.writeImage {a bytes poi} (h : MemCanonical s) : MemCanonical (s.writeImage a bytes poi) := by
  unfold State.writeImage
  dsimp only
  split
  · exact h
  · split <;> exact h.mayEvict.writeSector

theorem MemCanonical.movePiece {m space poi fmt cls p} (h : MemCanonical s) : MemCanonical (s.movePiece m space poi fmt cls p) := by
  unfold State.movePiece
  dsimp only
  split
  · exact h.foldl fun _ _ h₁ => h₁.sendRecord
  split
  exacts [h.foldl fun _ _ h₁ => h₁.writeImage, h.writeHome]

theorem MemCanonical.engineWrite {m space ea bytes poi fmt cls} (h : MemCanonical s) :
    GotCanonical (s.engineWrite m space ea bytes poi fmt cls) := by
  unfold State.engineWrite
  split
  · trivial
  · exact h.engineAccs.of_fails ‹_›
  have h₁ := h.engineAccs.of_ok ‹_›
  split
  · trivial
  split
  · exact h₁
  split
  exacts [h₁, h₁.foldl fun _ _ h₂ => h₂.movePiece]

/-! ## Sys2Proof/Machine/Bound -/

theorem MemCanonical.offer {die wafer q o} (h : MemCanonical s) : MemCanonical (s.offer die wafer q o) := h

/-! ## Sys2Proof/Machine/Engines -/

theorem execXpk_canonical {hd p} (h : MemCanonical s) : OutcomeCanonical (execXpk hd p s) := h.fire fun _ => h
theorem execXfer_canonical {hd p} (h : MemCanonical s) : OutcomeCanonical (execXfer hd p s) := h.fire fun _ => h.hold
theorem MemCanonical.askGather {scat p k} (h : MemCanonical s) : MemCanonical (s.askGather scat p k) := h.unkeep.hold

theorem MemCanonical.gathered {scat p k} (h : MemCanonical s) : ResCanonical (s.gathered scat p k) := by
  unfold State.gathered
  split
  exacts [h.askGather, h.setKept]

theorem MemCanonical.takeIndex {hd p scat k0} (h : MemCanonical s) : OutcomeCanonical (s.takeIndex hd p scat k0) := by
  unfold State.takeIndex
  dsimp only
  split
  exacts [h, (h.bySeq.of_some ‹_›).fire fun _ => (h.bySeq.of_some ‹_›).gathered]

theorem MemCanonical.takeRow {hd p kept} (h : MemCanonical s) : OutcomeCanonical (s.takeRow hd p kept) := by
  unfold State.takeRow
  split
  exacts [h, (h.bySeq.of_some ‹_›).fire fun _ => (h.bySeq.of_some ‹_›).gathered]

theorem execScat_canonical {hd p} (h : MemCanonical s) : OutcomeCanonical (execScat hd p s) := by
  unfold execScat
  split
  · exact h.takeIndex
  split
  exacts [h.takeRow, h.takeIndex]

theorem execDcnt_canonical {hd p} (h : MemCanonical s) : OutcomeCanonical (execDcnt hd p s) := by
  unfold execDcnt
  split <;> exact h.fire fun _ => h.hold

theorem execTrdy_canonical {hd p} (h : MemCanonical s) : OutcomeCanonical (execTrdy hd p s) := h.fire fun _ => h.hold

theorem execColl_canonical {hd p} (h : MemCanonical s) : OutcomeCanonical (execColl hd p s) := by
  unfold execColl
  dsimp only
  split
  · exact h
  refine (h.bySeq.of_some ‹_›).fire fun _ => ?_
  have h₁ := h.bySeq.of_some ‹_›
  split
  exacts [h₁.unkeep.hold, h₁.setKept]

theorem MemCanonical.remoteAcc {st n m ea write op} (h : MemCanonical s) : MemCanonical (s.remoteAcc st n m ea write op).2 := by
  unfold State.remoteAcc
  split
  · exact h.access.of_snd ‹_›
  have h₁ := h.access.of_snd ‹_›
  repeat' split
  all_goals exact h₁

theorem MemCanonical.askRemote {g a step n k vc a6} (h : MemCanonical s) : MemCanonical (s.askRemote g a step n k vc a6) := h.sendFlit

theorem execRld_canonical {hd m} (h : MemCanonical s) : OutcomeCanonical (execRld hd m s) := by
  unfold execRld
  refine h.fire fun _ => ?_
  dsimp only
  split
  · trivial
  split
  · trivial
  split
  · exact h.remoteAcc.of_snd ‹_›
  have h₁ := h.remoteAcc.of_snd ‹_›
  split
  · trivial
  split
  · split
    exacts [trivial, h₁.issue.askRemote]
  · split
    exacts [h₁.readHome.of_snd ‹_›, (h₁.readHome.of_snd ‹_›).issue.respond]

theorem execRst_canonical {hd m} (h : MemCanonical s) : OutcomeCanonical (execRst hd m s) := by
  unfold execRst
  refine h.fire fun _ => ?_
  dsimp only
  split
  · trivial
  split
  · trivial
  split
  · exact h.remoteAcc.of_snd ‹_›
  have h₁ := h.remoteAcc.of_snd ‹_›
  split
  exacts [h₁.hold.issue, h₁.queueRmw.issue]

theorem execRatm_canonical {hd m} (h : MemCanonical s) : OutcomeCanonical (execRatm hd m s) := by
  unfold execRatm
  refine h.fire fun _ => ?_
  dsimp only
  split
  · trivial
  split
  · trivial
  split
  exacts [h.remoteAcc.of_snd ‹_›, (h.remoteAcc.of_snd ‹_›).queueRmw.issue]

theorem MemCanonical.performRemote {r} (h : MemCanonical s) : ResCanonical (s.performRemote r) := by
  unfold State.performRemote
  dsimp only
  split
  · trivial
  split
  · exact h.remoteAcc.of_snd ‹_›
  have h₁ := h.remoteAcc.of_snd ‹_›
  split
  · trivial
  split
  · split
    exacts [trivial, (h₁.readHome.of_snd ‹_›).sendRecord]
  · exact h₁.sendRecord

theorem execGlaze_canonical {hd m} (h : MemCanonical s) : OutcomeCanonical (execGlaze hd m s) := by
  unfold execGlaze
  refine h.fire fun _ => ?_
  dsimp only
  split
  exacts [trivial, h.hold.issue]

/-! ## Sys2Proof/Machine/Pages -/

theorem execSplk_canonical {hd m} (h : MemCanonical s) : OutcomeCanonical (execSplk hd m s) := by
  unfold execSplk
  refine h.fire fun _ => ?_
  dsimp only
  split
  · trivial
  split
  · trivial
  · exact (PortCanonical.got resolvePos_canonical h).of_fails ‹_›
  · exact ((PortCanonical.got resolvePos_canonical h).of_ok ‹_›).issue.respond
  have h₁ := (PortCanonical.got resolvePos_canonical h).of_ok ‹_›
  split
  · trivial
  · exact (PortCanonical.got readDesc_canonical h₁).of_fails ‹_›
  · exact ((PortCanonical.got readDesc_canonical h₁).of_ok ‹_›).issue.respond

theorem execSpap_canonical {hd m} (h : MemCanonical s) : OutcomeCanonical (execSpap hd m s) := by
  unfold execSpap
  refine h.fire fun _ => ?_
  dsimp only
  split
  · trivial
  split
  · trivial
  · exact (PortCanonical.got appendCheck_canonical h).of_fails ‹_›
  · exact ((PortCanonical.got appendCheck_canonical h).of_ok ‹_›).hold.issue

theorem execSpfk_canonical {hd p} (h : MemCanonical s) : OutcomeCanonical (execSpfk hd p s) := h.fire fun _ => h.queueRmw

theorem MemCanonical.performSpfk {r} (h : MemCanonical s) : ResCanonical (s.performSpfk r) := by
  unfold State.performSpfk
  dsimp only
  split
  · trivial
  split
  · trivial
  · exact (PortCanonical.got forkPinned_canonical h).of_fails ‹_›
  · trivial
  have h₁ := (PortCanonical.got forkPinned_canonical h).of_ok ‹_›
  split
  · trivial
  · exact (PortCanonical.got forkSeq_canonical h₁).of_fails ‹_›
  · exact (PortCanonical.got forkSeq_canonical h₁).of_ok ‹_›

theorem execSprl_canonical {hd p} (h : MemCanonical s) : OutcomeCanonical (execSprl hd p s) := h.fire fun _ => h.queueRmw

theorem MemCanonical.performSprl {r} (h : MemCanonical s) : ResCanonical (s.performSprl r) := by
  unfold State.performSprl
  dsimp only
  split
  · trivial
  split
  · trivial
  · exact (PortCanonical.got releaseSeq_canonical h).of_fails ‹_›
  · exact (PortCanonical.got releaseSeq_canonical h).of_ok ‹_›

theorem execSpwn_canonical {hd p} (h : MemCanonical s) : OutcomeCanonical (execSpwn hd p s) := h.fire fun _ => h.hold
theorem execSprg_canonical {hd p} (h : MemCanonical s) : OutcomeCanonical (execSprg hd p s) := h.fire fun _ => h.hold

/-! ## Sys2Proof/Machine/System -/

theorem MemCanonical.markRmw {n k wave} (h : MemCanonical s) : MemCanonical (s.markRmw n k wave) := by
  unfold State.markRmw
  split
  exacts [h, h.setStrand]

theorem execTrap_canonical {hd p} (h : MemCanonical s) : OutcomeCanonical (execTrap hd p s) := by
  unfold execTrap
  refine h.fire fun _ => ?_
  split <;> trivial

theorem execBkpt_canonical {hd p} (h : MemCanonical s) : OutcomeCanonical (execBkpt hd p s) := by
  unfold execBkpt
  refine h.fire fun _ => ?_
  split <;> trivial

theorem execSvc_canonical {hd p} (h : MemCanonical s) : OutcomeCanonical (execSvc hd p s) := by
  unfold execSvc
  refine h.fire fun _ => ?_
  dsimp only
  split
  exacts [trivial, h.hold]

theorem execRdsr_canonical {hd p} (h : MemCanonical s) : OutcomeCanonical (execRdsr hd p s) := by
  unfold execRdsr
  refine h.fire fun _ => ?_
  dsimp only
  split
  exacts [trivial, h.spent]

theorem execWrsr_canonical {hd p} (h : MemCanonical s) : OutcomeCanonical (execWrsr hd p s) := by
  unfold execWrsr
  refine h.fire fun _ => ?_
  dsimp only
  split
  exacts [trivial, h.hold]

theorem execCpri_canonical {hd p} (h : MemCanonical s) : OutcomeCanonical (execCpri hd p s) := h.fire fun _ => h.hold
theorem execYld_canonical {hd p} (h : MemCanonical s) : OutcomeCanonical (execYld hd p s) := h.fire fun _ => h
theorem execDone_canonical {hd p} (h : MemCanonical s) : OutcomeCanonical (execDone hd p s) := h.fire fun _ => h.hold

theorem execSteal_canonical {hd p} (h : MemCanonical s) : OutcomeCanonical (execSteal hd p s) := by
  unfold execSteal
  refine h.fire fun _ => ?_
  dsimp only
  split
  · trivial
  split
  · split
    exacts [trivial, h.markRmw]
  · split
    exacts [trivial, h.markRmw.onStrand]

theorem MemCanonical.deliverSteal {n k} (h : MemCanonical s) : MemCanonical (s.deliverSteal n k) := by
  unfold State.deliverSteal
  dsimp only
  split
  · exact h
  repeat' split
  all_goals exact h

theorem MemCanonical.setCarry {die task r v} (h : MemCanonical s) : MemCanonical (s.setCarry die task r v) := h.onStrand

theorem execSpltSteal_canonical {hd p} (h : MemCanonical s) : OutcomeCanonical (execSpltSteal hd p s) := by
  unfold execSpltSteal
  refine h.deliverSteal.fire fun _ => ?_
  dsimp only
  split
  · trivial
  split
  · trivial
  split
  exacts [h.deliverSteal, h.deliverSteal.setCarry.markRmw.onStrand.respond]

theorem execSpltClaim_canonical {hd p} (h : MemCanonical s) : OutcomeCanonical (execSpltClaim hd p s) := by
  unfold execSpltClaim
  refine h.fire fun _ => ?_
  dsimp only
  split
  · trivial
  split
  · trivial
  split
  exacts [trivial, h.setCarry.markRmw]

theorem MemCanonical.perfRead {die i} (h : MemCanonical s) : MemCanonical (s.perfRead die i).2 := h.spent

theorem execPerf_canonical {hd p} (h : MemCanonical s) : OutcomeCanonical (execPerf hd p s) := by
  unfold execPerf
  refine h.fire fun _ => ?_
  dsimp only
  split
  · trivial
  split
  exacts [h.perfRead.markRmw, h.perfRead]

theorem MemCanonical.recordBeat {st b d} (h : MemCanonical s) (e : s.recordBeat st b = some (d, t)) : MemCanonical t := by
  unfold State.recordBeat at e
  dsimp only at e
  split at e
  · cases e; exact h
  split at e
  · cases e
  split at e
  · cases e; exact (h.translate.of_snd ‹_›).spent
  split at e
  · cases e
  have h := h.translate.of_snd ‹_›
  split at e <;> cases e
  · exact (h.readHome.of_snd ‹_›).spent
  · exact h.readHome.of_snd ‹_›

theorem execFrd_canonical {hd p} (h : MemCanonical s) : OutcomeCanonical (execFrd hd p s) := by
  refine h.fire fun _ => ?_
  split
  · trivial
  split
  · exact h
  split
  · trivial
  · exact h.recordBeat ‹_›

theorem execResm_canonical {hd p} (h : MemCanonical s) : OutcomeCanonical (execResm hd p s) := h.fire fun _ => h.hold

/-! ## Sys2Proof/Machine/Strands -/

theorem MemCanonical.makeReady {die task} (h : MemCanonical s) : MemCanonical (s.makeReady die task) := h

theorem MemCanonical.queueReady {die r} (h : MemCanonical s) : MemCanonical (s.queueReady die r) := by
  unfold State.queueReady
  dsimp only
  split <;> exact h

theorem MemCanonical.decrementNow {die d amt} (h : MemCanonical s) : MemCanonical (s.decrementNow die d amt) := by
  unfold State.decrementNow
  extract_lets v set
  split
  · exact h
  split
  · have h := h.makeReady (die := die) (task := bits v 48 12)
    exact h
  · exact h

theorem MemCanonical.decrement {die d amt} (h : MemCanonical s) : MemCanonical (s.decrement die d amt) := by
  unfold State.decrement
  dsimp only
  split
  · exact h
  split
  exacts [h, h.decrementNow]

theorem MemCanonical.applyHeld {l} (h : MemCanonical s) : MemCanonical (s.applyHeld l) := by
  induction l generalizing s with
  | nil => exact h
  | cons x l ih =>
    unfold State.applyHeld
    split
    exacts [ih h, ih h.decrementNow]

theorem MemCanonical.recordFreed (h : MemCanonical s) : MemCanonical s.recordFreed :=
  .applyHeld (MemCanonical.foldl (s := { s with sch := _ }) h fun _ _ h => h.queueReady)

theorem MemCanonical.launch {die task ops priov prio} (h : MemCanonical s) : MemCanonical (s.launch die task ops priov prio) := .decrement h
theorem MemCanonical.queueHandler {die task va} (h : MemCanonical s) : MemCanonical (s.queueHandler die task va) := h.queueReady
theorem MemCanonical.purge {c k} (h : MemCanonical s) : MemCanonical (s.purge c k) := h

theorem MemCanonical.kill {die task ks} (h : MemCanonical s) : MemCanonical (s.kill die task ks) := by
  unfold State.kill
  dsimp only
  split
  · exact h
  split
  exacts [h, h.setStrand.purge]

theorem MemCanonical.renew {die task} (h : MemCanonical s) : MemCanonical (s.renew die task) := by
  unfold State.renew
  dsimp only
  split
  · exact h
  split
  exacts [h, h.spent.setStrand]

theorem MemCanonical.armStream {die wafer e d k slot task} (h : MemCanonical s) : MemCanonical (s.armStream die wafer e d k slot task) :=
  h.setStream

theorem MemCanonical.startPhase {die task j} (h : MemCanonical s) : MemCanonical (s.startPhase die task j) := by
  unfold State.startPhase
  dsimp only
  split <;> exact h

theorem MemCanonical.enterSlot {die task j cfg} (h : MemCanonical s) : MemCanonical (s.enterSlot die task j cfg) := by
  unfold State.enterSlot
  split
  · exact h
  split
  exacts [h.startPhase, h.setStrand]

theorem MemCanonical.clearTokens {c} (h : MemCanonical s) : MemCanonical (s.clearTokens c) := h
theorem MemCanonical.answerSteals {l} (h : MemCanonical s) : MemCanonical (s.answerSteals l) := h.foldl fun _ _ h₁ => h₁.respond

theorem MemCanonical.removeStrand {st ends} (h : MemCanonical s) : MemCanonical (s.removeStrand st ends) := by
  have h : MemCanonical ((s.purge st.has fun _ => true).clearTokens st.has) := h.purge.clearTokens
  exact MemCanonical.foldl (s := { (s.purge st.has fun _ => true).clearTokens st.has with mem := _ }) h fun _ _ h => h.setCtx

theorem MemCanonical.dropFolds {die task} (h : MemCanonical s) : MemCanonical (s.dropFolds die task) := h

theorem MemCanonical.endStrand {die task dc} (h : MemCanonical s) : MemCanonical (s.endStrand die task dc) := by
  unfold State.endStrand
  dsimp only
  split
  · exact h
  split
  exacts [h.removeStrand.answerSteals.dropFolds.decrement, h.removeStrand.answerSteals.dropFolds]

/-! ## Sys2Proof/Machine/FaultOps -/

theorem MemCanonical.partWrite {part va bytes} (h : MemCanonical s) : MemCanonical (s.partWrite part va bytes) := by
  unfold State.partWrite
  split
  exacts [h, h.writeHome]

theorem MemCanonical.writeRecord {r rerun} (h : MemCanonical s) : MemCanonical (s.writeRecord r rerun) := by
  unfold State.writeRecord
  dsimp only
  split
  exacts [.queueHandler h.partWrite, h]

theorem MemCanonical.closeRecord {o} (h : MemCanonical s) : MemCanonical (s.closeRecord o) := by
  unfold State.closeRecord
  dsimp only
  split
  · split
    exacts [.partWrite h, h]
  · exact h

theorem MemCanonical.clearFault {n k} (h : MemCanonical s) : MemCanonical (s.clearFault n k) := h
theorem MemCanonical.unfreeze {die task} (h : MemCanonical s) : MemCanonical (s.unfreeze die task) := h.onStrand

theorem MemCanonical.skipNode {n k slots sub} (h : MemCanonical s) : MemCanonical (s.skipNode n k slots sub) := by
  unfold State.skipNode
  dsimp only
  split
  · refine (MemCanonical.consumeAll ?_).markMsq
    split
    · refine MemCanonical.unkeep ?_
      split
      exacts [h.setStrand, h]
    · split
      exacts [h.setStrand, h]
  · refine (MemCanonical.consumeAll ?_).markMsq.emit
    split
    · refine MemCanonical.unkeep ?_
      split
      exacts [h.setStrand, h]
    · split
      exacts [h.setStrand, h]

theorem MemCanonical.rereadBeat {st b} (h : MemCanonical s) : MemCanonical (s.rereadBeat st b).2 := by
  unfold State.rereadBeat
  dsimp only
  split
  exacts [h.engineRead.of_ok ‹_›, h.engineRead.of_fails ‹_›, h]

theorem MemCanonical.rerunInst {die task n k} (h : MemCanonical s) : MemCanonical (s.rerunInst die task n k) := by
  unfold State.rerunInst
  split
  · exact h
  next st _ =>
  have h : MemCanonical ((s.kill die task ((st.withChildren 8 [k]).filter fun j => j != k)).purge (fun x => x = n.ctx) fun j => j = k) :=
    h.kill.purge
  dsimp only
  split
  · exact h
  · exact .foldl (.onStrand (.foldl_snd h fun _ _ h => h.rereadBeat)) fun _ _ h => h.setDown

theorem MemCanonical.setQueue {die q l} (h : MemCanonical s) : MemCanonical (s.setQueue die q l) := h
theorem MemCanonical.fenceDown {p} (h : MemCanonical s) : MemCanonical (s.fenceDown p) := h.foldl fun _ _ h₁ => h₁.sendFlit

theorem MemCanonical.fenceUp {p} (h : MemCanonical s) : MemCanonical (s.fenceUp p) := by
  unfold State.fenceUp
  split
  exacts [h.sendFlit, h.fenceDown]

theorem MemCanonical.raiseFence {but} (h : MemCanonical s) : MemCanonical (s.raiseFence but) := by
  unfold State.raiseFence
  dsimp only
  split
  exacts [h, .foldl h fun _ _ h₁ => h₁.fenceUp]

theorem MemCanonical.passFenceFlit {lg} (h : MemCanonical s) : MemCanonical (s.passFenceFlit lg) := by
  unfold State.passFenceFlit
  dsimp only
  split
  exacts [h.raiseFence.fenceDown, h.raiseFence]

theorem MemCanonical.declareFailed {peer} (h : MemCanonical s) : MemCanonical (s.declareFailed peer) := .raiseFence h
theorem MemCanonical.terminate {die task} (h : MemCanonical s) : MemCanonical (s.terminate die task) := h.endStrand

theorem MemCanonical.dropSaved {v} (h : MemCanonical s) : MemCanonical (s.dropSaved v) := by
  unfold State.dropSaved
  extract_lets st s₁ end1
  obtain ⟨hp, hb, hv⟩ : MemCanonical s₁ := h.purge.dropFolds
  exact .answerSteals ⟨hp, hb, savedCanonical_filter _ hv⟩

/-- Each subject's ACT is an operation that keeps memory, or a change of saved strands that leaves their wafers alone. -/
theorem MemCanonical.act {o a sub} (h : MemCanonical s) : MemCanonical (s.act o a sub) := by
  unfold State.act
  split
  · split
    · exact h.terminate
    extract_lets slots s₁
    have h₁ : MemCanonical s₁ := h.clearFault.unfreeze
    split
    · exact h₁
    split
    exacts [h₁.rerunInst, h₁.skipNode]
  · split
    exacts [h.terminate, h.onStrand]
  · split
    exacts [h.terminate, h.onStrand]
  · extract_lets mine
    split
    · obtain ⟨hp, hb, hv⟩ := h
      exact ⟨hp, hb, savedCanonical_map hv fun v => by split <;> rfl⟩
    · exact h.foldl fun _ _ h => h.dropSaved
  · split
    exacts [h.terminate, h]
  · extract_lets x
    split
    · exact h
    extract_lets writes
    split
    · exact h.setStream
    split <;> exact h.setStream
  · split
    · exact h.setQueue
    split <;> exact h.setQueue
  · extract_lets s₁ mem pages s₂
    have h₁ : MemCanonical s₁ := by
      unfold s₁
      split
      · exact h
      split
      exacts [h.unpin, h]
    have h₂ : MemCanonical s₂ := h₁
    split
    exacts [h₂.terminate, h₂]
  · split
    exacts [h.declareFailed, h]
  · exact h
  · exact h

theorem MemCanonical.actOn {o a sub} (h : MemCanonical s) : MemCanonical (s.actOn o a sub) := by
  unfold State.actOn
  split
  · exact h.act
  split
  · exact h.dropSaved
  · obtain ⟨hp, hb, hv⟩ := h
    exact ⟨hp, hb, savedCanonical_map hv fun v => by split <;> rfl⟩

theorem MemCanonical.resume {o a sub} (h : MemCanonical s) : MemCanonical (s.resume o a sub) := by
  unfold State.resume
  dsimp only
  split
  · exact h
  split
  exacts [h, h.closeRecord.actOn]

/-! ## Sys2Proof/Machine/HostEvents -/

theorem MemCanonical.setTstate {p v} (h : MemCanonical s) : MemCanonical (s.setTstate p v) := h

theorem MemCanonical.applyLaunch {x} (h : MemCanonical s) : MemCanonical (s.applyLaunch x) := by
  unfold State.applyLaunch
  split
  exacts [h.launch, h]

theorem MemCanonical.countHostError (h : MemCanonical s) : MemCanonical s.countHostError := h
theorem MemCanonical.invalidateTlb {die} (h : MemCanonical s) : MemCanonical (s.invalidateTlb die) := h
theorem MemCanonical.addFreePage {v} (h : MemCanonical s) : MemCanonical (s.addFreePage v) := h
theorem MemCanonical.hostResume {die v} (h : MemCanonical s) : MemCanonical (s.hostResume die v) := h.resume

theorem MemCanonical.writeBinding {lg v} (h : MemCanonical s) : MemCanonical (s.writeBinding lg v) := by
  unfold State.writeBinding
  dsimp only
  split
  · exact h
  · split <;> exact h

theorem MemCanonical.lineCopy {line} (h : MemCanonical s) : MemCanonical (s.lineCopy line).2 := by
  unfold State.lineCopy
  split <;> exact h.wholeLine.of_snd ‹_›

theorem MemCanonical.copyToBuddy {lines} (h : MemCanonical s) : MemCanonical (s.copyToBuddy lines) := by
  unfold State.copyToBuddy
  dsimp only
  split
  exacts [h, .foldl (.foldl h fun _ _ h₁ => h₁.lineCopy.sendFlit) fun _ _ h₁ => h₁.sendFlit]

theorem MemCanonical.writeRecovery {v} (h : MemCanonical s) : MemCanonical (s.writeRecovery v) := by
  unfold State.writeRecovery
  dsimp only
  split
  exacts [.copyToBuddy h, h]

theorem MemCanonical.writeDieReg {die off v ide} (h : MemCanonical s) : MemCanonical (s.writeDieReg die off v ide) := by
  unfold State.writeDieReg
  dsimp only
  split
  · split <;> exact h
  split
  · exact h
  split
  · exact h.invalidateTlb
  split
  · exact h
  split
  · exact h
  split
  · exact h
  split
  · exact h
  split
  exacts [h.hostResume, h]

theorem MemCanonical.writeKey {k i v ide} (h : MemCanonical s) : MemCanonical (s.writeKey k i v ide) := by
  unfold State.writeKey
  dsimp only
  split
  · exact h
  · split <;> exact h

theorem MemCanonical.writePool {i v} (h : MemCanonical s) : MemCanonical (s.writePool i v) := by
  unfold State.writePool
  dsimp only
  split
  exacts [h, h, h, h, h, h.addFreePage, h, h]

theorem MemCanonical.writeModuleReg {off v ide} (h : MemCanonical s) : MemCanonical (s.writeModuleReg off v ide) := by
  unfold State.writeModuleReg
  dsimp only
  split
  · split <;> exact h
  split
  · exact h.writeKey
  split
  · split <;> exact h
  split
  · split
    exacts [h.writeBinding, h]
  · split
    · exact h.setDomain
    split
    · exact h.writePool
    split
    · exact h
    split
    · exact h.writeRecovery
    · split <;> exact h

theorem MemCanonical.writeBar {off v ide} (h : MemCanonical s) : MemCanonical (s.writeBar off v ide) := by
  unfold State.writeBar
  split
  · exact h.countHostError
  split
  · exact h.writeDieReg
  split
  exacts [h.writeModuleReg, h]

theorem MemCanonical.applyWrite {a} (h : MemCanonical s) : MemCanonical (s.applyWrite a) := by
  unfold State.applyWrite
  dsimp only
  split
  exacts [h.applyLaunch, h.writeBar, h.countHostError, h, h, h]

theorem MemCanonical.portWrites {l kept} (h : MemCanonical s) : MemCanonical (s.portWrites l kept) := by
  induction l generalizing s kept with
  | nil => exact h
  | cons x l ih =>
    unfold State.portWrites
    split
    exacts [ih h, ih h.applyWrite]

theorem MemCanonical.retryPorts (h : MemCanonical s) : MemCanonical s.retryPorts := h.portWrites
theorem MemCanonical.post {port w} (h : MemCanonical s) : MemCanonical (s.post port w) := h.portWrites
theorem MemCanonical.postAny {w} (h : MemCanonical s) : MemCanonical (s.postAny w) := h.spent.post
theorem MemCanonical.postBar {port off v ide} (h : MemCanonical s) : OutcomeCanonical (s.postBar port off v ide) := h.post

theorem execTlbInvalidation_canonical {die} (h : MemCanonical s) : OutcomeCanonical (execTlbInvalidation die s) := by
  unfold execTlbInvalidation
  split
  exacts [h, h.postBar]

theorem execHostResume_canonical {die v} (h : MemCanonical s) : OutcomeCanonical (execHostResume die v s) := by
  unfold execHostResume
  split
  exacts [h, h.postBar]

theorem execBindingWrite_canonical {lg tagHalf v} (h : MemCanonical s) : OutcomeCanonical (execBindingWrite lg tagHalf v s) := by
  unfold execBindingWrite
  split
  exacts [h, h.postBar]

theorem MemCanonical.tdiFault {p code} (h : MemCanonical s) : MemCanonical (s.tdiFault p code) :=
  .report (show MemCanonical (s.setTstate p 3) from h.setTstate)

theorem execTdispRequest_canonical {p r} (h : MemCanonical s) : OutcomeCanonical (execTdispRequest p r s) := by
  unfold execTdispRequest
  split
  exacts [h, h.setTstate, h.setTstate, h.tdiFault]

theorem MemCanonical.clearPart {p} (h : MemCanonical s) : MemCanonical (s.clearPart p) := by
  unfold State.clearPart
  extract_lets s₁ s₂ own c s₃
  have h₁ : MemCanonical s₁ := h.foldl fun _ _ h => h.removeStrand
  have h₂ : MemCanonical s₂ := h₁.foldl fun _ _ h => h.dropSaved
  obtain ⟨hp, hb, hv⟩ : MemCanonical s₃ := h₂.clearTokens
  exact ⟨hp, wf_filter _ hb, hv⟩

theorem execTdispStop_canonical {p} (h : MemCanonical s) : OutcomeCanonical (execTdispStop p s) := by
  unfold execTdispStop
  split
  exacts [h, h.setTstate.clearPart]

theorem execIdeIntegrityFailure_canonical {p} (h : MemCanonical s) : OutcomeCanonical (execIdeIntegrityFailure p s) := by
  unfold execIdeIntegrityFailure
  split
  exacts [h, h.tdiFault]

theorem MemCanonical.afterReset (_h : MemCanonical s) : MemCanonical s.afterReset := MemCanonical.reset

theorem execReadinessFlagSet_canonical {b} (h : MemCanonical s) : OutcomeCanonical (execReadinessFlagSet b s) := by
  unfold execReadinessFlagSet
  dsimp only
  split
  exacts [h, .retryPorts h]

/-! ## Sys2Proof/Machine/Attest -/

theorem MemCanonical.answer {q stage v} (h : MemCanonical s) : MemCanonical (s.answer q stage v) := h
theorem MemCanonical.reply {r q} (h : MemCanonical s) : MemCanonical (s.reply r q) := h.answer

theorem MemCanonical.ask {r q} (h : MemCanonical s) : MemCanonical (s.ask r q) := by
  unfold State.ask
  dsimp only
  split
  · exact h
  split
  exacts [h.reply, h]

theorem MemCanonical.answerAsks (h : MemCanonical s) : MemCanonical s.answerAsks := by
  unfold State.answerAsks
  dsimp only
  split
  exacts [h, .foldl h fun _ _ h₁ => h₁.reply]

/-! ## Sys2Proof/Machine/Fabric -/

theorem MemCanonical.passed {me} (h : MemCanonical s) : MemCanonical (s.passed me) := by
  unfold State.passed
  dsimp only
  split <;> exact h

theorem MemCanonical.leaveLatch {i} (h : MemCanonical s) : MemCanonical (s.leaveLatch i) := by
  unfold State.leaveLatch
  split
  · exact h
  split
  · exact h
  extract_lets j fab rest latch s₁ s₂
  have h₁ : MemCanonical s₁ := MemCanonical.spent h
  have h₂ : MemCanonical s₂ := by
    unfold s₂
    split
    exacts [h₁.passed, h₁]
  split
  · exact h
  extract_lets tk near
  split
  · split
    exacts [h.spent, h₂]
  · split
    exacts [h.spent, h₂]

theorem MemCanonical.reachCell {i} (h : MemCanonical s) : MemCanonical (s.reachCell i) := by
  unfold State.reachCell
  dsimp only
  split
  · exact h
  · split <;> exact h

theorem MemCanonical.reachAll (h : MemCanonical s) : MemCanonical s.reachAll := h.foldl fun _ _ h₁ => h₁.reachCell

theorem MemCanonical.writeFrame {tk} (h : MemCanonical s) : MemCanonical (s.writeFrame tk) := by
  unfold State.writeFrame
  split
  exacts [h, h.spent.writeBank]

theorem MemCanonical.wadvPredicate {x} (h : MemCanonical s) : MemCanonical (s.wadvPredicate x) := by
  unfold State.wadvPredicate
  split
  exacts [h.setCont, h]

theorem MemCanonical.joinStore {x} (h : MemCanonical s) : MemCanonical (s.joinStore x) := h

theorem MemCanonical.enterStore {i} (h : MemCanonical s) : MemCanonical (s.enterStore i) := by
  unfold State.enterStore
  dsimp only
  split
  · exact h
  split
  · exact h
  split
  · exact .countBeat h
  split
  · exact h
  split
  · repeat' split
    all_goals exact h
  · split
    exacts [h, .wadvPredicate (.writeFrame (.joinStore h))]

theorem execTokenArrival_canonical {site n} (h : MemCanonical s) : OutcomeCanonical (execTokenArrival site n s) := by
  unfold execTokenArrival
  split
  exacts [h.leaveLatch, h.reachCell, h.enterStore]

theorem MemCanonical.latchHeader {x} (h : MemCanonical s) : MemCanonical (s.latchHeader x) := h

theorem execHeaderBeatLatch_canonical {n} (h : MemCanonical s) : OutcomeCanonical (execHeaderBeatLatch n s) := by
  unfold execHeaderBeatLatch
  dsimp only
  split
  · exact h
  split
  · exact h
  split
  exacts [.countBeat h, .latchHeader (.countBeat h)]

theorem MemCanonical.writePrio {c p all} (h : MemCanonical s) : MemCanonical (s.writePrio c p all) := h

theorem execTokenAgeTick_canonical (h : MemCanonical s) : OutcomeCanonical (execTokenAgeTick s) := by
  unfold execTokenAgeTick
  dsimp only
  split <;> exact h

theorem execStarvationForce_canonical {die wafer cell} (h : MemCanonical s) : OutcomeCanonical (execStarvationForce die wafer cell s) := by
  unfold execStarvationForce
  dsimp only
  split
  · exact h
  · split <;> exact h

theorem MemCanonical.dropStale {die task} (h : MemCanonical s) : MemCanonical (s.dropStale die task) := by
  unfold State.dropStale
  dsimp only
  split
  exacts [h, .foldl h fun _ _ h₁ => h₁.countBeat]

/-! ## Sys2Proof/Machine/Matrix -/

theorem MemCanonical.setTile {n p} (h : MemCanonical s) : MemCanonical (s.setTile n p) := h
theorem execMlds_canonical {hd a} (h : MemCanonical s) : OutcomeCanonical (execMlds hd a s) := h.fire fun _ => h.queueRmw

theorem MemCanonical.performMlds {r} (h : MemCanonical s) : ResCanonical (s.performMlds r) := by
  unfold State.performMlds
  dsimp only
  split
  · trivial
  split
  exacts [h, h.setTile]

theorem execMswp_canonical {hd p} (h : MemCanonical s) : OutcomeCanonical (execMswp hd p s) := h.fire fun _ => h.queueRmw

theorem MemCanonical.performMswp {r} (h : MemCanonical s) : ResCanonical (s.performMswp r) := by
  unfold State.performMswp
  dsimp only
  split
  exacts [trivial, h.setTile]

theorem execMctl_canonical {hd p} (h : MemCanonical s) : OutcomeCanonical (execMctl hd p s) := h.fire fun _ => h.queueRmw

theorem MemCanonical.performMctl {r} (h : MemCanonical s) : ResCanonical (s.performMctl r) := by
  unfold State.performMctl
  dsimp only
  split
  exacts [trivial, h.setTile]

theorem execMclr_canonical {hd p} (h : MemCanonical s) : OutcomeCanonical (execMclr hd p s) := h.fire fun _ => h.queueRmw

theorem MemCanonical.performMclr {r} (h : MemCanonical s) : ResCanonical (s.performMclr r) := by
  unfold State.performMclr
  dsimp only
  split
  exacts [trivial, h.setTile]

theorem execVdclSystolic_canonical {hd p} (h : MemCanonical s) : OutcomeCanonical (execVdclSystolic hd p s) := h.fire fun _ => h.queueRmw

theorem MemCanonical.performVdcl {r} (h : MemCanonical s) : ResCanonical (s.performVdcl r) := by
  unfold State.performVdcl
  dsimp only
  split
  exacts [trivial, h.setTile]

theorem MemCanonical.putTag {n tile q} (h : MemCanonical s) : MemCanonical (s.putTag n tile q) := h.setTile

theorem MemCanonical.nextStep {n k x} (h : MemCanonical s) : MemCanonical (s.nextStep n k x) := by
  unfold State.nextStep
  split
  exacts [h, h.bySeq.getD h]

theorem MemCanonical.stopWeights {n k} (h : MemCanonical s) : MemCanonical (s.stopWeights n k) := by
  unfold State.stopWeights
  dsimp only
  split <;> exact h

theorem execMfir_canonical {hd a} (h : MemCanonical s) : OutcomeCanonical (execMfir hd a s) := by
  unfold execMfir
  refine MemCanonical.fire ?_ fun _ => ?_
  · split
    exacts [h, h.nextStep]
  · dsimp only
    split
    · split
      exacts [trivial, h.putTag]
    · split
      · trivial
      split
      exacts [trivial, h.nextStep.spent.putTag.stopWeights]

theorem MemCanonical.drainOuts {a ts x f c} (h : MemCanonical s) : MemCanonical (s.drainOuts a ts x f c).2 := by
  induction f generalizing s c with
  | zero => exact h
  | succ f ih => exact ih h.wrote

theorem execMdrn_canonical {hd a} (h : MemCanonical s) : OutcomeCanonical (execMdrn hd a s) := by
  unfold execMdrn
  refine h.fire fun _ => ?_
  split
  · trivial
  split
  · trivial
  split
  · trivial
  split
  · trivial
  split
  · trivial
  split
  exact (h.drainOuts.of_snd ‹_›).spent.putTag

/-! ## Sys2Proof/Machine/Verdict -/

theorem execVdclDeclare_canonical {hd p} (h : MemCanonical s) : OutcomeCanonical (execVdclDeclare hd p s) := h.fire fun _ => h

theorem MemCanonical.vaccBeat {a v ts} (h : MemCanonical s) : ResCanonical (s.vaccBeat a v ts) := by
  unfold State.vaccBeat
  dsimp only
  split
  · split
    exacts [h.unkeep, h.setKept]
  · split
    · exact h.unkeep
    · split <;> exact h.setKept

theorem MemCanonical.nextBeats {a n k q} (h : MemCanonical s) : OptionCanonical (s.nextBeats a n k q) := by
  unfold State.nextBeats
  cases e : s.bySeq n k 0 (BitVec.ofNat 16 q) with
  | none => trivial
  | some t =>
    have h := h.bySeq.of_some e
    dsimp only [Option.bind]
    split
    exacts [h, h.bySeq]

theorem execVacc_canonical {hd a} (h : MemCanonical s) : OutcomeCanonical (execVacc hd a s) := by
  unfold execVacc
  dsimp only
  split
  · split
    · exact h
    refine (h.nextBeats.of_some ‹_›).fire fun _ => ?_
    have h₁ := h.nextBeats.of_some ‹_›
    split
    exacts [trivial, h₁.vaccBeat]
  · split
    · exact h
    have h₁ := h.nextBeats.of_some ‹_›
    split <;> exact h₁.fire fun _ => h₁.vaccBeat

theorem execBnds_canonical {hd a} (h : MemCanonical s) : OutcomeCanonical (execBnds hd a s) := h.fire fun _ => h
theorem MemCanonical.queueOffer {die wafer q v} (h : MemCanonical s) : MemCanonical (s.queueOffer die wafer q v) := h

theorem MemCanonical.topkTake {a l l'} (h : MemCanonical s) : MemCanonical (s.topkTake a l l').2 := by
  induction l' generalizing s l with
  | nil => exact h
  | cons x l' ih =>
    unfold State.topkTake
    dsimp only
    split
    exacts [ih h.queueOffer.spent, ih h]

theorem execTopk_canonical {hd a} (h : MemCanonical s) : OutcomeCanonical (execTopk hd a s) := by
  unfold execTopk
  dsimp only
  split
  · exact h
  refine (h.bySeq.of_some ‹_›).fire fun _ => ?_
  have h₁ := h.bySeq.of_some ‹_›
  split
  exacts [h₁.topkTake.unkeep, h₁.topkTake.setKept]

theorem execThrp_canonical {hd p} (h : MemCanonical s) : OutcomeCanonical (execThrp hd p s) := by
  unfold execThrp
  refine h.fire fun _ => ?_
  dsimp only
  split
  · trivial
  split
  exacts [trivial, h.hold.spent]

theorem execVpik_canonical {hd a} (h : MemCanonical s) : OutcomeCanonical (execVpik hd a s) := by
  unfold execVpik
  exact h.fire fun _ => h.wrote

theorem execIscr_canonical {hd a} (h : MemCanonical s) : OutcomeCanonical (execIscr hd a s) := by
  unfold execIscr
  refine h.fire fun _ => ?_
  dsimp only
  exact h

/-! ## Sys2Proof/Machine/Match -/

theorem MemCanonical.setStore {key p} (h : MemCanonical s) : MemCanonical (s.setStore key p) := h
theorem MemCanonical.holdPort {c ts op} (h : MemCanonical s) : ResCanonical (s.holdPort c ts op) := h.hold

theorem execKdef_canonical {hd c} (h : MemCanonical s) : OutcomeCanonical (execKdef hd c s) := by
  unfold execKdef
  refine h.fire fun _ => ?_
  split
  exacts [trivial, h.holdPort]

theorem MemCanonical.applyKdef {key kvc b} (h : MemCanonical s) : MemCanonical (s.applyKdef key kvc b) := h.setStore
theorem MemCanonical.nextKeyBeat {n k key} (h : MemCanonical s) : OptionCanonical (s.nextKeyBeat n k key) := h.bySeq

theorem MemCanonical.collector {hd key rest comp early late last} (h : MemCanonical s)
    (hl : ∀ t a b, MemCanonical t → ResCanonical (last t a b)) :
    OutcomeCanonical (s.collector hd key rest comp early late last) := by
  unfold State.collector
  dsimp only
  split
  · exact h
  next t e =>
  have h : MemCanonical t := h.nextKeyBeat.of_some e
  split
  · exact h
  split
  · exact h.fire fun _ => h.unkeep
  split
  · refine h.fire fun _ => ?_
    split
    exacts [trivial, hl _ _ _ h]
  · refine h.fire fun _ => ?_
    split
    exacts [trivial, h.setKept]

theorem MemCanonical.reserve {key} (h : MemCanonical s) : MemCanonical (s.reserve key) := h

theorem execKput_canonical {hd c} (h : MemCanonical s) : OutcomeCanonical (execKput hd c s) := by
  unfold execKput
  exact h.collector fun _ _ _ h₁ => h₁.unkeep.reserve.holdPort

theorem MemCanonical.addRecord {key r} (h : MemCanonical s) : MemCanonical (s.addRecord key r) := h.setStore.setStore

theorem execKdel_canonical {hd c} (h : MemCanonical s) : OutcomeCanonical (execKdel hd c s) := by
  unfold execKdel
  refine h.fire fun _ => ?_
  split
  exacts [trivial, h.reserve.holdPort]

theorem execKgen_canonical {hd c} (h : MemCanonical s) : OutcomeCanonical (execKgen hd c s) := by
  unfold execKgen
  refine h.fire fun _ => ?_
  split
  exacts [trivial, h.holdPort]

theorem execKsid_canonical {hd c} (h : MemCanonical s) : OutcomeCanonical (execKsid hd c s) := by
  unfold execKsid
  refine h.fire fun _ => ?_
  split
  exacts [trivial, h.holdPort]

theorem MemCanonical.applyKgen {key} (h : MemCanonical s) : MemCanonical (s.applyKgen key) := by
  unfold State.applyKgen
  dsimp only
  split
  exacts [h.setStore.setStore, h.setStore.setStore.setStore]

theorem execKflt_canonical {hd c} (h : MemCanonical s) : OutcomeCanonical (execKflt hd c s) := by
  unfold execKflt
  refine h.fire fun _ => ?_
  dsimp only
  split
  exacts [trivial, h.hold]

theorem MemCanonical.sequenceLen {sq} (h : MemCanonical s) : MemCanonical (s.sequenceLen sq).2 := by
  unfold State.sequenceLen
  split <;> exact (PortCanonical.run' readSte_canonical h).of_snd ‹_›

theorem MemCanonical.askPort {key n k kvc op loc} (h : MemCanonical s) : MemCanonical (s.askPort key n k kvc op loc) := by
  unfold State.askPort
  dsimp only
  exact h

theorem execKcnt_canonical {hd c} (h : MemCanonical s) : OutcomeCanonical (execKcnt hd c s) := by
  unfold execKcnt
  refine h.fire fun _ => ?_
  split
  exacts [trivial, h.askPort]

theorem MemCanonical.sendQuery {c hd key ops} (h : MemCanonical s) : MemCanonical (s.sendQuery c hd key ops) := by
  unfold State.sendQuery
  dsimp only
  split
  exacts [h, h.askPort]

theorem execKqry_canonical {a0 c} (h : MemCanonical s) : OutcomeCanonical (execKqry a0 c s) := by
  unfold execKqry
  refine h.collector fun t beats rest h => ?_
  dsimp only
  split
  · next e =>
    split at e
    exacts [h.sequenceLen.of_snd e, h.of_snd (p := (_, _)) e]
  · next u e =>
    have h : MemCanonical u := by
      split at e
      exacts [h.sequenceLen.of_snd e, h.of_snd (p := (_, _)) e]
    exact h.unkeep.sendQuery

theorem MemCanonical.performKqry {r} (h : MemCanonical s) : ResCanonical (s.performKqry r) := h.askPort

theorem scanBeat_canonical {page owner hg j npos va} : PortCanonical (scanBeat page owner hg j npos va) := by
  unfold scanBeat
  refine .bind portAcc_canonical fun _ => .getState_bind fun _ h => ?_
  split
  · exact .failPort
  refine .bind (.putState (h.readHome.of_snd ‹_›)) fun _ => ?_
  split
  exacts [.bind regenerate_canonical fun _ => .failPort, .pure]

theorem slotInfo_canonical {q sq va beat} (hb : ∀ va, PortCanonical (beat va)) : PortCanonical (slotInfo q sq va beat) := by
  refine .bind (hb _) fun _ => .bind ?_ fun _ => .pure
  split
  exacts [.pure, hb _]

theorem peekBeat_canonical {va} : PortCanonical (peekBeat va) := .bind portAcc_canonical fun _ => .getState_bind fun _ _ => .pure

theorem residentCand_canonical {key q r filt x} : CandCanonical (s.residentCand key q r filt x) :=
  ⟨fun _ => .pure, .pure, .pure⟩

/-- An operation of the sequence port that keeps memory canonical and answers a candidate whose reads do. -/
def PortCandCanonical (p : Port Cand) : Prop :=
  ∀ step s, MemCanonical s → MemCanonical (p step s).2 ∧ ∀ c, (p step s).1 = .ok c → CandCanonical c

theorem PortCandCanonical.pure {c : Cand} (hc : CandCanonical c) : PortCandCanonical (pure c) :=
  fun _ _ h => ⟨h, fun _ e => by cases e; exact hc⟩

theorem PortCandCanonical.failPort {x : Exn} : PortCandCanonical (failPort x) :=
  fun _ _ h => ⟨h, fun _ e => by cases e⟩

theorem PortCandCanonical.bind {α : Type} {p : Port α} {f : α → Port Cand} (hp : PortCanonical p)
    (hf : ∀ a, PortCandCanonical (f a)) : PortCandCanonical (p >>= f) := by
  intro step s h
  rw [Port.bind_apply]
  have h := hp step s h
  split
  · exact hf _ _ _ (h.of_snd ‹_›)
  · exact ⟨h.of_snd ‹_›, fun _ e => by cases e⟩

theorem PortCanonical.bindCand {β : Type} {p : Port Cand} {f : Cand → Port β} (hp : PortCandCanonical p)
    (hf : ∀ c, CandCanonical c → PortCanonical (f c)) : PortCanonical (p >>= f) := by
  intro step s h
  rw [Port.bind_apply]
  have ⟨h, hc⟩ := hp step s h
  split
  next c _ e => exact hf c (hc c (by rw [e])) _ _ (h.of_snd e)
  · exact h.of_snd ‹_›

theorem pagedCand_canonical {key pos q r filt} : PortCandCanonical (pagedCand key pos q r filt) := by
  refine .bind .getState fun _ => .bind resolvePos_canonical fun x => ?_
  split
  · exact .pure ⟨fun _ => .pure, .pure, .pure⟩
  · refine .bind readDesc_canonical fun _ => ?_
    split
    · exact .failPort
    · have data : ∀ {page owner hg j npos} va, PortCanonical (do let b ← scanBeat page owner hg j npos va; pure b.beat) :=
        fun _ => .bind scanBeat_canonical fun _ => .pure
      exact .pure ⟨fun _ => data _, .bind (slotInfo_canonical data) fun _ => .bind .getState fun _ => .pure,
        .bind .getState fun _ => scanBeat_canonical⟩

theorem candAt_canonical {key i q r filt} : PortCandCanonical (candAt key i q r filt) := by
  refine .bind .getState fun _ => ?_
  dsimp only
  split
  exacts [pagedCand_canonical, .pure residentCand_canonical]

theorem scanStep_canonical {q key r filt p} : PortCanonical (Scan.step q key r filt p) := by
  refine .bindCand candAt_canonical fun c hc => .bind .getState fun _ => ?_
  dsimp only
  split
  · refine .bind (hc.read _) fun _ => ?_
    split
    · exact .failPort
    split
    · exact .failPort
    · exact .pure
    · split
      exacts [.bind hc.rcd fun _ => .pure, .pure]
  · exact .pure

theorem MemCanonical.stepLife {key p} (h : MemCanonical s) : MemCanonical (s.stepLife key p) := by
  unfold State.stepLife
  dsimp only
  split
  · exact h.setStore
  split
  exacts [h.setStore, h]

theorem MemCanonical.stepLives {key used} (h : MemCanonical s) : MemCanonical (s.stepLives key used) := by
  unfold State.stepLives
  dsimp only
  split
  exacts [h, h.foldl fun _ _ h₁ => h₁.stepLife]

theorem MemCanonical.scanAnswer {mode t feed taken q r filt p} (_h : MemCanonical s) :
    PortCanonical (s.scanAnswer mode t feed taken q r filt p) := by
  unfold State.scanAnswer
  extract_lets key d n tok best read
  have hread : ∀ x, PortCanonical (read x) := fun x => .bindCand candAt_canonical fun _ hc => hc.value
  split
  · exact .pure
  · refine .bind (α := List Stored) ?_ fun vals => ?_
    · split
      exacts [mapPort_canonical hread _, .pure]
    · split
      · split
        exacts [.failPort, .pure]
      · exact .pure

theorem MemCanonical.portFault {n k ops v} (h : MemCanonical s) : MemCanonical (s.portFault n k ops v) := h.restore.takeFault

theorem MemCanonical.answerQuery {r mode a} (h : MemCanonical s) : MemCanonical (s.answerQuery r mode a) := by
  unfold State.answerQuery
  refine MemCanonical.respond ?_
  dsimp only
  split
  · split
    exacts [h.stepLives.onStrand, h.stepLives]
  · refine MemCanonical.setStore ?_
    split
    exacts [h.stepLives.onStrand, h.stepLives]

theorem MemCanonical.applyKqry {r mode score k filt ops qw kw ta tb} (h : MemCanonical s) :
    MemCanonical (s.applyKqry r mode score k filt ops qw kw ta tb) := by
  unfold State.applyKqry
  extract_lets key t cursor feed fails p codes
  have hfails : ∀ (t : State) (x : Exn), MemCanonical t → MemCanonical (fails t x) := fun t x ht => by
    unfold fails
    split
    exacts [ht.respond, ht.portFault]
  split
  · exact h.portFault
  · exact h.portFault
  · exact h.portFault
  · split
    · split
      · split
        exacts [h, hfails _ _ ((PortCanonical.run' scanStep_canonical h).of_snd ‹_›)]
      · next e =>
        have h := MemCanonical.of_snd (PortCanonical.run' scanStep_canonical h) e
        exact h
    · split
      · split
        exacts [h, hfails _ _ ((PortCanonical.run' h.scanAnswer h).of_snd ‹_›)]
      · exact ((PortCanonical.run' h.scanAnswer h).of_snd ‹_›).answerQuery

theorem MemCanonical.portFailure {r cause code detail} (h : MemCanonical s) : MemCanonical (s.portFailure r cause code detail) := h.report
theorem MemCanonical.unreserve {r} (h : MemCanonical s) : MemCanonical (s.unreserve r) := h

theorem MemCanonical.storeOp {r codes f} (h : MemCanonical s) (hf : MemCanonical (f s)) :
    MemCanonical (s.storeOp r codes f) := by
  unfold State.storeOp
  split
  exacts [h.portFailure, hf]

theorem MemCanonical.foldStore {key} (h : MemCanonical s) : MemCanonical (s.foldStore key) := by
  unfold State.foldStore
  refine MemCanonical.setStore ?_
  dsimp only
  split
  exacts [h, h.setStore]

theorem MemCanonical.askFolds {st} (h : MemCanonical s) : MemCanonical (s.askFolds st) := h.foldl fun _ _ h₁ => h₁.setStore.askPort

theorem MemCanonical.applyPort {r} (h : MemCanonical s) : MemCanonical (s.applyPort r) := by
  unfold State.applyPort
  dsimp only
  split
  · split
    exacts [h.portFailure, h.storeOp h.applyKdef]
  · exact h.unreserve.storeOp h.unreserve.addRecord
  · exact h.unreserve.storeOp h.unreserve.addRecord
  · exact h.storeOp h.applyKgen
  · exact h.storeOp h.setStore
  · exact h.foldStore
  · split
    exacts [h.portFault, h.respond]
  · exact h.applyKqry

theorem MemCanonical.mergeFire {hd body} (h : MemCanonical s) (hb : ∀ m t, ResCanonical (body s m t)) :
    OutcomeCanonical (s.mergeFire hd body) := by
  unfold State.mergeFire
  split <;> exact h.fire fun _ => hb _ _

theorem MemCanonical.toStore {n g b} (h : MemCanonical s) : MemCanonical (s.toStore n g b) := by
  unfold State.toStore
  split
  exacts [h.sendFlit, h]

theorem MemCanonical.releaseFeed {key inst} (h : MemCanonical s) : MemCanonical (s.releaseFeed key inst) := by
  unfold State.releaseFeed
  dsimp only
  split
  exacts [h.setStore, h]

theorem MemCanonical.releaseFeeds {n k m} (h : MemCanonical s) : MemCanonical (s.releaseFeeds n k m) := by
  unfold State.releaseFeeds
  refine h.foldl fun _ _ h₁ => ?_
  split
  · split
    exacts [h₁.releaseFeed, h₁]
  · exact h₁.toStore

theorem MemCanonical.publish {m c} (h : MemCanonical s) : MemCanonical (s.publish m c) := by
  unfold State.publish
  split
  · exact h
  refine h.foldl fun _ _ h => ?_
  extract_lets l s₁
  have h₁ : MemCanonical s₁ := h.queueOffer
  split <;> exact h₁

theorem MemCanonical.startFetch {n k q before l} (h : MemCanonical s) : MemCanonical (s.startFetch n k q before l) :=
  h.foldl fun _ _ h₁ => h₁.toStore

theorem MemCanonical.mergeEnds {kmrg m q} (h : MemCanonical s) : ResCanonical (s.mergeEnds kmrg m q) := by
  unfold State.mergeEnds
  extract_lets
  split
  · trivial
  split
  · exact h.startFetch.setKept
  split
  exacts [trivial, h.releaseFeeds.setKept]

theorem MemCanonical.fetchCame {rid res} (h : MemCanonical s) : MemCanonical (s.fetchCame rid res) := by
  unfold State.fetchCame
  dsimp only
  split
  · exact h
  split
  · exact h
  split
  · exact h
  split
  exacts [.respond (.releaseFeeds h), .portFault (.foldl (.unkeep h) fun _ _ h₁ => h₁.setKept)]

theorem kmrgBody_canonical {k m tk} (h : MemCanonical s) : ResCanonical (kmrgBody k s m tk) := by
  unfold kmrgBody
  extract_lets n key score g prev c new kth s₁ last m'
  refine .ite trivial (.ite ?_ (.ite h.setKept h.mergeEnds))
  have h₁ : MemCanonical s₁ := by
    unfold s₁
    split
    · exact h.publish
    · exact .ite h h.publish
    · exact h
  exact MemCanonical.setKept h₁

theorem execKmrg_canonical {hd c} (h : MemCanonical s) : OutcomeCanonical (execKmrg hd c s) := h.mergeFire fun _ _ => kmrgBody_canonical h

theorem ksmxBody_canonical {m p} (h : MemCanonical s) : ResCanonical (ksmxBody s m p) := by
  unfold ksmxBody
  extract_lets
  split
  · trivial
  split
  exacts [h.setKept, h.mergeEnds]

theorem execKsmx_canonical {hd p} (h : MemCanonical s) : OutcomeCanonical (execKsmx hd p s) := h.mergeFire fun _ _ => ksmxBody_canonical h

/-! ## Sys2Proof/Machine/Commit -/

theorem MemCanonical.sendPend {p} (h : MemCanonical s) : MemCanonical (s.sendPend p) := by
  unfold State.sendPend
  dsimp only
  split
  exacts [h.sendRecord, h.sendRecord, h]

theorem MemCanonical.countGlaze {st p tok} (h : MemCanonical s) : MemCanonical (s.countGlaze st p tok) := h.setStrand

theorem MemCanonical.letGo {p} (h : MemCanonical s) : MemCanonical (s.letGo p) := by
  unfold State.letGo
  dsimp only
  split
  · split
    exacts [h.sendPend, h]
  · split
    exacts [h.sendPend, h]
  · exact h
  · split
    exacts [h.countGlaze, h]
  · exact h
  · exact h

theorem MemCanonical.releaseEff {die task q held a4} (h : MemCanonical s) : MemCanonical (s.releaseEff die task q held a4) := by
  unfold State.releaseEff
  dsimp only
  split
  · split
    exacts [h, .letGo h]
  · split
    exacts [h, .letGo h]

theorem MemCanonical.setVc {die wafer cells vc e} (h : MemCanonical s) : MemCanonical (s.setVc die wafer cells vc e) := h
theorem MemCanonical.sarm {die task n k e d} (h : MemCanonical s) : MemCanonical (s.sarm die task n k e d) := h.onStrand.armStream

theorem MemCanonical.release1 {die task x held hd} (h : MemCanonical s) : MemCanonical (s.release1 die task x held hd) := by
  unfold State.release1
  extract_lets n
  split
  · exact h.setCarry
  · exact h.foldl fun _ _ h => .enter h
  · split
    exacts [h, h.setStrand.kill]
  · split
    exacts [h, h.setStrand.kill]
  · exact h.setStream
  · exact h.setVc
  · exact h.withPlanes
  · exact h
  · exact h.writePrio
  · exact h.onStrand
  · exact h.withPlanes
  · exact h.askPort
  · split
    exacts [h.releaseEff, h.sarm]
  · exact h.releaseEff

theorem MemCanonical.releaseAll {die task q} (h : MemCanonical s) : MemCanonical (s.releaseAll die task q) :=
  h.foldl fun _ _ h₁ => h₁.release1

theorem MemCanonical.lateDone {n k} (h : MemCanonical s) : MemCanonical (s.lateDone n k) := by
  unfold State.lateDone
  split
  exacts [h, h.setStrand]

theorem MemCanonical.dropKept {c k} (h : MemCanonical s) : MemCanonical (s.dropKept c k) := h

theorem MemCanonical.seeSettled (h : MemCanonical s) : MemCanonical s.seeSettled := by
  unfold State.seeSettled
  dsimp only
  split <;> exact h

theorem MemCanonical.commit {die task x} (h : MemCanonical s) : MemCanonical (s.commit die task x) := by
  unfold State.commit
  split
  · exact h
  extract_lets bad exits s₁ s₂ s₃ s₄
  have h₂ : MemCanonical s₂ := h.seeSettled.releaseAll.onStrand
  have h₃ : MemCanonical s₃ := .ite h₂.dropKept h₂
  have h₄ : MemCanonical s₄ := .ite h₃.kill.onStrand h₃
  clear_value bad
  split
  exacts [h.takeFault, h₄.dropStale]

theorem execInstanceCommit_canonical {u} (h : MemCanonical s) : OutcomeCanonical (execInstanceCommit u s) := by
  unfold execInstanceCommit
  split
  · exact h
  split
  · exact h
  split
  exacts [h.commit, h]

theorem execReturnTailEnd_canonical {u} (h : MemCanonical s) : OutcomeCanonical (execReturnTailEnd u s) := by
  unfold execReturnTailEnd
  dsimp only
  split
  · exact h
  split
  · exact h
  split
  exacts [h, h.releaseAll.dropKept.onStrand.dropStale]

theorem MemCanonical.advance {st l} (h : MemCanonical s) : MemCanonical (s.advance st l) := by
  unfold State.advance
  dsimp only
  split
  · exact h.setStrand.dropStale
  split
  exacts [h.setStrand.dropStale.renew, h.setStrand.dropStale]

theorem execGenerationAdvance_canonical {die task lvl} (h : MemCanonical s) : OutcomeCanonical (execGenerationAdvance die task lvl s) := by
  unfold execGenerationAdvance
  split
  · exact h
  split
  exacts [h, h.advance]

theorem MemCanonical.grant {st r reserve room} (h : MemCanonical s) : MemCanonical (s.grant st r reserve room) := by
  unfold State.grant
  extract_lets l used pool tag x enters opens frm tags x' st₁ st₂ st₃ s₁ fab s₂
  have h₁ : MemCanonical s₁ := h.spent.setStrand
  have h₂ : MemCanonical s₂ := by
    unfold s₂
    split <;> exact h₁
  exact h₂.emit

theorem execTagGrant_canonical {die task lvl} (h : MemCanonical s) : OutcomeCanonical (execTagGrant die task lvl s) := by
  unfold execTagGrant
  dsimp only
  split
  · exact h
  split
  · exact h
  split
  · exact h
  split
  exacts [h, h.grant]

theorem MemCanonical.performRmw {r} (h : MemCanonical s) : ResCanonical (s.performRmw r) := by
  unfold State.performRmw
  split
  · exact h.performAtomic
  · exact h.performAtomic
  · exact h.performAtomic
  · exact h.performDeq
  · exact h.performRdci
  · exact h.performSnap
  · exact h.performRemote
  · exact h.performRemote
  · exact h.performMlds
  · exact h.performMswp
  · exact h.performMctl
  · exact h.performMclr
  · exact h.performVdcl
  · exact h.performKqry
  · exact h.performSpfk
  · exact h.performSprl
  · trivial

theorem MemCanonical.dropRmw {r} (h : MemCanonical s) : MemCanonical (s.dropRmw r) := h
theorem MemCanonical.rmwFault {r p} (h : MemCanonical s) : MemCanonical (s.rmwFault r p) := h.dropRmw.restore.takeFault

theorem execSettledRmwPerform_canonical {n} (h : MemCanonical s) : OutcomeCanonical (execSettledRmwPerform n s) := by
  unfold execSettledRmwPerform
  split
  · exact h
  next r _ =>
  split
  · exact h
  next st _ =>
  split
  · exact h
  have hr : ResCanonical (({ s with cur := ⟨r.node, r.key, r.word, st.die, st.task⟩ } : State).performRmw r) := MemCanonical.performRmw h
  split
  · exact h
  · exact h.rmwFault
  · exact (hr.of_stops ‹_›).rmwFault
  · extract_lets s₁ s₂
    have h₁ : MemCanonical s₁ := (hr.of_fires ‹_›).dropRmw
    have h₂ : MemCanonical s₂ := by
      unfold s₂
      split
      exacts [h₁.markRmw, h₁]
    split
    exacts [h₂, h₂.respond]

theorem execYldRelease_canonical {n} (h : MemCanonical s) : OutcomeCanonical (execYldRelease n s) := by
  unfold execYldRelease
  dsimp only
  split
  · exact h
  split
  · exact h
  split
  · exact h
  split
  exacts [h, .emit h]

/-! ## Sys2Proof/Machine/Loader -/

theorem MemCanonical.endPhase {die task} (h : MemCanonical s) : MemCanonical (s.endPhase die task) := by
  unfold State.endPhase
  split
  · exact h
  extract_lets s₁
  have h₁ : MemCanonical s₁ := h.kill
  split
  · exact h₁
  · extract_lets next s₂
    have h₂ : MemCanonical s₂ := h₁.setStrand
    exact .renew (.dropStale h₂)

theorem execPhaseEnd_canonical {die task} (h : MemCanonical s) : OutcomeCanonical (execPhaseEnd die task s) := by
  unfold execPhaseEnd
  split
  · exact h
  split
  · exact h.endStrand
  split
  · exact h
  split
  exacts [h.kill.askFolds, h.endPhase]

theorem MemCanonical.fetchBytes {st w va n} (h : MemCanonical s) : FetchedCanonical (s.fetchBytes st w va n) := by
  unfold State.fetchBytes
  split
  · trivial
  split
  · exact h.translate.of_snd ‹_›
  have h := h.translate.of_snd ‹_›
  split
  · trivial
  split
  · exact h.findErrors
  split
  · exact h.readHome.of_snd ‹_›
  · split <;> exact h.readHome.of_snd ‹_›

theorem MemCanonical.fetchWords {st w va acc n} (h : MemCanonical s) : MemCanonical (s.fetchWords st w va acc n).2 := by
  induction n generalizing s va acc with
  | zero => exact h
  | succ n ih =>
    unfold State.fetchWords
    split
    exacts [ih (h.fetchBytes.of_ok ‹_›), h.fetchBytes.of_fails ‹_›, h]

/-- One round of the recursion. It speaks of any predicate `Q` of the answer: with a projection in its place the kernel would
evaluate the number of words that a header gives. -/
theorem fetchImage_round {Q : Image × State → Prop} (hQ : ∀ x t, MemCanonical t → Q (x, t)) {st cfg va i acc w l r}
    (h : MemCanonical s) (ih : ∀ s va i acc, MemCanonical s → Q (r.1 s va i acc)) :
    Q (State.fetchImage._f st cfg (w :: l) r s va i acc) := by
  delta State.fetchImage._f
  dsimp -zeta only
  refine FetchedCanonical.goOn h.fetchBytes (hQ _ _ h) (fun _ _ _ => hQ _ _) fun lo t h => ?_
  refine FetchedCanonical.goOn h.fetchBytes (hQ _ _ h) (fun _ _ _ => hQ _ _) fun hi t h => ?_
  dsimp only
  split
  · exact hQ _ _ (h.fetchWords.of_snd ‹_›)
  · exact hQ _ _ (h.fetchWords.of_snd ‹_›)
  · exact ih _ _ _ _ (h.fetchWords.of_snd ‹_›)

theorem fetchImage_answer {Q : Image × State → Prop} (hQ : ∀ x t, MemCanonical t → Q (x, t)) {st cfg va i acc l}
    (h : MemCanonical s) : Q (s.fetchImage st cfg va i acc l) := by
  induction l generalizing s va i acc with
  | nil => exact hQ _ _ h
  | cons w l ih =>
    have ih : ∀ s va i acc, MemCanonical s → Q (s.fetchImage st cfg va i acc l) := fun _ _ _ _ h => ih h
    delta State.fetchImage at ih ⊢
    exact fetchImage_round hQ h ih

theorem MemCanonical.fetchImage {st cfg va i acc l} (h : MemCanonical s) : MemCanonical (s.fetchImage st cfg va i acc l).2 :=
  fetchImage_answer (Q := fun p => MemCanonical p.2) (fun _ _ h => h) h

theorem MemCanonical.readImage {st cfg} (h : MemCanonical s) : MemCanonical (s.readImage st cfg).2 := by
  unfold State.readImage
  split
  exacts [h, h.fetchImage]

theorem MemCanonical.loadFault {st j cfg l} (h : MemCanonical s) : MemCanonical (s.loadFault st j cfg l) := h.onStrand.report
theorem MemCanonical.setShadow {c b blocked} (h : MemCanonical s) : MemCanonical (s.setShadow c b blocked) := h.setCtx

theorem MemCanonical.blockImage {st j cfg bs bad} (h : MemCanonical s) : MemCanonical (s.blockImage st j cfg bs bad) := by
  unfold State.blockImage
  dsimp only
  split
  exacts [h.foldl fun _ _ h₁ => h₁.setShadow, (h.foldl fun _ _ h₁ => h₁.setShadow).loadFault]

theorem MemCanonical.dropShadows {st j} (h : MemCanonical s) : MemCanonical (s.dropShadows st j) := h.foldl fun _ _ h₁ => h₁.setShadow
theorem MemCanonical.measure {st bs} (h : MemCanonical s) : MemCanonical (s.measure st bs) := h

theorem MemCanonical.load {st j cfg} (h : MemCanonical s) : MemCanonical (s.load st j cfg) := by
  unfold State.load
  dsimp only
  split
  · exact h.startPhase
  split
  · exact h
  · exact (h.readImage.of_snd ‹_›).dropShadows.loadFault
  have h₁ := h.readImage.of_snd ‹_›
  split
  exacts [(h₁.foldl fun _ _ h₂ => h₂.setShadow).blockImage, (h₁.foldl fun _ _ h₂ => h₂.setShadow).measure.onStrand]

theorem execConfigLoad_canonical {die task} (h : MemCanonical s) : OutcomeCanonical (execConfigLoad die task s) := by
  unfold execConfigLoad
  split
  · exact h
  split
  · split
    exacts [h, h.load]
  · exact h

theorem MemCanonical.freeBank {die w cell} (h : MemCanonical s) : MemCanonical (s.freeBank die w cell) :=
  MemCanonical.writeBank (s := { s with ctr := _ }) h

theorem MemCanonical.setStores {x} (h : MemCanonical s) : MemCanonical (s.setStores x) := h

theorem MemCanonical.leaveStore {die w cell} (h : MemCanonical s) : MemCanonical (s.leaveStore die w cell) := by
  unfold State.leaveStore
  refine MemCanonical.setStores ?_
  split
  exacts [h.freeBank, h]

theorem MemCanonical.rejoinStore {die w cell} (h : MemCanonical s) : MemCanonical (s.rejoinStore die w cell) := by
  unfold State.rejoinStore
  refine h.foldl fun _ _ h₁ => ?_
  dsimp only
  split
  exacts [h₁.setStores, .setStores h₁]

theorem MemCanonical.changeRole {die w old new cell} (h : MemCanonical s) : MemCanonical (s.changeRole die w old new cell) := by
  unfold State.changeRole
  dsimp only
  split
  · exact h
  split
  · refine MemCanonical.rejoinStore ?_
    split
    · exact h.leaveStore
    split
    exacts [h, h.freeBank]
  · split
    · exact h.leaveStore
    split
    exacts [h, h.freeBank]

theorem MemCanonical.flip1 {c} (h : MemCanonical s) : MemCanonical (s.flip1 c) := h.setCtx.foldl fun _ _ h₁ => h₁.changeRole
theorem MemCanonical.blockAtFlip {st j cfg clash} (h : MemCanonical s) : MemCanonical (s.blockAtFlip st j cfg clash) := h.blockImage

theorem MemCanonical.flip {st j cfg} (h : MemCanonical s) : MemCanonical (s.flip st j cfg) := by
  unfold State.flip
  split
  exacts [(h.foldl fun _ _ h₁ => h₁.flip1).startPhase, h.setStrand]

theorem MemCanonical.flipOn {st j cfg acked age} (h : MemCanonical s) : MemCanonical (s.flipOn st j cfg acked age) := by
  unfold State.flipOn
  dsimp only
  split
  · split
    exacts [(h.foldl fun _ _ h₁ => h₁.flip1).startPhase, h]
  · split
    · exact h
    split
    exacts [h, h.spent.setStrand]

theorem execConfigFlip_canonical {die task} (h : MemCanonical s) : OutcomeCanonical (execConfigFlip die task s) := by
  unfold execConfigFlip
  split
  · exact h
  split
  · exact h
  split
  · split
    · exact h.blockAtFlip
    split
    exacts [h.flip, h]
  · split
    exacts [h.blockAtFlip, h.flipOn]
  · exact h

theorem execIsolationGateTimeout_canonical {die task w} (h : MemCanonical s) :
    OutcomeCanonical (execIsolationGateTimeout die task w s) := by
  unfold execIsolationGateTimeout
  split
  · exact h
  split
  · split
    exacts [h, h.dropShadows.loadFault]
  · exact h

/-! ## Sys2Proof/Machine/Fetch -/

theorem MemCanonical.seqFault {st code addr detail word} (h : MemCanonical s) : MemCanonical (s.seqFault st code addr detail word) :=
  h.onStrand.report

theorem MemCanonical.seqBytes {die task} (h : MemCanonical s) : SeqFetchCanonical (s.seqBytes die task) := by
  unfold State.seqBytes
  split
  · trivial
  split
  · trivial
  split
  · exact (h.translate.of_snd ‹_›).seqFault
  have h := h.translate.of_snd ‹_›
  split
  · trivial
  dsimp only
  split
  · exact h.findErrors.seqFault
  split
  exacts [h.readHome.of_snd ‹_›, (h.readHome.of_snd ‹_›).seqFault]

/-! ## Sys2Proof/Machine/Sequencer -/

theorem MemCanonical.setConst {die i v ws} (h : MemCanonical s) : MemCanonical (s.setConst die i v ws) := h

theorem MemCanonical.writeReg {st r v} (h : MemCanonical s) : MemCanonical (s.writeReg st r v) := by
  unfold State.writeReg
  split
  · exact h.onStrand
  split
  · exact h.onStrand
  split
  exacts [h.setCarry, h.setConst]

theorem MemCanonical.onSeq {f} (h : MemCanonical s) (hf : ∀ st, MemCanonical (f st)) : OutcomeCanonical (s.onSeq f) := by
  unfold State.onSeq
  split
  · exact h
  split
  exacts [h, hf _]

theorem MemCanonical.seqNext {st} (h : MemCanonical s) : MemCanonical (s.seqNext st) := h.onStrand
theorem MemCanonical.seqBranch {st imm} (h : MemCanonical s) : MemCanonical (s.seqBranch st imm) := h.onStrand

theorem MemCanonical.qcfg {q cfg} (h : MemCanonical s) : OutcomeCanonical (s.qcfg q cfg) := by
  unfold State.qcfg
  refine h.onSeq fun _ => ?_
  dsimp only
  split
  · exact h.seqFault
  split
  exacts [h, h.enterSlot]

theorem execQloop_canonical {q} (h : MemCanonical s) : OutcomeCanonical (execQloop q s) := by
  unfold execQloop
  refine h.onSeq fun _ => ?_
  dsimp only
  split
  · exact h.seqNext
  split
  exacts [h.writeReg.seqNext, h.writeReg.seqBranch]

theorem execQbr_canonical {q} (h : MemCanonical s) : OutcomeCanonical (execQbr q s) := by
  unfold execQbr
  refine h.onSeq fun _ => ?_
  split
  exacts [h.seqBranch, h.seqNext]

theorem execQset_canonical {q} (h : MemCanonical s) : OutcomeCanonical (execQset q s) := h.onSeq fun _ => h.writeReg.seqNext
theorem execQadd_canonical {q} (h : MemCanonical s) : OutcomeCanonical (execQadd q s) := h.onSeq fun _ => h.writeReg.seqNext

theorem MemCanonical.qarm {st e d} (h : MemCanonical s) : MemCanonical (s.qarm st e d) := by
  unfold State.qarm
  dsimp only
  split
  · exact h.seqFault
  split
  · exact h
  split
  exacts [h, (h.onStrand.foldl fun _ _ h₁ => h₁.armStream).seqNext]

theorem execQarmRegister_canonical {q} (h : MemCanonical s) : OutcomeCanonical (execQarmRegister q s) := h.onSeq fun _ => h.qarm
theorem execQarmConstants_canonical {q} (h : MemCanonical s) : OutcomeCanonical (execQarmConstants q s) := h.onSeq fun _ => h.qarm
theorem execQarmKeep_canonical {q} (h : MemCanonical s) : OutcomeCanonical (execQarmKeep q s) := h.onSeq fun _ => h.qarm

theorem execQwaitStream_canonical {q} (h : MemCanonical s) : OutcomeCanonical (execQwaitStream q s) := by
  unfold execQwaitStream
  refine h.onSeq fun st => ?_
  split
  exacts [h.seqNext, h]

theorem execQwaitCycles_canonical {q} (h : MemCanonical s) : OutcomeCanonical (execQwaitCycles q s) := h.onSeq fun _ => h.setStrand

theorem execQwaitExpiry_canonical {die task} (h : MemCanonical s) : OutcomeCanonical (execQwaitExpiry die task s) := by
  unfold execQwaitExpiry
  split
  · exact h
  split
  exacts [h.setStrand, h]

theorem execQend_canonical {x} (h : MemCanonical s) : OutcomeCanonical (execQend x s) := by
  unfold execQend
  refine h.onSeq fun _ => ?_
  split
  exacts [h.endStrand, h]

theorem execQprd_canonical {q} (h : MemCanonical s) : OutcomeCanonical (execQprd q s) := by
  unfold execQprd
  refine h.onSeq fun _ => ?_
  dsimp only
  split
  exacts [h.seqFault, h.onStrand.seqNext]

theorem MemCanonical.qglz {st f} (h : MemCanonical s) : MemCanonical (s.qglz st f) := by
  unfold State.qglz
  split
  exacts [h, h.setStrand]

theorem execQglzWait_canonical {q} (h : MemCanonical s) : OutcomeCanonical (execQglzWait q s) := h.onSeq fun _ => h.qglz
theorem execQglzNowait_canonical {x} (h : MemCanonical s) : OutcomeCanonical (execQglzNowait x s) := h.onSeq fun _ => h.qglz

/-! ## Sys2Proof/Machine/Sched -/

theorem MemCanonical.plan {die} (h : MemCanonical s) : MemCanonical (s.plan die) := by
  unfold State.plan
  dsimp only
  split
  · split <;> exact h
  split
  exacts [h.spent, h]

theorem MemCanonical.takeRecord {die r} (h : MemCanonical s) : MemCanonical (s.takeRecord die r) := .recordFreed h
theorem MemCanonical.clearConsts {die ws} (h : MemCanonical s) : MemCanonical (s.clearConsts die ws) := h
theorem MemCanonical.setPrios {cs} (h : MemCanonical s) : MemCanonical (s.setPrios cs) := h.foldl fun _ _ h₁ => h₁.setCtx

theorem MemCanonical.placeNew {die r ws slots} (h : MemCanonical s) : MemCanonical (s.placeNew die r ws slots) :=
  .renew (.takeRecord h.spent.clearConsts.setPrios)

theorem execAllocatorPlace_canonical {die} (h : MemCanonical s) : OutcomeCanonical (execAllocatorPlace die s) := by
  unfold execAllocatorPlace
  dsimp only
  split
  · exact h.plan
  · exact h.plan.takeRecord.report
  split
  exacts [h.plan, h.plan.placeNew]

theorem MemCanonical.moveShared {m} (h : MemCanonical s) : MemCanonical (s.moveShared m) := h

theorem bank_size_pos : 0 < 64 * Config.bankBytes := by decide

/-- The bytes of a wafer's image, moved to a wafer, are in canonical form beside those that are there. -/
theorem merge_bank_wf {m x : List Host.Cell} {shared b} (hm : Memory.wf m = true) (hx : Memory.wf x = true)
    (hlt : ∀ c ∈ x, c.1 < 64 * Config.bankBytes) : Memory.wf (merge shared (64 * Config.bankBytes) b x m) = true := by
  unfold merge
  split
  · refine layOver_wf (fun e he => ?_) hm
    obtain ⟨c, hc, rfl⟩ := List.mem_map.1 he
    exact ((Tab.wf_iff memDefault x).1 hx).2 c hc
  · exact splice_wf bank_size_pos hm hx hlt

theorem MemCanonical.putImage {die w} {x : WaferImage} (h : MemCanonical s) (hx : Memory.wf x.bank = true)
    (hlt : ∀ c ∈ x.bank, c.1 < 64 * Config.bankBytes) : MemCanonical (s.putImage die w x) := by
  unfold State.putImage
  extract_lets b own sh
  obtain ⟨hp, hb, hv⟩ := h
  exact ⟨hp, merge_bank_wf hb hx hlt, hv⟩

theorem MemCanonical.writeRuns {st seed o l} (e : s.writeRuns st seed o l = .ok t) (h : MemCanonical s) : MemCanonical t := by
  induction l generalizing s o with
  | nil =>
    obtain rfl := Except.ok.inj e
    exact h
  | cons x l ih =>
    rw [State.writeRuns] at e
    split at e
    · cases e
    · exact ih e h.writeHome

theorem MemCanonical.readRuns {seed o l} (h : MemCanonical s) : MemCanonical (s.readRuns seed o l).2 := by
  induction l generalizing s o with
  | nil => exact h
  | cons x l ih =>
    rw [State.readRuns]
    split
    · exact h.findErrors
    split
    · exact h.readRun.of_snd ‹_›
    split
    exacts [h.readRun.of_snd ‹_›, ih (h.readRun.of_snd ‹_›)]

theorem MemCanonical.readImageArea {st w seed} (h : MemCanonical s) : MemCanonical (s.readImageArea st w seed).2 := by
  unfold State.readImageArea
  split
  exacts [h, h.readRuns]

theorem MemCanonical.failSave {st va cause} (h : MemCanonical s) : MemCanonical (s.failSave st va cause) := by
  unfold State.failSave
  extract_lets s₁
  have h₁ : MemCanonical s₁ := h.setStrand
  exact .report h₁

theorem savedCanonical_imageOf {st seed} (h : MemCanonical s) : SavedCanonical (s.imageOf st seed) := by
  intro m hm
  obtain ⟨w, -, rfl⟩ := List.mem_map.1 hm
  exact slice_wf bank_size_pos h.2.1

theorem MemCanonical.finishSave {st} (h : MemCanonical s) : MemCanonical (s.finishSave st) := by
  unfold State.finishSave
  split
  · exact h.failSave
  extract_lets seed r
  split
  · exact h.failSave
  next t e =>
  have ht : MemCanonical t := MemCanonical.writeRuns e h
  extract_lets v t'
  obtain ⟨hp, hb, hv⟩ : MemCanonical t' := ht.moveShared.removeStrand
  exact .queueReady ⟨hp, hb, savedCanonical_append hv (savedCanonical_imageOf ht)⟩

theorem execStrandSave_canonical {die task} (h : MemCanonical s) : OutcomeCanonical (execStrandSave die task s) := by
  unfold execStrandSave
  dsimp only
  split
  · exact h
  split
  · split
    exacts [h.finishSave, h]
  · split
    · exact h
    split
    exacts [h.plan.setStrand, h.plan]

theorem MemCanonical.reload {st v acc l} (h : MemCanonical s) : MemCanonical (s.reload st v acc l).2 := by
  induction l generalizing s acc with
  | nil => exact h
  | cons j js ih =>
    rw [State.reload]
    split
    · exact ih h
    split
    · exact h.readImage.of_snd ‹_›
    · exact h.readImage.of_snd ‹_›
    · split
      exacts [h.readImage.of_snd ‹_›, ih (h.readImage.of_snd ‹_›)]

theorem MemCanonical.putBack {v m} (h : MemCanonical s) : MemCanonical (s.putBack v m) := h

theorem MemCanonical.glazeWord {die task sum} (h : MemCanonical s) : MemCanonical (s.glazeWord die task sum) := by
  unfold State.glazeWord
  split
  · exact h
  split
  exacts [h.writeReg.onStrand, h]

theorem MemCanonical.glazeToken {n k q sum} (h : MemCanonical s) : MemCanonical (s.glazeToken n k q sum) := h.respond

theorem MemCanonical.applyLater {die task m l} (h : MemCanonical s) : MemCanonical (s.applyLater die task m l) := by
  induction l generalizing s with
  | nil => exact h
  | cons x l ih =>
    cases x with
    | act x a d => exact ih h.act
    | glaze who d =>
      rcases who with _ | ⟨n, k, t⟩
      exacts [ih h.glazeWord, ih h.glazeToken]

theorem MemCanonical.failRestore {v r code} (h : MemCanonical s) : MemCanonical (s.failRestore v r code) := by
  unfold State.failRestore
  extract_lets st sch s₁
  obtain ⟨hp, hb, hv⟩ := h
  have h₁ : MemCanonical s₁ := ⟨hp, hb, savedCanonical_map hv fun x => by split <;> rfl⟩
  exact h₁.report

theorem MemCanonical.measureSlots {st blocks} (h : MemCanonical s) : MemCanonical (s.measureSlots st blocks) := by
  unfold State.measureSlots
  refine h.foldl fun _ _ h₁ => ?_
  split
  exacts [h₁, h₁.measure]

theorem MemCanonical.restoreImage {v r m new blocks} (h : MemCanonical s) (hv : SavedCanonical v) :
    MemCanonical (s.restoreImage v r m new blocks) := by
  unfold State.restoreImage
  extract_lets st s₁ s₂ s₃ s₄ mem s₅
  have h₂ : MemCanonical s₂ := h.clearConsts.foldl_mem fun t x hx ht => by
    obtain ⟨hwf, hlt⟩ := hv x.2 (List.of_mem_zip hx).2
    exact ht.putImage hwf hlt
  have h₃ : MemCanonical s₃ := h₂.measureSlots.foldl fun _ _ h => h.setCtx
  obtain ⟨hp, hb, hv⟩ : MemCanonical s₄ := h₃.setPrios
  have h₅ : MemCanonical s₅ := ⟨hp, hb, savedCanonical_filter _ hv⟩
  exact h₅.moveShared.putBack.takeRecord.applyLater

theorem MemCanonical.restoreOnto {v r ws slots} (h : MemCanonical s) (hv : SavedCanonical v) :
    MemCanonical (s.restoreOnto v r ws slots) := by
  unfold State.restoreOnto
  extract_lets st m new
  split
  · exact h
  have hr : MemCanonical (s.spent.readImageArea new (ws.headD 0) v.seed).2 := h.spent.readImageArea
  split
  · exact (hr.of_snd ‹_›).failRestore
  · exact (hr.of_snd ‹_›).failRestore
  · have h := hr.of_snd ‹_›
    split
    · assumption
    · exact (h.reload.of_snd ‹_›).failRestore
    · exact (h.reload.of_snd ‹_›).restoreImage hv

theorem execStrandRestore_canonical {die task} (h : MemCanonical s) : OutcomeCanonical (execStrandRestore die task s) := by
  unfold execStrandRestore
  extract_lets s₁
  have h₁ : MemCanonical s₁ := h.plan
  split
  · next v _ hfind =>
    have hv : SavedCanonical v := h₁.saved v (List.mem_of_find?_eq_some hfind)
    split
    exacts [h₁.restoreOnto hv, h₁]
  · exact h₁

theorem execPriorityChangeArrival_canonical {n} (h : MemCanonical s) : OutcomeCanonical (execPriorityChangeArrival n s) := by
  unfold execPriorityChangeArrival
  dsimp only
  split
  · exact h
  split
  · exact h
  split
  exacts [.setPrios h.spent, h.spent]

/-! ## Sys2Proof/Machine/Streams -/

theorem MemCanonical.beatFails {st die wafer e i a5 f} (h : MemCanonical s) : MemCanonical (s.beatFails st die wafer e i a5 f) :=
  h.setStream.report

theorem MemCanonical.requestBeat {st die wafer e a4} (h : MemCanonical s) : MemCanonical (s.requestBeat st die wafer e a4) := by
  unfold State.requestBeat
  dsimp only
  split
  exacts [h, (h.engineRead.of_ok ‹_›).setStream, (h.engineRead.of_fails ‹_›).beatFails]

theorem MemCanonical.writeBeat {st die wafer e a4} (h : MemCanonical s) : MemCanonical (s.writeBeat st die wafer e a4) := by
  unfold State.writeBeat
  dsimp only
  split
  · exact h
  split
  · exact h.setStream
  split
  exacts [h, (h.engineWrite.of_ok ‹_›).setStream, (h.engineWrite.of_fails ‹_›).beatFails]

theorem execStreamBeatRequest_canonical {die wafer e} (h : MemCanonical s) : OutcomeCanonical (execStreamBeatRequest die wafer e s) := by
  unfold execStreamBeatRequest
  dsimp only
  split
  · exact h
  split
  · exact h
  split
  · exact h.writeBeat
  split
  exacts [h.requestBeat, h]

theorem MemCanonical.enterBeat {x a} (h : MemCanonical s) : MemCanonical (s.enterBeat x a) := by
  unfold State.enterBeat
  dsimp only
  split
  · exact h.setDown
  split
  exacts [h.setDown.enter.setStrand, h.setDown.enter]

theorem execStreamBeatReturn_canonical {die wafer e} (h : MemCanonical s) : OutcomeCanonical (execStreamBeatReturn die wafer e s) := by
  unfold execStreamBeatReturn
  dsimp only
  split
  · split
    exacts [h, h.passed.setStream.enterBeat]
  · exact h

theorem execStreamPendingStart_canonical {die wafer e} (h : MemCanonical s) : OutcomeCanonical (execStreamPendingStart die wafer e s) := by
  unfold execStreamPendingStart
  dsimp only
  split
  · split
    exacts [h.setStream, h]
  · exact h

/-! ## Sys2Proof/Machine/Transfer -/

theorem MemCanonical.engineFault {m q low ea detail} (h : MemCanonical s) : MemCanonical (s.engineFault m q low ea detail) :=
  h.setQueue.report

theorem MemCanonical.transferElement {m q b0 b1 i} (h : MemCanonical s) : MemCanonical (s.transferElement m q b0 b1 i) := by
  unfold State.transferElement
  extract_lets c src dst n put
  have hput : ∀ (t : State) bytes poi, MemCanonical t → OptionCanonical (put t bytes poi) := fun t bytes poi ht => by
    unfold put
    split
    · trivial
    · exact (ht.engineWrite.of_fails ‹_›).engineFault
    · exact (ht.engineWrite.of_ok ‹_›).setQueue
  split
  · exact (hput _ _ _ h).getD h
  split
  · exact h
  · exact (h.engineRead.of_fails ‹_›).engineFault
  · have ht := h.engineRead.of_ok ‹_›
    exact (hput _ _ _ ht).getD h

theorem MemCanonical.copyFrame {old new lo n} (h : MemCanonical s) : MemCanonical (s.copyFrame old new lo n) := by
  unfold State.copyFrame
  extract_lets s₁
  obtain ⟨hp, hb, hv⟩ : MemCanonical s₁ := h.findErrors
  exact ⟨moveCells_wf hp, hb, hv⟩

theorem MemCanonical.writeEntry {at_ e} (h : MemCanonical s) : MemCanonical (s.writeEntry at_ e) :=
  h.writePhys

theorem MemCanonical.migrFault {m q code cause va} (h : MemCanonical s) : MemCanonical (s.migrFault m q code cause va) := h.setQueue.report

theorem MemCanonical.startMigr {m q b0} (h : MemCanonical s) : MemCanonical (s.startMigr m q b0) := by
  unfold State.startMigr
  extract_lets va new
  refine .ite h.migrFault (.ite h ?_)
  split
  · exact h.findErrors.migrFault
  extract_lets a tier s₁ s₂ g mem s₃
  have h₂ : MemCanonical s₂ := h.writeEntry.copyFrame
  have h₃ : MemCanonical s₃ := h₂
  exact .ite h.migrFault (.ite h.migrFault (.ite h.migrFault (.ite h.migrFault (.ite h h₃.setQueue))))

theorem MemCanonical.finalWindow {n g} (h : MemCanonical s) : MemCanonical (s.finalWindow n g) :=
  ((h.foldl fun _ _ h₁ => h₁.evict).foldl fun _ _ h₁ => h₁.copyFrame).writeEntry

theorem MemCanonical.abandonMigr {n g} (h : MemCanonical s) : MemCanonical (s.abandonMigr n g) := by
  unfold State.abandonMigr
  dsimp only
  split
  exacts [.migrFault h.spent.spent.writeEntry, h.spent.spent.writeEntry]

theorem execMigrationFinalWindow_canonical {n} (h : MemCanonical s) : OutcomeCanonical (execMigrationFinalWindow n s) := by
  unfold execMigrationFinalWindow
  split
  · exact h
  split
  · exact h
  split
  exacts [h.abandonMigr, h.spent.finalWindow]

theorem execMigrationRelease_canonical {n} (h : MemCanonical s) : OutcomeCanonical (execMigrationRelease n s) := by
  unfold execMigrationRelease
  dsimp only
  split
  · exact h
  · split <;> exact h

theorem execTransferComplete_canonical {die q} (h : MemCanonical s) : OutcomeCanonical (execTransferComplete die q s) := by
  unfold execTransferComplete
  split
  · extract_lets
    split
    · exact h
    split
    exacts [h.setQueue.decrement, h.setQueue]
  · exact h

/-! ## Sys2Proof/Machine/Gather -/

theorem MemCanonical.countIndex {die aux idx} (h : MemCanonical s) : MemCanonical (s.countIndex die aux idx) := by
  unfold State.countIndex
  dsimp only
  split <;> exact h

theorem MemCanonical.passRow {m aux desc idx i} (h : MemCanonical s) : MemCanonical (s.passRow m aux desc idx i) := by
  unfold State.passRow
  refine MemCanonical.setQueue ?_
  split
  exacts [h.countIndex, h]

theorem MemCanonical.gatherBeat {m aux desc idx tk i} (h : MemCanonical s) : MemCanonical (s.gatherBeat m aux desc idx tk i) := by
  unfold State.gatherBeat
  extract_lets q ea fault
  have hfault : ∀ (t : State) (x : Exn), MemCanonical t → MemCanonical (fault t x) := fun _ _ ht => ht.engineFault
  split
  · exact h
  · exact hfault _ _ (h.engineAccs.of_fails ‹_›)
  have h := h.engineAccs.of_ok ‹_›
  extract_lets a
  split
  · exact h
  split
  · split
    · exact hfault _ _ h
    · extract_lets s₁ row
      have h₁ : MemCanonical s₁ := h.sendFlit
      exact MemCanonical.passRow h₁
  · split
    · exact hfault _ _ (h.readPieces.of_snd ‹_›)
    · have h := h.readPieces.of_snd ‹_›
      exact MemCanonical.passRow h

theorem MemCanonical.scatterBeat {m aux desc idx rows i} (h : MemCanonical s) : MemCanonical (s.scatterBeat m aux desc idx rows i) := by
  unfold State.scatterBeat
  extract_lets q ea fault r bytes
  have hfault : ∀ (t : State) (x : Exn), MemCanonical t → MemCanonical (fault t x) := fun _ _ ht => ht.engineFault
  split
  · exact h.passRow
  split
  · exact h
  · exact hfault _ _ (h.engineAccs.of_fails ‹_›)
  have h := h.engineAccs.of_ok ‹_›
  extract_lets a
  split
  · split
    · exact hfault _ _ h
    split
    · exact h
    · refine MemCanonical.passRow (h.foldl fun t x ht => ?_)
      split
      extract_lets s₁
      have h₁ : MemCanonical s₁ := ht.sendRecord
      exact h₁
  · split
    · exact h
    · exact hfault _ _ (h.engineWrite.of_fails ‹_›)
    · exact (h.engineWrite.of_ok ‹_›).passRow

theorem MemCanonical.gatherDone {m tk count} (h : MemCanonical s) : MemCanonical (s.gatherDone m tk count) := by
  unfold State.gatherDone
  extract_lets s₁
  have h₁ : MemCanonical s₁ := h.setQueue
  exact h₁

theorem MemCanonical.startColl {m id fn vc ents beats} (h : MemCanonical s) : MemCanonical (s.startColl m id fn vc ents beats) := by
  unfold State.startColl
  extract_lets ent mine go
  have hgo : MemCanonical go := h.setQueue
  split
  · exact hgo
  split
  exacts [h, hgo]

theorem MemCanonical.passFence {die id} (h : MemCanonical s) : MemCanonical (s.passFence die id) := by
  unfold State.passFence
  dsimp only
  split
  exacts [h.foldl fun _ _ h₁ => h₁.setQueue, h]

theorem MemCanonical.runHead {die q} (h : MemCanonical s) : MemCanonical (s.runHead die q) := by
  unfold State.runHead
  split
  · exact h.passFence
  · split
    · exact h
    extract_lets m
    split
    · split
      · exact h.engineFault
      split
      · split
        exacts [h, h.startMigr]
      split
      exacts [h, h.transferElement]
    · split
      · split
        exacts [h.setQueue, h.gatherDone]
      split
      exacts [h.scatterBeat, h.gatherBeat]
    · exact h.startColl
  · exact h

theorem execEngineOperationStart_canonical {die q} (h : MemCanonical s) : OutcomeCanonical (execEngineOperationStart die q s) := h.runHead

theorem execGatherRowReturn_canonical {n} (h : MemCanonical s) : OutcomeCanonical (execGatherRowReturn n s) := by
  unfold execGatherRowReturn
  dsimp only
  split
  · exact h
  split
  · exact h
  split
  · exact h
  split
  · exact h
  split
  · exact .emit h
  split
  exacts [h, .lateDone (.emit h)]

theorem execScatterCompletion_canonical {n} (h : MemCanonical s) : OutcomeCanonical (execScatterCompletion n s) := by
  unfold execScatterCompletion
  split
  · split
    exacts [h, h.setQueue.respond]
  · exact h

/-! ## Sys2Proof/Machine/MemEvents -/

theorem execMemoryResponse_canonical {n} (h : MemCanonical s) : OutcomeCanonical (execMemoryResponse n s) := by
  unfold execMemoryResponse
  dsimp only
  split
  · exact h
  split
  · exact h
  split
  · exact h
  split
  · exact h
  split
  exacts [.lateDone (.emit h), .emit h]

theorem MemCanonical.dropPend {q} (h : MemCanonical s) : MemCanonical (s.dropPend q) := h

theorem MemCanonical.stick {p q} (h : MemCanonical s) : MemCanonical (s.stick p q) := by
  unfold State.stick
  dsimp only
  split <;> exact .report h

theorem MemCanonical.regenLaunch {p} (h : MemCanonical s) : MemCanonical (s.regenLaunch p) := by
  unfold State.regenLaunch
  dsimp only
  split
  exacts [h, h.launch]

theorem MemCanonical.enqueue {p a data poi} (h : MemCanonical s) : MemCanonical (s.enqueue p a data poi) := by
  unfold State.enqueue
  dsimp only
  split
  · exact (h.atomicFault.of_snd ‹_›).stick
  have h₁ := h.atomicFault.of_snd ‹_›
  split
  · exact (h₁.readHome.of_snd ‹_›).stick
  have h₂ := h₁.readHome.of_snd ‹_›
  split
  · exact h₂.stick
  split
  · exact h₂
  split
  exacts [h₂.stick, h₂.writeHome.writeHome.dropPend.regenLaunch]

theorem MemCanonical.performGlaze {p tok} (h : MemCanonical s) : MemCanonical (s.performGlaze p tok) := by
  unfold State.performGlaze
  split
  · exact h.dropPend
  split
  exacts [h.dropPend.countGlaze, h]

theorem MemCanonical.performStore {p l} (h : MemCanonical s) : MemCanonical (s.performStore p l) := by
  unfold State.performStore
  dsimp only
  split
  · split
    · exact h
    split
    exacts [h.writeImage.dropPend, h.writeHome.dropPend]
  · split
    exacts [h.dropPend.sendPend, h]
  · split
    exacts [h.dropPend.sendPend, h]
  · exact h.performGlaze
  · split
    exacts [h, h.enqueue]
  · exact .dropPend h
  · split
    · exact h
    split
    · exact h
    · exact ((PortCanonical.got setRgn_canonical h).of_fails ‹_›).stick
    · exact ((PortCanonical.got setRgn_canonical h).of_ok ‹_›).dropPend
  · exact h

theorem execStorePerform_canonical {n} (h : MemCanonical s) : OutcomeCanonical (execStorePerform n s) := by
  unfold execStorePerform
  dsimp only
  split
  · exact h
  split
  exacts [h, h.performStore]

theorem MemCanonical.unfence {f} (h : MemCanonical s) : MemCanonical (s.unfence f) := h.foldl fun _ _ h₁ => h₁.dropPend.letGo

theorem MemCanonical.answerPend {p q} (h : MemCanonical s) : MemCanonical (s.answerPend p q) := by
  unfold State.answerPend
  split
  exacts [h, h.respond]

theorem execFenceComplete_canonical {n} (h : MemCanonical s) : OutcomeCanonical (execFenceComplete n s) := by
  unfold execFenceComplete
  split
  · exact h
  split
  · split
    exacts [h, h.dropPend.answerPend.unfence]
  · exact h

theorem MemCanonical.queueAdd {die q e} (h : MemCanonical s) : MemCanonical (s.queueAdd die q e) := h.setQueue

theorem MemCanonical.passOn {p} (h : MemCanonical s) : MemCanonical (s.passOn p) := by
  unfold State.passOn
  dsimp only
  split
  · exact h.dropPend.queueAdd
  · exact .foldl h.dropPend fun _ _ h₁ => h₁.queueAdd
  · split
    exacts [h, h.dropPend.decrement]
  · split
    exacts [h, h.dropPend.launch]
  · split
    exacts [h, h.dropPend.resume]
  · split
    · exact h.dropPend
    split
    exacts [h, h.dropPend.sarm]
  · exact h

theorem execEngineRelease_canonical {n} (h : MemCanonical s) : OutcomeCanonical (execEngineRelease n s) := by
  unfold execEngineRelease
  split
  · exact h
  extract_lets
  split
  exacts [h, h.passOn]

theorem MemCanonical.flushRange {root f va left} (h : MemCanonical s) : MemCanonical (s.flushRange root f va left) := by
  induction f generalizing s va left with
  | zero => exact h
  | succ f ih =>
    rw [State.flushRange]
    split
    · exact h
    extract_lets n s₁
    have h₁ : MemCanonical s₁ := by
      unfold s₁
      split
      · extract_lets a lo hit s₂
        split
        · have h₂ : MemCanonical s₂ := h.foldl fun _ _ h => h.evict
          exact h₂
        · exact h
      · exact h
    exact ih h₁

theorem execDfncCompletion_canonical {n} (h : MemCanonical s) : OutcomeCanonical (execDfncCompletion n s) := by
  unfold execDfncCompletion
  dsimp only
  split
  · exact h
  split
  · split
    exacts [h, h.flushRange.dropPend.answerPend]
  · exact h

theorem execStorePortApply_canonical {die wafer sel} (h : MemCanonical s) : OutcomeCanonical (execStorePortApply die wafer sel s) := by
  unfold execStorePortApply
  dsimp only
  split
  · exact h
  split
  exacts [h, .applyPort h]

theorem MemCanonical.makeOffer {o} (h : MemCanonical s) : MemCanonical (s.makeOffer o) := by
  unfold State.makeOffer
  split
  exacts [h.toStore, h.offer]

theorem execThresholdOffer_canonical {n} (h : MemCanonical s) : OutcomeCanonical (execThresholdOffer n s) := by
  unfold execThresholdOffer
  dsimp only
  split
  · exact h
  split
  · exact h
  split
  · exact .makeOffer h
  split
  · exact h
  split
  exacts [.makeOffer h, h]

theorem execSequencePortApply_canonical {n} (h : MemCanonical s) : OutcomeCanonical (execSequencePortApply n s) := by
  unfold execSequencePortApply
  split
  · exact h
  split
  · exact h
  next q _ _ =>
  have hgot : GotCanonical ((appendPerform q.node q.key q.op).got { s with cur := { s.cur with node := q.node, key := q.key } } q.step) :=
    PortCanonical.got appendPerform_canonical h
  split
  · exact h
  · have ht := hgot.of_ok ‹_›
    exact ht
  · have ht := hgot.of_fails ‹_›
    exact MemCanonical.report ht

/-! ## Sys2Proof/Machine/Glaze -/

theorem MemCanonical.refuse {r} (h : MemCanonical s) : MemCanonical (s.refuse r) := by
  unfold State.refuse
  dsimp only
  split
  exacts [h.setDomain.report, h.setDomain]

theorem MemCanonical.accept {r} (h : MemCanonical s) : MemCanonical (s.accept r).2 := by
  unfold State.accept
  dsimp only
  split
  exacts [h.refuse, h]

theorem execGlazeWriteAccept_canonical {n} (h : MemCanonical s) : OutcomeCanonical (execGlazeWriteAccept n s) := by
  unfold execGlazeWriteAccept
  dsimp only
  split
  · exact h
  split
  exacts [.accept h, .respond (.accept h)]

theorem execGlazeContribution_canonical {n} (h : MemCanonical s) : OutcomeCanonical (execGlazeContribution n s) := by
  unfold execGlazeContribution
  dsimp only
  split
  · exact h
  split
  · exact h
  split
  exacts [h, h.setStrand.setDomain]

theorem execGlazeBarrierEnter_canonical {p} (h : MemCanonical s) : OutcomeCanonical (execGlazeBarrierEnter p s) := by
  unfold execGlazeBarrierEnter
  dsimp only
  split
  exacts [h, h.setDomain]

theorem execBarrierFlit_canonical {p child down} (h : MemCanonical s) : OutcomeCanonical (execBarrierFlit p child down s) := by
  unfold execBarrierFlit
  dsimp only
  split
  · split
    exacts [h.setDomain.sendFlit, h]
  · split
    · exact h
    split
    exacts [h.setDomain.sendFlit, h]

theorem MemCanonical.applyBeat {p pa recs y} (h : MemCanonical s) : MemCanonical (s.applyBeat p pa recs y).1 := by
  unfold State.applyBeat
  extract_lets a
  split
  · exact h.readHome.of_snd ‹_›
  have h := h.readHome.of_snd ‹_›
  dsimp -zeta only
  extract_lets free bytes s₁ s₂
  have h₁ : MemCanonical s₁ := by
    unfold s₁
    split
    exacts [h.spent, h.spent.writeHome]
  have h₂ : MemCanonical s₂ := by
    unfold s₂
    split
    exacts [h₁.putSector.setPoi, h₁]
  exact h₂

theorem MemCanonical.applyBeats {p recs l y} (h : MemCanonical s) : MemCanonical (s.applyBeats p recs l y).1 := by
  induction l generalizing s y with
  | nil => exact h
  | cons pa l ih =>
    unfold State.applyBeats
    split
    exact ih (h.applyBeat.of_fst ‹_›)

theorem MemCanonical.summarize {sum c} (h : MemCanonical s) : MemCanonical (s.summarize sum c) := by
  unfold State.summarize
  split
  · obtain ⟨hp, hb, hv⟩ := h
    exact ⟨hp, hb, savedCanonical_map hv fun v => by split <;> rfl⟩
  split
  exacts [h.glazeWord, h.glazeToken]

theorem MemCanonical.releaseGlaze {p} (h : MemCanonical s) : MemCanonical (s.releaseGlaze p) := by
  unfold State.releaseGlaze
  extract_lets d par recs refused frpa
  split
  next t y e =>
  have ht : MemCanonical t := (h.applyBeats).of_fst e
  extract_lets status sum s₁ dom s₂ pod s₃ s₄
  have h₁ : MemCanonical s₁ := ht.foldl fun _ _ h => h.sendFlit
  have h₂ : MemCanonical s₂ := h₁.setDomain
  have h₄ : MemCanonical s₄ := by
    unfold s₄
    split
    exacts [.copyToBuddy h₂, h₂]
  exact h₄.foldl fun _ _ h => h.summarize

theorem execGlazeRelease_canonical {p} (h : MemCanonical s) : OutcomeCanonical (execGlazeRelease p s) := by
  unfold execGlazeRelease
  extract_lets ready
  split
  exacts [h.releaseGlaze, h]

/-! ## Sys2Proof/Machine/Collective -/

theorem MemCanonical.setColl {n c} (h : MemCanonical s) : MemCanonical (s.setColl n c) := h
theorem MemCanonical.collDown {c beats ok} (h : MemCanonical s) : MemCanonical (s.collDown c beats ok) := h.foldl fun _ _ h₁ => h₁.sendFlit

theorem execCollectiveContribution_canonical {n} (h : MemCanonical s) : OutcomeCanonical (execCollectiveContribution n s) := by
  unfold execCollectiveContribution
  dsimp only
  split
  · exact h
  split
  · exact h
  split
  · exact h
  split
  · exact h.setColl.sendFlit
  split
  exacts [h, h.setColl.collDown]

theorem execCollectiveResult_canonical {n} (h : MemCanonical s) : OutcomeCanonical (execCollectiveResult n s) := by
  unfold execCollectiveResult
  dsimp only
  split
  · exact h
  split
  · refine MemCanonical.respond ?_
    split
    exacts [.report h, h]
  · exact h

theorem MemCanonical.collUp {lg p id fn vc beats} (h : MemCanonical s) : MemCanonical (s.collUp lg p id fn vc beats) := by
  unfold State.collUp
  dsimp only
  split
  exacts [h.setColl, h]

theorem MemCanonical.collDownAt {p id beats ok} (h : MemCanonical s) : MemCanonical (s.collDownAt p id beats ok) := by
  unfold State.collDownAt
  dsimp only
  split
  exacts [h.setColl.collDown, h]

/-! ## Sys2Proof/Machine/Links -/

theorem MemCanonical.countLink {lg i} (h : MemCanonical s) : MemCanonical (s.countLink lg i) := h
theorem MemCanonical.askReplay {lg} (h : MemCanonical s) : MemCanonical (s.askReplay lg) := h.setLink

theorem MemCanonical.loseLink {lg cause code} (h : MemCanonical s) : MemCanonical (s.loseLink lg cause code) := by
  unfold State.loseLink
  extract_lets l s₁ pod s₂
  have h₁ : MemCanonical s₁ := h.setLink
  have h₂ : MemCanonical s₂ := h₁
  exact h₂.report

theorem MemCanonical.dropFlit {lg code} (h : MemCanonical s) : MemCanonical (s.dropFlit lg code) := by
  unfold State.dropFlit
  dsimp only
  split
  exacts [.loseLink h, .askReplay (.setLink h)]

theorem MemCanonical.oldBeat {g} (h : MemCanonical s) : MemCanonical (s.oldBeat g).2 := by
  unfold State.oldBeat
  dsimp only
  split
  · exact h
  · split <;> exact h.readHome.of_snd ‹_›

theorem MemCanonical.readFor {p pa} (h : MemCanonical s) : MemCanonical (s.readFor p pa).2.2 := by
  unfold State.readFor
  extract_lets a
  split
  · next e =>
    have ht := h.readHome.of_snd e
    exact ht
  · next e =>
    have ht := h.readHome.of_snd e
    exact ht

theorem MemCanonical.readAllFor {p l} (h : MemCanonical s) : MemCanonical (s.readAllFor p l).2.2 := by
  induction l generalizing s with
  | nil => exact h
  | cons pa l ih =>
    unfold State.readAllFor
    split
    next e =>
    have ht := ih (h.readFor.of_snd_snd e)
    split
    next e =>
    have ht := ht.of_snd_snd e
    exact ht

theorem MemCanonical.answerRemote {rid refused data poi} (h : MemCanonical s) : MemCanonical (s.answerRemote rid refused data poi) := by
  unfold State.answerRemote
  dsimp only
  split
  · exact h
  split
  · exact h
  · split <;> exact .respond h

theorem MemCanonical.putCopy {pa place bytes poi ciph} (h : MemCanonical s) : MemCanonical (s.putCopy pa place bytes poi ciph) := by
  unfold State.putCopy
  split
  · extract_lets a bad s₁ spoilt
    have h₁ : MemCanonical s₁ := h.writeHome
    split
    exacts [h₁, h₁.writeHome]
  · exact MemCanonical.writePhys (s := { s with pod := _ }) h

theorem MemCanonical.useMessage {lg p ciph b} (h : MemCanonical s) : MemCanonical (s.useMessage lg p ciph b) := by
  unfold State.useMessage
  cases b with
  | read rid pa a b =>
    rcases e : s.readFor p pa with ⟨x, c, t⟩
    have ht : MemCanonical t := h.readFor.of_snd_snd e
    simp only [e]
    exact ht.sendFlit
  | readAnswer rid data poi => exact h.answerRemote
  | record rid r =>
    dsimp only
    split
    · exact h
    · exact h.oldBeat.accept.sendFlit
  | accepted rid refused old poi => exact h.answerRemote
  | ship rid a pas =>
    rcases e : s.readAllFor p pas with ⟨l, c, t⟩
    have ht : MemCanonical t := h.readAllFor.of_snd_snd e
    simp only [e]
    exact ht.sendFlit
  | rows rid beats => exact h
  | barrier a down step mods =>
    dsimp only
    split
    · split
      exacts [h.setDomain, h]
    · exact h.setDomain
  | collUp a id fn vc beats => exact h.collUp
  | collDown a id beats ok => exact h.collDownAt
  | heartbeat => exact h
  | fence => exact h.passFenceFlit
  | buddy pa place bytes poi => exact h.putCopy.sendFlit
  | buddyAck => exact h
  | buddyStep q step back =>
    dsimp only
    split
    exacts [h.setDomain, h]
  | replay seq => exact h.setLink
  | fetch rid gid inst rank => exact h.sendFlit
  | fetched rid res => exact h.fetchCame
  | unfeed gid inst =>
    dsimp only
    split
    exacts [h.releaseFeed, h]
  | offer gid treg val =>
    dsimp only
    split <;> exact h

theorem MemCanonical.takeFlit {lg f} (h : MemCanonical s) : MemCanonical (s.takeFlit lg f) := by
  unfold State.takeFlit
  dsimp only
  split
  exacts [h.setLink.countLink.countLink, h.setLink.countLink]

theorem MemCanonical.endMessage {lg f} (h : MemCanonical s) : MemCanonical (s.endMessage lg f) := by
  unfold State.endMessage
  dsimp only
  split
  · exact h.takeFlit
  split
  · exact h.dropFlit
  split
  exacts [h, h.takeFlit.useMessage]

theorem execFlitReceive_canonical {lg f} (h : MemCanonical s) : OutcomeCanonical (execFlitReceive lg f s) := by
  unfold execFlitReceive
  dsimp only
  split
  · exact h
  split
  · exact h.askReplay
  split
  · exact h.dropFlit
  split
  exacts [h.endMessage, h.takeFlit]

theorem execLaneRetrain_canonical {lg} (h : MemCanonical s) : OutcomeCanonical (execLaneRetrain lg s) := by
  unfold execLaneRetrain
  dsimp only
  split
  exacts [h.setLink, h]

theorem execRetrainComplete_canonical {lg ok} (h : MemCanonical s) : OutcomeCanonical (execRetrainComplete lg ok s) := by
  unfold execRetrainComplete
  dsimp only
  split
  · exact h
  split
  · exact h.setLink
  split
  exacts [h.loseLink, h.setLink]

theorem execHeartbeatSend_canonical (h : MemCanonical s) : OutcomeCanonical (execHeartbeatSend s) := by
  unfold execHeartbeatSend
  refine h.foldl fun _ _ h₁ => ?_
  split
  exacts [h₁.sendFlit, h₁]

theorem execPeerFailureDetect_canonical {peer} (h : MemCanonical s) : OutcomeCanonical (execPeerFailureDetect peer s) := by
  unfold execPeerFailureDetect
  split
  exacts [h, h.declareFailed]

theorem MemCanonical.fenceJob (h : MemCanonical s) : MemCanonical s.fenceJob := h

theorem MemCanonical.relaunch {die task} (h : MemCanonical s) : MemCanonical (s.relaunch die task) := by
  unfold State.relaunch
  refine MemCanonical.queueReady ?_
  split
  · refine MemCanonical.dropSaved ?_
    split
    exacts [h.removeStrand, h]
  · split
    exacts [h.removeStrand, h]

theorem MemCanonical.sendCopies (h : MemCanonical s) : MemCanonical s.sendCopies := by
  unfold State.sendCopies
  split
  exacts [h, (h.foldl fun _ _ h₁ => h₁.sendFlit).foldl fun _ _ h₁ => h₁.sendFlit]

theorem execRecovery_canonical {r} (h : MemCanonical s) : OutcomeCanonical (execRecovery r s) := by
  unfold execRecovery
  dsimp only
  split
  · exact h
  split
  · exact h.fenceJob
  · split
    · split
      exacts [.copyToBuddy h, h]
    · split
      exacts [h.copyToBuddy, h]
  · exact h.relaunch
  · exact h.sendCopies
  · exact .retryPorts h

/-! ## Sys2Proof/Machine/FaultEvents -/

theorem MemCanonical.takeEffect {st r} (h : MemCanonical s) : MemCanonical (s.takeEffect st r) := h.setStrand.report

theorem execFaultTakesEffect_canonical {die task} (h : MemCanonical s) : OutcomeCanonical (execFaultTakesEffect die task s) := by
  unfold execFaultTakesEffect
  split
  · exact h
  split
  exacts [h.takeEffect, h]

theorem execFaultRecordWrite_canonical {n} (h : MemCanonical s) : OutcomeCanonical (execFaultRecordWrite n s) := by
  unfold execFaultRecordWrite
  dsimp only
  split
  · exact h
  split
  · split
    · exact h
    split
    exacts [h, .writeRecord h]
  · split
    exacts [h, .writeRecord h]

theorem MemCanonical.reportRing {st c ring} (h : MemCanonical s) : MemCanonical (s.reportRing st c ring) := by
  unfold State.reportRing
  dsimp only
  split
  exacts [h, .report h]

theorem MemCanonical.reportRings {st c i} (h : MemCanonical s) : MemCanonical (s.reportRings st c i) := by
  unfold State.reportRings
  split
  exacts [h, h.foldl fun _ _ h₁ => h₁.reportRing]

theorem execBackPressureCheck_canonical {die wafer} (h : MemCanonical s) : OutcomeCanonical (execBackPressureCheck die wafer s) := by
  unfold execBackPressureCheck
  dsimp only
  split
  · exact h
  refine .foldl h fun _ _ h₁ => ?_
  split
  exacts [h₁, h₁.foldl fun _ _ h₂ => h₂.reportRings]

theorem MemCanonical.tagReport {st l tagf above n k wave} (h : MemCanonical s) : MemCanonical (s.tagReport st l tagf above n k wave) :=
  h.report

theorem execTagWaitBound_canonical {n} (h : MemCanonical s) : OutcomeCanonical (execTagWaitBound n s) := by
  unfold execTagWaitBound
  dsimp only
  split
  · exact h
  split
  · split
    exacts [h, h.tagReport.setStrand]
  · split
    exacts [h, h.tagReport.setStrand]

/-! ## Sys2Proof/Machine/Dispatch -/

theorem exec_canonical {i} (h : MemCanonical s) : OutcomeCanonical (exec i s) :=
  match i with
  | .movCopy .. => execMovCopy_canonical h
  | .movImmediate .. => execMovImmediate_canonical h
  | .movi .. => execMovi_canonical h
  | .movhi .. => execMovhi_canonical h
  | .fan _ p => execFan_canonical (p := p) h
  | .drop _ p => execDrop_canonical (p := p) h
  | .steer _ p => execSteer_canonical (p := p) h
  | .merge _ p => execMerge_canonical (p := p) h
  | .mrgo _ p => execMrgo_canonical (p := p) h
  | .sel _ p => execSel_canonical (p := p) h
  | .plog _ p => execPlog_canonical (p := p) h
  | .taga .. => execTaga_canonical h
  | .tagf .. => execTagf_canonical h
  | .tagxDown _ p => execTagxDown_canonical (p := p) h
  | .tagxUp _ p => execTagxUp_canonical (p := p) h
  | .wadv _ p => execWadv_canonical (p := p) h
  | .gate _ p => execGate_canonical (p := p) h
  | .exit .. => execExit_canonical h
  | .brb .. => execBrb_canonical h
  | .rdk .. => execRdk_canonical h
  | .wrk .. => execWrk_canonical h
  | .cnst .. => execCnst_canonical h
  | .ord .. => execOrd_canonical h
  | .idx .. => execIdx_canonical h
  | .strm .. => execStrm_canonical h
  | .eosd .. => execEosd_canonical h
  | .iadd .. | .isub .. | .imul .. | .imulh .. | .imad .. | .idiv .. | .irem .. | .ineg .. | .iabs .. | .imin .. | .imax ..
  | .iand .. | .ior .. | .ixor .. | .inot .. | .ishl .. | .ishr .. | .isar .. | .irot .. | .iclz .. | .ipopc .. | .ibfx ..
  | .ibfi .. => h.intWord
  | .icmp .. => execIcmp_canonical h
  | .addi .. | .lea .. | .aff .. | .clamp .. => h.intWord
  | .fadd .. | .fsub .. | .fmul .. | .fma .. | .fmin .. | .fmax .. | .fabs .. | .fneg .. => h.floatWord
  | .fcmp .. => execFcmp_canonical h
  | .fcvt .. => h.cvtWord
  | .frcp .. | .frsq .. | .fex2 .. | .flg2 .. | .ftnh .. | .fexs .. | .fscl .. => h.floatWord
  | .itof .. | .ftoi .. => h.cvtWord
  | .frnd .. => h.floatWord
  | .vbcst .. => execVbcst_canonical h
  | .vshuf .. => execVshuf_canonical h
  | .vred .. => execVred_canonical h
  | .vscan .. => execVscan_canonical h
  | .vdot .. => execVdot_canonical h
  | .vcmpr .. => execVcmpr_canonical h
  | .vexpd .. => execVexpd_canonical h
  | .vpack .. => execVpack_canonical h
  | .vunpk .. => execVunpk_canonical h
  | .vselm .. => execVselm_canonical h
  | .vlane .. => execVlane_canonical h
  | .viota .. => execViota_canonical h
  | .vcset .. => execVcset_canonical h
  | .vcget .. => execVcget_canonical h
  | .hdr .. => execHdr_canonical h
  | .qnt .. => execQnt_canonical h
  | .dqnt .. => execDqnt_canonical h
  | .sclx .. => execSclx_canonical h
  | .i4xp .. => execI4xp_canonical h
  | .i4xu .. => execI4xu_canonical h
  | .ld .. => execLd_canonical h
  | .st .. => execSt_canonical h
  | .ldb .. => execLdb_canonical h
  | .stb .. => execStb_canonical h
  | .ldl .. => execLdl_canonical h
  | .stnt .. => execStnt_canonical h
  | .pref .. => execPref_canonical h
  | .atom .. => execAtom_canonical h
  | .cas .. => execCas_canonical h
  | .fatom .. => execFatom_canonical h
  | .enq .. => execEnq_canonical h
  | .deq .. => execDeq_canonical h
  | .sarm .. => execSarm_canonical h
  | .qfnc .. => execQfnc_canonical h
  | .dfnc .. => execDfnc_canonical h
  | .rdci _ p => execRdci_canonical (p := p) h
  | .fnc .. => execFnc_canonical h
  | .lds .. => execLds_canonical h
  | .sts .. => execSts_canonical h
  | .cntrRead .. => execCntrRead_canonical h
  | .cntrSnap _ p => execCntrSnap_canonical (p := p) h
  | .cntrStall .. => execCntrStall_canonical h
  | .cntrLink .. => execCntrLink_canonical h
  | .xfer .. => execXfer_canonical h
  | .xpk .. => execXpk_canonical h
  | .gath .. => h.takeIndex
  | .scat .. => execScat_canonical h
  | .dcnt .. => execDcnt_canonical h
  | .trdy .. => execTrdy_canonical h
  | .coll .. => execColl_canonical h
  | .mlds .. => execMlds_canonical h
  | .mswp _ p => execMswp_canonical (p := p) h
  | .mctl _ p => execMctl_canonical (p := p) h
  | .mfir .. => execMfir_canonical h
  | .mdrn .. => execMdrn_canonical h
  | .mclr _ p => execMclr_canonical (p := p) h
  | .vdclDeclare .. => execVdclDeclare_canonical h
  | .vdclSystolic _ p => execVdclSystolic_canonical (p := p) h
  | .vacc .. => execVacc_canonical h
  | .bnds .. => execBnds_canonical h
  | .topk .. => execTopk_canonical h
  | .thrp .. => execThrp_canonical h
  | .vpik .. => execVpik_canonical h
  | .iscr .. => execIscr_canonical h
  | .kdef .. => execKdef_canonical h
  | .kput .. => execKput_canonical h
  | .kqry .. => execKqry_canonical h
  | .kdel .. => execKdel_canonical h
  | .kmrg .. => execKmrg_canonical h
  | .ksmx _ p => execKsmx_canonical (p := p) h
  | .kgen .. => execKgen_canonical h
  | .kcnt .. => execKcnt_canonical h
  | .kflt .. => execKflt_canonical h
  | .ksid .. => execKsid_canonical h
  | .splk .. => execSplk_canonical h
  | .spap .. => execSpap_canonical h
  | .spfk _ p => execSpfk_canonical (p := p) h
  | .sprl _ p => execSprl_canonical (p := p) h
  | .spwn .. => execSpwn_canonical h
  | .sprg .. => execSprg_canonical h
  | .rld .. => execRld_canonical h
  | .rst .. => execRst_canonical h
  | .ratm .. => execRatm_canonical h
  | .glaze .. => execGlaze_canonical h
  | .trap .. => execTrap_canonical h
  | .bkpt .. => execBkpt_canonical h
  | .svc .. => execSvc_canonical h
  | .rdsr .. => execRdsr_canonical h
  | .wrsr .. => execWrsr_canonical h
  | .cpri .. => execCpri_canonical h
  | .yld .. => execYld_canonical h
  | .steal .. => execSteal_canonical h
  | .spltSteal .. => execSpltSteal_canonical h
  | .spltClaim .. => execSpltClaim_canonical h
  | .perf .. => execPerf_canonical h
  | .done .. => execDone_canonical h
  | .frd .. => execFrd_canonical h
  | .resm _ p => execResm_canonical (p := p) h
  | .qcfgLabel .. | .qcfgRegister .. => h.qcfg
  | .qloop .. => execQloop_canonical h
  | .qbr .. => execQbr_canonical h
  | .qarmRegister .. => execQarmRegister_canonical h
  | .qarmConstants .. => execQarmConstants_canonical h
  | .qarmKeep .. => execQarmKeep_canonical h
  | .qwaitStream .. => execQwaitStream_canonical h
  | .qwaitCycles .. => execQwaitCycles_canonical h
  | .qset .. => execQset_canonical h
  | .qadd .. => execQadd_canonical h
  | .qend x => execQend_canonical (x := x) h
  | .qprd .. => execQprd_canonical h
  | .qglzWait .. => execQglzWait_canonical h
  | .qglzNowait x => execQglzNowait_canonical (x := x) h
  | .launchToken .. => h.post
  | .hostAccessDiscarded .. => h.postAny
  | .tlbInvalidation .. => execTlbInvalidation_canonical h
  | .freePageWrite .. => h.postBar
  | .hostResume .. => execHostResume_canonical h
  | .faultSummaryRead .. | .correctedErrorRead .. | .hostErrorCounterRead => h.postAny
  | .bindingWrite .. => execBindingWrite_canonical h
  | .buddyCopyEnable .. | .registerWrite .. => h.postBar
  | .tdispRequest .. => execTdispRequest_canonical h
  | .tdispStop .. => execTdispStop_canonical h
  | .ideIntegrityFailure .. => execIdeIntegrityFailure_canonical h
  | .getVersion .. | .getCapabilities .. | .negotiateAlgorithms .. | .getDigests .. | .getCertificate .. | .challenge ..
  | .getMeasurements .. | .keyExchange .. | .finish .. => h.ask
  | .moduleReset => h.afterReset
  | .readinessFlagSet .. => execReadinessFlagSet_canonical h
  | .clockThrottle | .clockRestore => h
  | .thermalShutdown => h.afterReset
  | .tokenArrival .. => execTokenArrival_canonical h
  | .headerBeatLatch .. => execHeaderBeatLatch_canonical h
  | .tokenAgeTick => execTokenAgeTick_canonical h
  | .starvationForce .. => execStarvationForce_canonical h
  | .instanceCommit .. => execInstanceCommit_canonical h
  | .generationAdvance .. => execGenerationAdvance_canonical h
  | .tagGrant .. => execTagGrant_canonical h
  | .returnTailEnd .. => execReturnTailEnd_canonical h
  | .settledRmwPerform .. => execSettledRmwPerform_canonical h
  | .phaseEnd .. => execPhaseEnd_canonical h
  | .configLoad .. => execConfigLoad_canonical h
  | .configFlip .. => execConfigFlip_canonical h
  | .isolationGateTimeout .. => execIsolationGateTimeout_canonical h
  | .allocatorPlace .. => execAllocatorPlace_canonical h
  | .strandSave .. => execStrandSave_canonical h
  | .strandRestore .. => execStrandRestore_canonical h
  | .priorityChangeArrival .. => execPriorityChangeArrival_canonical h
  | .streamBeatRequest .. => execStreamBeatRequest_canonical h
  | .streamBeatReturn .. => execStreamBeatReturn_canonical h
  | .streamPendingStart .. => execStreamPendingStart_canonical h
  | .memoryResponse .. => execMemoryResponse_canonical h
  | .storePerform .. => execStorePerform_canonical h
  | .fenceComplete .. => execFenceComplete_canonical h
  | .engineRelease .. => execEngineRelease_canonical h
  | .engineOperationStart .. => execEngineOperationStart_canonical h
  | .transferComplete .. => execTransferComplete_canonical h
  | .migrationFinalWindow .. => execMigrationFinalWindow_canonical h
  | .migrationRelease .. => execMigrationRelease_canonical h
  | .gatherRowReturn .. => execGatherRowReturn_canonical h
  | .storePortApply .. => execStorePortApply_canonical h
  | .thresholdOffer .. => execThresholdOffer_canonical h
  | .sequencePortApply .. => execSequencePortApply_canonical h
  | .glazeWriteAccept .. => execGlazeWriteAccept_canonical h
  | .glazeContribution .. => execGlazeContribution_canonical h
  | .glazeBarrierEnter .. => execGlazeBarrierEnter_canonical h
  | .barrierFlit .. => execBarrierFlit_canonical h
  | .glazeRelease .. => execGlazeRelease_canonical h
  | .collectiveContribution .. => execCollectiveContribution_canonical h
  | .collectiveResult .. => execCollectiveResult_canonical h
  | .flitReceive .. => execFlitReceive_canonical h
  | .laneRetrain .. => execLaneRetrain_canonical h
  | .heartbeatSend => execHeartbeatSend_canonical h
  | .peerFailureDetect .. => execPeerFailureDetect_canonical h
  | .recovery .. => execRecovery_canonical h
  | .backPressureCheck .. => execBackPressureCheck_canonical h
  | .tagWaitBound .. => execTagWaitBound_canonical h
  | .yldRelease .. => execYldRelease_canonical h
  | .qwaitExpiry .. => execQwaitExpiry_canonical h
  | .faultTakesEffect .. => execFaultTakesEffect_canonical h
  | .faultRecordWrite .. => execFaultRecordWrite_canonical h
  | .dfncCompletion .. => execDfncCompletion_canonical h
  | .scatterCompletion .. => execScatterCompletion_canonical h
  | .retrainComplete .. => execRetrainComplete_canonical h

/-! ## Sys2Proof/Machine/Cycle -/

theorem MemCanonical.runNode {n k} (h : MemCanonical s) : OutcomeCanonical (s.runNode n k) := by
  unfold State.runNode
  split
  · exact h
  split
  exacts [exec_canonical h, trivial]

theorem MemCanonical.alone {n} (h : MemCanonical s) : MemCanonical (s.alone n) := h

theorem MemCanonical.transmit {lg} (h : MemCanonical s) : MemCanonical (s.transmit lg) := by
  unfold State.transmit
  dsimp only
  split
  · exact h.setLink
  split
  · split
    exacts [h.setLink.setLink.countLink.countLink, h.setLink.setLink.countLink]
  · exact h.setLink
  · split
    · exact h.setLink.countLink
    split
    exacts [h.setLink.setLink.countLink.countLink, h.setLink.setLink.countLink]

theorem MemCanonical.tick (h : MemCanonical s) : MemCanonical s.tick := by
  unfold State.tick
  split
  · exact h
  extract_lets rings heard f strands fab sch pod flt host t'
  obtain ⟨hp, hb, -⟩ : MemCanonical s.seeSettled := h.seeSettled
  have ht : MemCanonical t' := ⟨hp, hb, h.saved⟩
  exact (ht.foldl fun _ _ h => h.transmit).retryPorts.answerAsks

/-- Events of the device's own that each keep memory canonical. -/
def OwnsCanonical (l : List Own) : Prop := ∀ f ∈ l, ∀ s, MemCanonical s → OutcomeCanonical (f s)

namespace OwnsCanonical

variable {α : Type} {l l' : List Own} {f : Own}

theorem append_iff : OwnsCanonical (l ++ l') ↔ OwnsCanonical l ∧ OwnsCanonical l' := List.forall_mem_append

theorem cons_iff : OwnsCanonical (f :: l) ↔ (∀ s, MemCanonical s → OutcomeCanonical (f s)) ∧ OwnsCanonical l := List.forall_mem_cons

theorem nil : OwnsCanonical [] := fun _ h => nomatch h

theorem map {l : List α} {f : α → Own} (hf : ∀ x s, MemCanonical s → OutcomeCanonical (f x s)) : OwnsCanonical (l.map f) :=
  List.forall_mem_map.2 fun x _ => hf x

theorem flatMap {l : List α} {f : α → List Own} (hf : ∀ x, OwnsCanonical (f x)) : OwnsCanonical (l.flatMap f) := by
  intro g hg
  obtain ⟨x, -, hx⟩ := List.mem_flatMap.1 hg
  exact hf x g hx

theorem indexed {l : List α} {f : Nat → Own} (hf : ∀ n s, MemCanonical s → OutcomeCanonical (f n s)) : OwnsCanonical (indexed l f) :=
  map hf

end OwnsCanonical

theorem strandSteps_canonical : OwnsCanonical s.strandSteps := by
  refine .flatMap fun st => ?_
  simp only [OwnsCanonical.append_iff, OwnsCanonical.cons_iff, and_assoc]
  exact ⟨
    .flatMap fun _ => OwnsCanonical.cons_iff.2 ⟨fun _ => execInstanceCommit_canonical,
      OwnsCanonical.cons_iff.2 ⟨fun _ => execReturnTailEnd_canonical, .nil⟩⟩,
    .flatMap fun _ => OwnsCanonical.cons_iff.2 ⟨fun _ => execGenerationAdvance_canonical,
      OwnsCanonical.cons_iff.2 ⟨fun _ => execTagGrant_canonical, .nil⟩⟩,
    fun _ => execPhaseEnd_canonical, fun _ => execConfigLoad_canonical, fun _ => execConfigFlip_canonical,
    fun _ => execStrandSave_canonical, fun _ => execQwaitExpiry_canonical, fun _ => execFaultTakesEffect_canonical, .nil,
    .map fun _ _ => execIsolationGateTimeout_canonical⟩

theorem tokenSteps_canonical : OwnsCanonical s.tokenSteps := by
  unfold State.tokenSteps
  simp only [OwnsCanonical.append_iff, OwnsCanonical.cons_iff, and_assoc]
  exact ⟨.indexed fun _ _ => execTokenArrival_canonical, .indexed fun _ _ => execTokenArrival_canonical,
    .indexed fun _ _ => execTokenArrival_canonical, .indexed fun _ _ => execHeaderBeatLatch_canonical,
    .indexed fun _ _ => execYldRelease_canonical, fun _ => execTokenAgeTick_canonical, .nil,
    .map fun _ _ => execStarvationForce_canonical⟩

theorem memorySteps_canonical : OwnsCanonical s.memorySteps := by
  unfold State.memorySteps
  simp only [OwnsCanonical.append_iff, and_assoc]
  exact ⟨.indexed fun _ _ => execMemoryResponse_canonical, .indexed fun _ _ => execSettledRmwPerform_canonical,
    .indexed fun _ _ => execStorePerform_canonical, .indexed fun _ _ => execFenceComplete_canonical,
    .indexed fun _ _ => execEngineRelease_canonical, .indexed fun _ _ => execDfncCompletion_canonical,
    .flatMap fun _ => OwnsCanonical.cons_iff.2 ⟨fun _ => execEngineOperationStart_canonical,
      OwnsCanonical.cons_iff.2 ⟨fun _ => execTransferComplete_canonical,
        OwnsCanonical.cons_iff.2 ⟨fun _ => execScatterCompletion_canonical, .nil⟩⟩⟩,
    .flatMap fun _ => OwnsCanonical.cons_iff.2 ⟨fun _ => execStreamBeatRequest_canonical,
      OwnsCanonical.cons_iff.2 ⟨fun _ => execStreamBeatReturn_canonical,
        OwnsCanonical.cons_iff.2 ⟨fun _ => execStreamPendingStart_canonical, .nil⟩⟩⟩,
    .indexed fun _ _ => execMigrationFinalWindow_canonical, .indexed fun _ _ => execMigrationRelease_canonical,
    .indexed fun _ _ => execGatherRowReturn_canonical, .map fun _ _ => execStorePortApply_canonical,
    .indexed fun _ _ => execThresholdOffer_canonical, .indexed fun _ _ => execSequencePortApply_canonical⟩

theorem moduleSteps_canonical : OwnsCanonical s.moduleSteps := by
  unfold State.moduleSteps
  simp only [OwnsCanonical.append_iff, OwnsCanonical.cons_iff, and_assoc]
  exact ⟨.indexed fun _ _ => execGlazeWriteAccept_canonical, .indexed fun _ _ => execGlazeContribution_canonical,
    .flatMap fun _ => OwnsCanonical.append_iff.2
      ⟨OwnsCanonical.cons_iff.2 ⟨fun _ => execGlazeBarrierEnter_canonical,
        OwnsCanonical.cons_iff.2 ⟨fun _ => execBarrierFlit_canonical,
          OwnsCanonical.cons_iff.2 ⟨fun _ => execGlazeRelease_canonical, .nil⟩⟩⟩,
      .map fun _ _ => execBarrierFlit_canonical⟩,
    .indexed fun _ _ => execCollectiveContribution_canonical, .indexed fun _ _ => execCollectiveResult_canonical,
    fun _ => execHeartbeatSend_canonical, .nil, .map fun _ _ => execPeerFailureDetect_canonical,
    .map fun _ _ => execAllocatorPlace_canonical, .map fun _ _ => execStrandRestore_canonical,
    .indexed fun _ _ => execPriorityChangeArrival_canonical, .indexed fun _ _ => execTagWaitBound_canonical,
    .indexed fun _ _ => execFaultRecordWrite_canonical, .flatMap fun _ => .map fun _ _ => execBackPressureCheck_canonical⟩

theorem MemCanonical.strike (h : MemCanonical s) : OutcomeCanonical s.strike := by
  unfold State.strike
  dsimp only
  split
  · exact h
  · split <;> exact h

theorem events_canonical : OwnsCanonical s.events := by
  unfold State.events
  simp only [OwnsCanonical.append_iff, OwnsCanonical.cons_iff, and_assoc]
  exact ⟨strandSteps_canonical, tokenSteps_canonical, memorySteps_canonical, moduleSteps_canonical, fun _ => MemCanonical.strike, .nil⟩

/-- What the device chooses beside the waiting work is one of its own events, or nothing. -/
theorem choose_canonical {f : Own} (e : s.choose = .inr f) (h : MemCanonical t) : OutcomeCanonical (f t) := by
  unfold State.choose at e
  dsimp only at e
  split at e
  · cases e
  · obtain rfl := Sum.inr.inj e
    rw [List.getD_eq_getElem?_getD]
    rcases hg : s.events[_]? with _ | g
    · exact h
    · exact events_canonical g (List.mem_of_getElem? hg) t h

/-! ## Sys2Proof/Machine/Step -/

theorem runActivity_canonical {a} (h : MemCanonical s) : OutcomeCanonical (runActivity a s) := by
  unfold runActivity
  dsimp only
  split
  · split
    exacts [h, h.runNode]
  · split
    · exact h
    · exact h.seqBytes.of_stops ‹_›
    have h₁ := h.seqBytes.of_bytes ‹_›
    split
    · exact h₁
    split
    · exact h₁.seqFault
    split
    exacts [exec_canonical h₁, h₁.seqFault]
  · exact exec_canonical h
  · exact h.tick

theorem step_canonical (h : MemCanonical s) : OutcomeCanonical (step s) := by
  unfold step
  split
  · split
    · exact runActivity_canonical h.spent
    · exact choose_canonical ‹_› h.spent
  · exact runActivity_canonical h

end Sys2Proof.Claims

open Sys2Proof Sys2Proof.Machine Sys2Proof.Claims

/-- Settles O58: a step runs an activity or an event of the device's own, and each keeps memory canonical. -/
theorem stepsKeepMemoryCanonical : Obligations.StepsKeepMemoryCanonical := by
  unfold Obligations.StepsKeepMemoryCanonical
  intro s t h e
  have ht := step_canonical h
  rw [e] at ht
  exact ht
end

section
/-! PROOFS. Words that fire and complete: obligations O3, O11, O12 and O51. A firing is read once, in `CanFire.fire` and `fire_cancelled`;
what is left for a word is its checks and its body. -/

namespace Sys2Proof.Claims

open Sys2Proof.Machine

variable {s t : State} {h : Hd} {m : FmtM} {sl : Slots} {msq : Nat} {pre : State → List Tok → Option Exn}
  {body : State → List Tok → Res} {ts : List Tok} {outs : List Out}

/-! ## Firing -/

/-- A node that can fire does what its body answers. -/
theorem CanFire.fire (hc : CanFire s h sl ts) (hpre : pre s ts = none) (hbody : body s ts = .fires t outs) :
    s.fire h sl msq pre body = .next (fired s t h sl.rd outs) :=
  fire_performs hc.may hc.read hc.perform hpre hc.sound hc.given hbody

/-- Checks on data pass when the checks themselves do. -/
theorem ifData_none {f : State → List Tok → Option Exn} (hf : f s ts = none) : ifData f s ts = none := by
  rw [ifData, hf, ite_self]

/-! ## MRGO -/

theorem mrgo_fires {p : BitVec 30} (hc : CanFire s h ⟨[s.earlier s.cur.node s.cur.key], [0, 1], [], []⟩ ts)
    (has : s.mrgoHas s.cur.node s.cur.key = true) (known : s.waveKnown s.cur.node.ctx s.cur.key.lvl = true)
    (near : ((tk ts 0).wave - (s.window s.cur.node s.cur.key.lvl (tk ts 0).wave).next).toNat < 16)
    (room : (s.window s.cur.node s.cur.key.lvl (tk ts 0).wave).win.length < 16)
    (alone : ∀ x ∈ (s.window s.cur.node s.cur.key.lvl (tk ts 0).wave).win, x.tok.wave ≠ (tk ts 0).wave) :
    exec (.mrgo h p) s =
      let w := s.window s.cur.node s.cur.key.lvl (tk ts 0).wave
      .next (fired s (s.release h { w with win := w.win ++ [⟨s.cur.node, s.earlier s.cur.node s.cur.key, s.cur.key, tk ts 0⟩] })
        h [s.earlier s.cur.node s.cur.key] []) := by
  change (if (!s.mrgoHas s.cur.node s.cur.key) = true then _ else _) = _
  rw [has, Bool.not_true, if_neg Bool.false_ne_true]
  refine hc.fire rfl ?_
  have hhead : ts.headD {} = tk ts 0 := by cases ts <;> rfl
  have hdup : ((s.window s.cur.node s.cur.key.lvl (tk ts 0).wave).win.any fun x => x.tok.wave = (tk ts 0).wave) = false := by
    simpa using alone
  dsimp only
  rw [hhead, known, Bool.not_true, if_neg Bool.false_ne_true, hdup, Bool.or_false,
    if_neg (by rw [decide_eq_true_eq]; omega), if_neg (by rw [Bool.or_eq_true, decide_eq_true_eq, decide_eq_true_eq]; omega)]

/-! ## Stores -/

section Store
variable {st : Strand} {a : Acc} {size : Nat} {bytes : State → List Byte}

theorem storeBody_fires (hg : Granted s m ts size true (opcode s.cur.word) st a t) (hbank : a.bank = true → (tk ts 1).fl.poi = false)
    (himage : m.space = 4 ∨ t.undecodable a (at_ a (bytes t)) = false) :
    s.storeBody m size ts bytes =
      let u := t.hold m.msq.toNat (tk ts 0).wave (t.storeEff m a (bytes t) (tk ts 1).fl.poi)
      .fires (u.issue m ts) [outBoth (u.zeroTok ts)] := by
  obtain ⟨hhere, hturn, hwait, hacc⟩ := hg
  have hpoison : (a.bank && (tk ts 1).fl.poi) = false := by
    rw [Bool.and_eq_false_imp]
    exact hbank
  have hdecodes : (m.space != 4 && t.undecodable a (at_ a (bytes t))) = false := by
    rw [Bool.and_eq_false_imp, bne_iff_ne]
    exact fun hspace => himage.resolve_left hspace
  rw [State.storeBody, hhere]
  dsimp only
  rw [hturn, hwait, Bool.or_false, if_neg Bool.false_ne_true, hacc]
  dsimp only
  rw [hpoison, if_neg Bool.false_ne_true, hdecodes, if_neg Bool.false_ne_true]

theorem st_fires (hc : CanFire s h Slots.store ts) (hwidth : widthFault m (widthOf h) s ts = none)
    (hg : Granted s m ts (widthOf h) true (opcode s.cur.word) st a t) (hbank : a.bank = true → (tk ts 1).fl.poi = false)
    (himage : m.space = 4 ∨ t.undecodable a (at_ a (lowBytes (widthOf h) (tk ts 1))) = false) :
    execSt h m s =
      let u := t.hold m.msq.toNat (tk ts 0).wave (t.storeEff m a (lowBytes (widthOf h) (tk ts 1)) (tk ts 1).fl.poi)
      .next (fired s (u.issue m ts) h [0, 1] [outBoth (u.zeroTok ts)]) :=
  hc.fire (ifData_none hwidth) (storeBody_fires (bytes := fun _ => lowBytes (widthOf h) (tk ts 1)) hg hbank himage)

theorem stb_fires (hc : CanFire s h Slots.store ts) (hraw : rawFault m s ts = none)
    (hg : Granted s m ts 48 true (opcode s.cur.word) st a t) (hbank : a.bank = true → (tk ts 1).fl.poi = false)
    (himage : m.space = 4 ∨ t.undecodable a (at_ a (t.validBytes (tk ts 1))) = false) :
    execStb h m s =
      let u := t.hold m.msq.toNat (tk ts 0).wave
        (t.storeEff m a (if m.space = 4 then bytesOf (t.laneData (tk ts 1)) else t.validBytes (tk ts 1)) (tk ts 1).fl.poi)
      .next (fired s (u.issue m ts) h [0, 1] [outBoth (u.zeroTok ts)]) := by
  refine hc.fire (ifData_none hraw) (storeBody_fires hg hbank ?_)
  rcases himage with hspace | himage
  · exact .inl hspace
  · exact (em (m.space = 4)).imp_right fun hspace => by rw [if_neg hspace, himage]

theorem sts_fires {as : List Acc} (hc : CanFire s h Slots.store ts) (hlanes : laneFault m (widthOf h) s ts = none)
    (hhere : s.here = some st) (hturn : s.notTurn m ts = false)
    (haccs : s.laneAccs st m (widthOf h) (s.laneAddrs (tk ts 0)) = .ok as) (hpoi : (tk ts 1).fl.poi = false) :
    execSts h m s =
      let u := s.hold m.msq.toNat (tk ts 0).wave (.store (as.headD {}) ((List.range as.length).flatMap fun i =>
        at_ (as.getD i {}) (((s.validBytes (tk ts 1)).drop (widthOf h * i)).take (widthOf h))) false false)
      .next (fired s (u.issue m ts) h [0, 1] [outBoth (u.zeroTok ts)]) := by
  unfold execSts
  dsimp only
  refine hc.fire (ifData_none hlanes) ?_
  rw [hhere]
  dsimp only
  rw [hturn, if_neg Bool.false_ne_true, haccs]
  dsimp only
  rw [hpoi, if_neg Bool.false_ne_true]

theorem enq_fires (hc : CanFire s h Slots.store ts) (hg : Granted s m ts 48 true 0x8A st a t) (hshared : a.ss = false)
    (hbank : a.bank = true → (tk ts 1).fl.poi = false) :
    execEnq h m s =
      let u := t.hold m.msq.toNat (tk ts 0).wave (.enq a (t.laneData (tk ts 1)) (tk ts 1).fl.poi)
      .next (fired s (u.issue m ts) h [0, 1] [outBoth (u.zeroTok ts)]) := by
  obtain ⟨hhere, hturn, hwait, hacc⟩ := hg
  have hpoison : (a.bank && (tk ts 1).fl.poi) = false := by
    rw [Bool.and_eq_false_imp]
    exact hbank
  refine hc.fire rfl ?_
  rw [hhere]
  dsimp only
  rw [hturn, hwait, Bool.or_false, if_neg Bool.false_ne_true, hacc]
  dsimp only
  rw [hshared, if_neg Bool.false_ne_true, hpoison, if_neg Bool.false_ne_true]

end Store

/-! ## Read-modify-write words -/

section ReadModifyWrite
variable {st : Strand} {a : Acc}

theorem rmwBody_fires {size : Nat} {rd : List Nat} {check : State → Acc → Option Exn}
    (hg : Granted s m ts size true (opcode s.cur.word) st a t) (hcheck : check t a = none) :
    s.rmwBody m size rd ts check = .fires ((t.queueRmw m.msq.toNat rd ts (t.atomNums m ts)).issue m ts) [] := by
  obtain ⟨hhere, hturn, hwait, hacc⟩ := hg
  rw [State.rmwBody, hhere]
  dsimp only
  rw [hturn, hwait, Bool.or_false, if_neg Bool.false_ne_true, hacc]
  dsimp only
  rw [hcheck]

theorem sharedFault_none {a : Acc} (hshared : a.ss = false) : t.sharedFault m a = none := by
  rw [State.sharedFault, hshared, if_neg Bool.false_ne_true]

theorem atom_fires (hc : CanFire s h (computing [0, 1]) ts) (hvc : atomVc m (atomSize h) s ts = none)
    (hg : Granted s m ts (atomSize h) true (opcode s.cur.word) st a t) :
    execAtom h m s = .next (fired s ((t.queueRmw m.msq.toNat [0, 1] ts (t.atomNums m ts)).issue m ts) h [0, 1] []) :=
  hc.fire (ifData_none hvc) (rmwBody_fires hg rfl)

theorem cas_fires (hc : CanFire s h (computing [0, 1, 2]) ts) (hvc : atomVc m (atomSize h) s ts = none)
    (hg : Granted s m ts (atomSize h) true (opcode s.cur.word) st a t) (hshared : a.ss = false) :
    execCas h m s = .next (fired s ((t.queueRmw m.msq.toNat [0, 1, 2] ts (t.atomNums m ts)).issue m ts) h [0, 1, 2] []) :=
  hc.fire (ifData_none hvc) (rmwBody_fires hg (sharedFault_none hshared))

theorem fatom_fires (hc : CanFire s h (computing [0, 1]) ts) (hvc : fatomVc m s ts = none)
    (hg : Granted s m ts 48 true (opcode s.cur.word) st a t) :
    execFatom h m s = .next (fired s ((t.queueRmw m.msq.toNat [0, 1] ts (t.atomNums m ts)).issue m ts) h [0, 1] []) :=
  hc.fire (ifData_none hvc) (rmwBody_fires hg rfl)

theorem deq_fires (hc : CanFire s h (computing [0]) ts)
    (hg : Granted s m ts 48 true (opcode s.cur.word) st a t) (hshared : a.ss = false) :
    execDeq h m s = .next (fired s ((t.queueRmw m.msq.toNat [0] ts (t.atomNums m ts)).issue m ts) h [0] []) :=
  hc.fire rfl (rmwBody_fires hg (sharedFault_none hshared))

theorem rdci_fires {p : BitVec 30} (hc : CanFire s h (carrying [0]) ts) :
    execRdci h p s = .next (fired s (s.queueRmw 127 [0] ts) h [0] []) := hc.fire rfl rfl

theorem cntrSnap_fires {x : FmtX} (hc : CanFire s h (carrying [0]) ts) :
    execCntrSnap h x s = .next (fired s (s.queueRmw 127 [0] ts) h [0] []) := hc.fire rfl rfl

end ReadModifyWrite

/-! ## Predicate modes -/

theorem pred_iff (t : Tok) : pred t = true ↔ t.data.getLsbD 0 = true ∧ t.fl.nil = false := by
  rw [pred, Bool.and_eq_true, Bool.not_eq_true']
  rfl

/-- Modes 00 and 11 perform whatever the predicate is, and the two others by its value. -/
theorem performs_iff (h : Hd) (t : Tok) : performs h (some t) = true ↔
    h.pm = 0 ∨ (h.pm = 1 ∧ pred t = true) ∨ (h.pm = 2 ∧ pred t = false) ∨ h.pm = 3 := by
  have modes : ∀ pm : BitVec 2, pm = 0 ∨ pm = 1 ∨ pm = 2 ∨ pm = 3 := by decide
  rcases modes h.pm with hm | hm | hm | hm <;> simp [performs, hm]

theorem taken_eq (h : Hd) (rd : List Nat) : taken h rd = if h.pm = 0 then rd else rd ++ [3] := by
  rw [taken, apply_ite (rd ++ ·), List.append_nil]

/-- A node whose predicate cancels it consumes its operands, holds its place in the memory sequence, and emits nothing. -/
theorem fire_cancelled (hmay : s.mayFire s.cur.node s.cur.key = true)
    (hops : s.operands s.cur.node s.cur.key (taken h sl.rd) = some ts)
    (hperform : performs h (s.slotTok s.cur.node s.cur.key 3) = false)
    (hsound : s.tokenFault s.cur.node s.cur.key h ⟨sl.rd, sl.ever, [], []⟩ = none) :
    s.fire h sl msq pre body = .next (((s.consumeAll s.cur.node s.cur.key (taken h sl.rd)).markIssued s.cur.node).markMsq
      s.cur.node s.cur.key (tk ts 0).wave msq) := by
  have hhead : ts.headD {} = tk ts 0 := by cases ts <;> rfl
  rw [taken] at hops
  unfold State.fire
  dsimp only
  rw [hmay, Bool.not_true, if_neg Bool.false_ne_true, hops]
  dsimp only
  rw [hperform, Bool.not_false, if_pos rfl, hhead]
  change (match s.tokenFault s.cur.node s.cur.key h ⟨sl.rd, sl.ever, [], []⟩ with | some _ => _ | none => _) = _
  rw [hsound]
  rfl

/-- The outcome is one firing of a shape. -/
def IsFiring (s : State) (h : Hd) (rd ever : List Nat) (msq : Nat) (o : Host.Outcome State Fault Refusal) : Prop :=
  ∃ comp nils pre body, o = s.fire h ⟨rd, ever, comp, nils⟩ msq pre body

theorem intWord_isFiring {a : FmtA} {base : List Nat} {l : Limits} {op : LaneEnv → List Lane → Nat} :
    IsFiring s h (slotsA a base) (slotsA a base) 127 (s.intWord h a base l op) := ⟨_, _, _, _, State.intWord.eq_def ..⟩

theorem floatWord_isFiring {a : FmtA} {base : List Nat} {op : Rnd → List Val → Val} :
    IsFiring s h (slotsA a base) (slotsA a base) 127 (s.floatWord h a base op) := ⟨_, _, _, _, State.floatWord.eq_def ..⟩

/-- The words on slot 0 alone have no slot that IMM16 could take. -/
theorem slotsA_zero (a : FmtA) : slotsA a [0] = [0] := by
  rw [slotsA]
  split <;> rfl

/-- A word of one fixed shape is one firing on the slots, and with the memory-sequence number, of that shape. -/
theorem exec_of_shape {i : Instr} {rd ever : List Nat} (e : shape s i = some (h, rd, ever, msq)) :
    IsFiring s h rd ever msq (exec i s) := by
  cases i with
  | ineg h a | iabs h a | inot h a | iclz h a | ipopc h a =>
    cases e
    exact slotsA_zero a ▸ intWord_isFiring (base := [0])
  | fabs h a | fneg h a | frcp h a | frsq h a | fex2 h a | flg2 h a | ftnh h a | frnd h a =>
    cases e
    exact slotsA_zero a ▸ floatWord_isFiring (base := [0])
  | iadd | isub | imul | imulh | idiv | irem | imin | imax | iand | ior | ixor | ishl | ishr | isar | irot | ibfx | addi | imad | ibfi
  | lea | aff | clamp =>
    cases e
    exact intWord_isFiring
  | fadd | fsub | fmul | fmin | fmax | fexs | fscl | fma =>
    cases e
    exact floatWord_isFiring
  | fcvt | itof | ftoi =>
    cases e
    unfold exec
    dsimp only
    exact ⟨_, _, _, _, State.cvtWord.eq_def ..⟩
  | movCopy | movImmediate | vred | vscan | vunpk | viota | hdr | qnt | i4xp | i4xu | iscr | movi | movhi | fan | drop | cnst | vcget
  | vdclDeclare | rdsr | tagf | tagxUp | wrk | vcset | rdci | mswp | mctl | mclr | vdclSystolic | spfk | sprl | spwn | sprg | trap
  | bkpt | svc | wrsr | cpri | yld | spltClaim | done | frd | resm | strm | cntrRead | cntrStall | cntrLink | eosd | sarm | qfnc
  | cntrSnap | steal | perf | exit | brb | kdef | kgen | kflt | ksid | mlds | vshuf | vcmpr | vexpd | dqnt | bnds | steer | tagxDown
  | plog | xpk | xfer | trdy | sel | ord | merge | ld | ldb | ldl | deq | fnc | glaze | splk | pref | st | stb | stnt | enq | atom
  | fatom | dfnc | spap | rld | cas | rst | ratm =>
    cases e
    unfold exec
    dsimp only
    exact ⟨_, _, _, _, rfl⟩
  -- the words that name their slots or a value of theirs before they fire
  | rdk | taga | thrp | kdel | kcnt | mdrn | idx | icmp | fcmp | vbcst | vdot | vlane | sclx | vpik | vselm | vpack | lds | sts =>
    cases e
    unfold exec
    dsimp only [execRdk, execTaga, execThrp, execKdel, execKcnt, execMdrn, execIdx, execIcmp, execFcmp, execVbcst, execVdot, execVlane,
      execSclx, execVpik, execVselm, execVpack, execLds, execSts]
    exact ⟨_, _, _, _, rfl⟩
  | dcnt =>
    cases e
    unfold exec
    dsimp only
    unfold execDcnt
    split
    exacts [⟨_, _, _, _, rfl⟩, ⟨_, _, _, _, rfl⟩]
  | _ => cases e

end Sys2Proof.Claims

open Sys2Proof Sys2Proof.Machine Sys2Proof.Claims

/-- Settles O3: the window's bounds keep a taken token from the fault and from the wait of MRGO's body. -/
theorem mrgoTakes : Obligations.MrgoTakes := by
  unfold Obligations.MrgoTakes
  rintro h p s ts hc ⟨has, known, near, room, alone⟩
  exact mrgo_fires hc has known near room alone

/-- Settles O11: each store's checks pass on a granted access, so its effect enters the commit buffer and its zero token the latch. -/
theorem storeWordsIssue : Obligations.StoreWordsIssue := by
  unfold Obligations.StoreWordsIssue
  intro h m st a t
  refine ⟨?width, ?stb, ?sts, ?enq⟩
  case width =>
    rintro i (rfl | rfl) s ts hc ⟨hwidth, hg, hbank, himage⟩
    · exact st_fires hc hwidth hg hbank himage
    · exact st_fires hc hwidth hg hbank himage
  case stb =>
    rintro s ts hc ⟨hraw, hg, hbank, himage⟩
    exact stb_fires hc hraw hg hbank himage
  case sts =>
    rintro as s ts hc ⟨hlanes, hhere, hturn, haccs, hpoi⟩
    exact sts_fires hc hlanes hhere hturn haccs hpoi
  case enq =>
    rintro s ts hc ⟨hg, hshared, hbank⟩
    exact enq_fires hc hg hshared hbank

/-- Settles O12: a read-modify-write word joins the queue once its access is granted; RDCI and CNTR .snap ask for none. -/
theorem readModifyWriteWordsIssue : Obligations.ReadModifyWriteWordsIssue := by
  unfold Obligations.ReadModifyWriteWordsIssue
  intro h m st a t
  refine ⟨?atom, ?cas, ?fatom, ?deq, ?rdci, ?snap⟩
  case atom =>
    rintro s ts hc ⟨hvc, hg⟩
    exact atom_fires hc hvc hg
  case cas =>
    rintro s ts hc ⟨hvc, hg, hshared⟩
    exact cas_fires hc hvc hg hshared
  case fatom =>
    rintro s ts hc ⟨hvc, hg⟩
    exact fatom_fires hc hvc hg
  case deq =>
    rintro s ts hc ⟨hg, hshared⟩
    exact deq_fires hc hg hshared
  case rdci => exact fun p s ts hc _ => rdci_fires (p := p) hc
  case snap => exact fun x s ts hc _ => cntrSnap_fires (x := x) hc

/-- Settles O51: every word named is one firing of its shape, and a firing that its predicate cancels only consumes. -/
theorem predicateModes : Obligations.PredicateModes := by
  unfold Obligations.PredicateModes
  refine ⟨pred_iff, performs_iff, taken_eq, ?cancelled⟩
  intro s i h rd ever m ts hshape hmay hops hperform hsound
  obtain ⟨comp, nils, pre, body, hexec⟩ := exec_of_shape hshape
  exact hexec.trans (fire_cancelled (sl := ⟨rd, ever, comp, nils⟩) hmay hops hperform hsound)
end

section
/-! PROOFS. Steps and the events of tokens, instances and settled words: obligations O46, O16, O14 and O35. Each event's guards, met,
leave one outcome of its definition. -/

namespace Sys2Proof.Claims

open Sys2Proof.Machine

variable {s t : State}

/-! ## One step -/

theorem step_of_agenda {a : Activity} {rest : List Activity} (ha : s.agenda = a :: rest) :
    step s = runActivity a { s with agenda := rest } := by
  rw [step, ha]

theorem step_of_choice {a : Activity} (ha : s.agenda = []) (hchoice : s.choose = .inl a) : step s = runActivity a s.spent := by
  rw [step, ha]
  dsimp only
  rw [hchoice]

theorem step_of_own {f : Own} (ha : s.agenda = []) (hchoice : s.choose = .inr f) : step s = f s.spent := by
  rw [step, ha]
  dsimp only
  rw [hchoice]

theorem runActivity_outranked {n : Node} {k : Key} (hout : s.outranked n k = true) : runActivity (.fire n k) s = .next s := by
  rw [runActivity]
  exact if_pos hout

theorem runActivity_fire {n : Node} {k : Key} {bs tail : List Byte} {i : Instr} (hout : s.outranked n k = false)
    (hbytes : s.nodeBytes n = some bs) (hdecode : decode bs = .ok (i, tail)) :
    runActivity (.fire n k) s = exec i { s with cur := ⟨n, k, s.wordAt n, n.ctx.die, 0⟩ } := by
  rw [runActivity, hout, if_neg Bool.false_ne_true, State.runNode, hbytes]
  dsimp only
  rw [hdecode]

theorem runActivity_word {die task : Nat} {bs tail : List Byte} {st : Strand} {i : Instr} (hbytes : s.seqBytes die task = .bytes bs t)
    (hstrand : t.strand die task = some st) (hseq : isSeqOpcode bs = true) (hdecode : decode bs = .ok (i, tail)) :
    runActivity (.word die task) s =
      exec i { t with cur := ⟨Node.zero, Key.zero, BitVec.ofNat 64 (leNat (bs.take 8)), die, task⟩ } := by
  rw [runActivity]
  dsimp only
  rw [hbytes]
  dsimp only
  rw [hstrand]
  dsimp only
  rw [hseq, Bool.not_true, if_neg Bool.false_ne_true, hdecode]

/-! ## A settled word -/

theorem execSettledRmwPerform_fires {n : Nat} {r : Rmw} {st : Strand} {outs : List Out} (hsettled : Settled s n r st)
    (hperform : (actingFor s r st).performRmw r = .fires t outs) : execSettledRmwPerform n s = .next (performed t r outs) := by
  obtain ⟨hentry, hstrand, hfrozen, hlive, hset⟩ := hsettled
  unfold execSettledRmwPerform
  rw [hentry]
  dsimp only
  rw [hstrand]
  dsimp only
  rw [hfrozen, hlive, hset, Bool.not_true, Bool.or_false, Bool.or_false, if_neg Bool.false_ne_true]
  change (match (actingFor s r st).performRmw r with | .waits => _ | .faults _ => _ | .stops _ _ => _ | .fires _ _ => _) = _
  rw [hperform]
  cases outs <;> rfl

/-! ## Instances and tags -/

section Instance
variable {st : Strand} {u : Who} {x : Inst}

theorem execInstanceCommit_commits (hstrand : s.strandOf (Who.ctx u) = some st) (hinst : st.inst (Who.ctx u) (Who.key u) = some x)
    (hmay : s.mayCommit st x = true) : execInstanceCommit u s = .next (s.commit st.die st.task x) := by
  unfold execInstanceCommit
  rw [hstrand]
  dsimp only
  rw [hinst]
  exact if_pos hmay

theorem execReturnTailEnd_ends (hstrand : s.strandOf (Who.ctx u) = some st) (hinst : st.inst (Who.ctx u) (Who.key u) = some x)
    (htail : x.tail = true) (hdue : x.due = 0) (hfrozen : st.frozen = false) (htoken : s.hasToken x.ctx x.key = false)
    (hreqs : ∀ r ∈ st.reqs, ¬(r.node.ctx = x.ctx ∧ r.key = x.key)) (hregs : ∀ r ∈ s.flt.regs, ¬(r.node.ctx = x.ctx ∧ r.key = x.key)) :
    execReturnTailEnd u s = .next ((((s.releaseAll st.die st.task x).dropKept x.ctx x.key).onStrand st.die st.task fun y =>
      Strand.freeLevel { y with insts := y.insts.filter fun i => !(i.ctx = x.ctx && i.key = x.key) } x.key.lvl.toNat).dropStale
        st.die st.task) := by
  have noReq : (st.reqs.any fun r => r.node.ctx = x.ctx && r.key = x.key) = false := by simpa using hreqs
  have noReg : (s.flt.regs.any fun r => r.node.ctx = x.ctx && r.key = x.key) = false := by simpa using hregs
  unfold execReturnTailEnd
  rw [hstrand]
  dsimp only
  rw [hinst]
  dsimp only
  rw [noReq, noReg]
  simp only [htail, hdue, hfrozen, htoken, bne_self_eq_false, Bool.not_true, Bool.or_self, Bool.false_eq_true, if_false]

theorem execGenerationAdvance_advances {die task l : Nat} (hstrand : s.strand die task = some st) (hfrozen : st.frozen = false) (hl : l < 8)
    (hadv : (st.level l).adv = true) (hflight : s.inFlight st l ((st.level l).gen + 1) = false) :
    execGenerationAdvance die task l s = .next (s.advance st l) := by
  unfold execGenerationAdvance
  rw [hstrand]
  dsimp only
  rw [hfrozen, hadv, hflight, decide_eq_false (by omega : ¬8 ≤ l)]
  exact if_neg Bool.false_ne_true

theorem execTagGrant_grants {die task l : Nat} {r : TagReq} {b : Block} {reserve : Bool} (hstrand : s.strand die task = some st)
    (hreq : st.nextReq l = some r) (hblock : s.block r.node.ctx = some b) (hfrozen : st.frozen = false) (hsaving : st.saving = false)
    (hfree : (st.level l).free = false) (hlatch : s.latchEmpty r.node = true)
    (hgrant : st.grantable r (s.levelRoom st r.node.ctx.slot l) = some reserve) :
    execTagGrant die task l s = .next (s.grant st r reserve (s.levelRoom st r.node.ctx.slot l)) := by
  unfold execTagGrant
  rw [hstrand]
  dsimp only
  rw [hreq]
  dsimp only
  rw [hblock, hfrozen, hsaving, hfree, hlatch, hgrant]
  exact if_neg Bool.false_ne_true

end Instance

/-! ## Tokens on their way -/

section Latch
variable {n : Nat} {x : Latch} {d : Nat × Nat}

/-- The copy of a latched token for the destination `d`. -/
def copyFor (x : Latch) (d : Nat × Nat) : LTok := ⟨⟨x.node.ctx, d.1⟩, d.2, x.key, x.tok⟩

theorem sameCell_copyFor : sameCell (copyFor x d).node x.node = decide ((copyFor x d).node.cell = x.node.cell) :=
  (congrArg (· && _) (decide_eq_true rfl)).trans (Bool.true_and _)

/-- The latch once a destination of its token is served, the one that is free to be the next. -/
def served (s : State) (n : Nat) (x : Latch) : State :=
  let rest := drop1 (s.pick x.left.length) x.left
  let latch := if rest.isEmpty then drop1 n s.fab.latch else upd (fun y => { y with left := rest }) n s.fab.latch
  let u := (withFab s fun f => { f with latch := latch }).spent
  if rest.isEmpty then u.passed (.inl x.node) else u

theorem leaveLatch_serves (hx : s.fab.latch[n]? = some x) (hd : x.left[s.pick x.left.length]? = some d)
    (hfirst : ∀ y ∈ s.fab.latch.take n, y.node ≠ x.node) (hheld : s.held x.node.ctx = false) (hpass : s.mayPass (.inl x.node) = true)
    (hwaits : s.mrgoWaits (copyFor x d) = false)
    (hroom : (if sameCell (copyFor x d).node x.node then !s.partRoom (copyFor x d).node else !s.injects x.node) = false) :
    s.leaveLatch n = if sameCell (copyFor x d).node x.node then withFab (served s n x) fun f => { f with part := f.part ++ [copyFor x d] }
      else withFab (served s n x) fun f => { f with net := f.net ++ [Flight.inject x.node (copyFor x d)] } := by
  have noEarlier : ((s.fab.latch.take n).any fun y => y.node = x.node) = false := by simpa using hfirst
  unfold State.leaveLatch
  rw [hx]
  dsimp only
  rw [noEarlier, hheld, hpass, Bool.not_true, Bool.or_self, Bool.or_self, if_neg Bool.false_ne_true, hd]
  dsimp only
  change (if (s.mrgoWaits (copyFor x d) ||
    if sameCell (copyFor x d).node x.node then !s.partRoom (copyFor x d).node else !s.injects x.node) = true then _ else _) = _
  rw [hwaits, hroom, Bool.or_self, if_neg Bool.false_ne_true]
  rfl

end Latch

section Arrival
variable {n : Nat} {t : LTok} {st : Strand}

theorem reachCell_enters {x : Flight} (hx : s.fab.net[n]? = some x) (hhome : x.home = true) (hroom : s.partRoom x.tok.node = true) :
    s.reachCell n = withFab s fun f => { f with net := drop1 n f.net, part := f.part ++ [x.tok] } := by
  unfold State.reachCell
  rw [hx]
  dsimp only
  rw [hhome, hroom]
  rfl

theorem enterStore_joins (ht : s.fab.part[n]? = some t) (hst : s.strandOf t.node.ctx = some st) (hstale : s.stale t = false)
    (hdiscards : s.wadvDiscards st t = false) (hhdr : t.tok.fl.hdr = false) (hturn : s.inTurn (s.fab.part.take n) t = true)
    (hwalk : s.writeWalk t = none) (hroom : s.operandRoom st t = true) :
    s.enterStore n = (((withFab s fun f => { f with part := drop1 n f.part }).joinStore t).writeFrame t).wadvPredicate t := by
  unfold State.enterStore
  rw [ht]
  dsimp only
  rw [hst]
  dsimp only
  rw [hstale, hdiscards, hhdr, hturn, hwalk, hroom]
  rfl

theorem enterStore_feedsWalk {e : Nat} {x y : Stream} (ht : s.fab.part[n]? = some t) (hst : s.strandOf t.node.ctx = some st)
    (hstale : s.stale t = false) (hdiscards : s.wadvDiscards st t = false) (hhdr : t.tok.fl.hdr = false)
    (hturn : s.inTurn (s.fab.part.take n) t = true) (hwalk : s.writeWalk t = some (e, x)) (htake : x.takeBeat t.tok = some y)
    (hheld : s.held t.node.ctx = false) :
    s.enterStore n = { withFab s fun f => { f with part := drop1 n f.part } with
      eng := { s.eng with streams := Tab.put {} e y s.eng.streams } } := by
  unfold State.enterStore
  rw [ht]
  dsimp only
  rw [hst]
  dsimp only
  rw [hstale, hdiscards, hhdr, hturn, hwalk]
  dsimp only
  rw [htake, hheld]
  rfl

theorem execHeaderBeatLatch_latches (ht : s.fab.part[n]? = some t) (hhdr : t.tok.fl.hdr = true)
    (hturn : s.inTurn (s.fab.part.take n) t = true) (hstale : s.stale t = false) :
    execHeaderBeatLatch n s =
      .next (((withFab s fun f => { f with part := drop1 n f.part }).countBeat t.node t.port).latchHeader t) := by
  unfold execHeaderBeatLatch
  rw [ht]
  dsimp only
  rw [hhdr, hturn, hstale]
  rfl

end Arrival

theorem execStarvationForce_forces {die wafer cell x : Nat} (hfree : ∀ f ∈ s.fab.forced, f.1 ≠ cellKey die wafer cell) (hx : x < 4)
    (hforces : s.forces ⟨⟨die, wafer, x⟩, 2 * cell⟩ = true) (hlower : ∀ y < x, s.forces ⟨⟨die, wafer, y⟩, 2 * cell⟩ = false) :
    execStarvationForce die wafer cell s =
      .next (withFab s fun f => { f with forced := f.forced ++ [(cellKey die wafer cell, x)] }) := by
  have noneForced : (s.fab.forced.any fun f => f.1 = cellKey die wafer cell) = false := by simpa using hfree
  have lowest : (List.range 4).find? (fun y => s.forces ⟨⟨die, wafer, y⟩, 2 * cell⟩) = some x := by
    rw [List.find?_range_eq_some]
    exact ⟨hforces, List.mem_range.2 hx, fun y hy => by rw [hlower y hy, Bool.not_false]⟩
  unfold execStarvationForce
  dsimp only
  rw [noneForced, if_neg Bool.false_ne_true, lowest]
  rfl

end Sys2Proof.Claims

open Sys2Proof Sys2Proof.Machine Sys2Proof.Claims

/-- Settles O46: each clause names the activity that comes next, and so what it runs. -/
theorem stepRunsDecoded : Obligations.StepRunsDecoded := by
  unfold Obligations.StepRunsDecoded
  intro s rest
  refine ⟨?outranked, ?fire, ?word, ?event, ?cycle, ?chosen, ?own⟩
  case outranked => exact fun n k ha hout => (step_of_agenda ha).trans (runActivity_outranked hout)
  case fire => exact fun n k bs i tail ha hout hbytes hdecode => (step_of_agenda ha).trans (runActivity_fire hout hbytes hdecode)
  case word =>
    exact fun die task bs t st i tail ha hbytes hstrand hseq hdecode =>
      (step_of_agenda ha).trans (runActivity_word hbytes hstrand hseq hdecode)
  case event => exact fun i ha => step_of_agenda ha
  case cycle => exact fun ha => step_of_agenda ha
  case chosen =>
    intro a ha hchoice
    have sameState : ({ ({ s.spent with agenda := [a] } : State) with agenda := [] } : State) = s.spent := by
      change ({ s.spent with agenda := [] } : State) = s.spent
      rw [← ha]
      rfl
    calc
      step s = runActivity a s.spent := step_of_choice ha hchoice
      _ = runActivity a { ({ s.spent with agenda := [a] } : State) with agenda := [] } := by rw [sameState]
      _ = step { s.spent with agenda := [a] } := (step_of_agenda rfl).symm
  case own => exact fun f ha hchoice => step_of_own ha hchoice

/-- Settles O16: a settled word's guards are those of its event. -/
theorem settledWordsPerform : Obligations.SettledWordsPerform := by
  unfold Obligations.SettledWordsPerform
  intro s n r st t outs hsettled hperform
  exact execSettledRmwPerform_fires hsettled hperform

/-- Settles O14: one lemma for each event of instances and tags. -/
theorem instanceStepsComplete : Obligations.InstanceStepsComplete := by
  unfold Obligations.InstanceStepsComplete
  intro s st die task l
  refine ⟨?commits, ?ends, ?advances, ?grants⟩
  case commits => exact fun u x hstrand hinst hmay => execInstanceCommit_commits hstrand hinst hmay
  case ends =>
    exact fun u x hstrand hinst htail hdue hfrozen htoken hreqs hregs =>
      execReturnTailEnd_ends hstrand hinst htail hdue hfrozen htoken hreqs hregs
  case advances =>
    exact fun hstrand hfrozen hl hadv hflight => execGenerationAdvance_advances hstrand hfrozen hl hadv hflight
  case grants =>
    exact fun r b reserve hstrand hreq hblock hfrozen hsaving hfree hlatch hgrant =>
      execTagGrant_grants hstrand hreq hblock hfrozen hsaving hfree hlatch hgrant

/-- Settles O35: one lemma for each move of a token; a copy that leaves its latch goes to its own cell's partition or to the network. -/
theorem tokenEventsComplete : Obligations.TokenEventsComplete := by
  unfold Obligations.TokenEventsComplete
  intro s n
  refine ⟨?latch, ?net, ?part, ?header, ?age, ?starve⟩
  case latch =>
    intro x d j hx hd hfirst hheld hpass hwaits rest latch t u v
    constructor
    · intro hcell hroom
      have near : sameCell (copyFor x d).node x.node = true := sameCell_copyFor.trans (decide_eq_true hcell)
      have hleaves := leaveLatch_serves hx hd hfirst hheld hpass hwaits (by rw [near, if_pos rfl, copyFor, hroom, Bool.not_true])
      rw [near, if_pos rfl] at hleaves
      exact congrArg Host.Outcome.next hleaves
    · intro hcell hinjects
      have far : sameCell (copyFor x d).node x.node = false := sameCell_copyFor.trans (decide_eq_false hcell)
      have hleaves := leaveLatch_serves hx hd hfirst hheld hpass hwaits (by rw [far, if_neg Bool.false_ne_true, hinjects, Bool.not_true])
      rw [far, if_neg Bool.false_ne_true] at hleaves
      exact congrArg Host.Outcome.next hleaves
  case net => exact fun x hx hhome hroom => congrArg Host.Outcome.next (reachCell_enters hx hhome hroom)
  case part =>
    intro t st ht hst hstale hdiscards hhdr hturn
    constructor
    · exact fun hwalk hroom => congrArg Host.Outcome.next (enterStore_joins ht hst hstale hdiscards hhdr hturn hwalk hroom)
    · exact fun e x y hwalk htake hheld =>
        congrArg Host.Outcome.next (enterStore_feedsWalk ht hst hstale hdiscards hhdr hturn hwalk htake hheld)
  case header => exact fun t ht hhdr hturn hstale => execHeaderBeatLatch_latches ht hhdr hturn hstale
  case age => exact fun hphase => if_neg (by omega)
  case starve =>
    exact fun die wafer cell x hfree hx hforces hlower => execStarvationForce_forces hfree hx hforces hlower
end

section
/-! PROOFS. What a firing leaves alone: obligations O52, O53 and O54. `Beside` bounds what a word's body may do, `fire_apart` adds what a
firing does around its body, and one table for each family of words names the reason for every word of it. -/

namespace Sys2Proof.Claims

open Sys2Proof.Machine

variable {s t u : State} {h : Hd} {sl : Slots} {msq : Nat} {pre : State → List Tok → Option Exn}
  {body : State → List Tok → Res} {ts : List Tok} {outs : List Out}

/-! ## The record that a strand keeps of the present instance -/

/-- Strand `y` is `x` but for its record of instance `k` of context `c`. -/
def SameBut (c : Ctx) (k : Key) (x y : Strand) : Prop :=
  { y with insts := x.insts } = x ∧ ∀ z ∈ y.insts, z ∈ x.insts ∨ (z.ctx = c ∧ z.key = k)

section SameBut
variable {c : Ctx} {k : Key} {x y z : Strand}

theorem SameBut.refl : SameBut c k x x := ⟨rfl, fun _ => .inl⟩

theorem SameBut.trans (hxy : SameBut c k x y) (hyz : SameBut c k y z) : SameBut c k x z := by
  obtain ⟨hy, hyi⟩ := hxy
  obtain ⟨hz, hzi⟩ := hyz
  refine ⟨?_, fun i hi => (hzi i hi).elim (hyi i) .inr⟩
  rw [← hz] at hy
  exact hy

theorem SameBut.die (hxy : SameBut c k x y) : y.die = x.die := (congrArg Strand.die hxy.1 :)
theorem SameBut.task (hxy : SameBut c k x y) : y.task = x.task := (congrArg Strand.task hxy.1 :)

theorem SameBut.has (hxy : SameBut c k x y) (d : Ctx) : y.has d = x.has d := (congrArg (Strand.has · d) hxy.1 :)

theorem sameBut_onInst (f : Inst → Inst) (hf : ∀ i, (f i).ctx = i.ctx ∧ (f i).key = i.key) : SameBut c k x (x.onInst c k f) := by
  refine ⟨rfl, fun z hz => ?_⟩
  obtain ⟨i, hi, rfl⟩ := List.mem_map.1 hz
  split
  · next hik =>
    obtain ⟨hc, hk⟩ := hf i
    rw [hc, hk]
    simpa using Or.inr hik
  · exact .inl hi

theorem sameBut_touch (w : BitVec 16) : SameBut c k x (x.touch c k w) := by
  unfold Strand.touch
  split
  · exact sameBut_onInst _ fun _ => ⟨rfl, rfl⟩
  · refine ⟨rfl, fun z hz => ?_⟩
    rcases List.mem_append.1 hz with hz | hz
    · exact .inl hz
    · rw [List.mem_singleton.1 hz]
      exact .inr ⟨rfl, rfl⟩

end SameBut

/-- Of the strands only the present firing's has changed, in its record of the present instance. -/
structure OwnRecord (s t : State) : Prop where
  changed : ∀ x ∈ t.strands, x ∈ s.strands ∨ ∃ st, s.here = some st ∧ SameBut s.cur.node.ctx s.cur.key st x
  kept : ∀ x ∈ s.strands, x ∈ t.strands ∨ ∃ st, s.here = some st ∧ x.is st.die st.task = true
  here : ∀ x, t.here = some x → ∃ st, s.here = some st ∧ SameBut s.cur.node.ctx s.cur.key st x

theorem OwnRecord.of_strands (hcur : t.cur = s.cur) (hstrands : t.strands = s.strands) : OwnRecord s t where
  changed x hx := .inl (hstrands ▸ hx)
  kept x hx := .inl (hstrands.symm ▸ hx)
  here x hx := by
    rw [State.here, State.strandOf, hcur, hstrands] at hx
    exact ⟨x, hx, .refl⟩

theorem OwnRecord.trans (hst : OwnRecord s t) (hcur : t.cur = s.cur) (htu : OwnRecord t u) : OwnRecord s u := by
  have back : ∀ y x, t.here = some y → SameBut t.cur.node.ctx t.cur.key y x →
      ∃ st, s.here = some st ∧ SameBut s.cur.node.ctx s.cur.key st x := by
    intro y x hy hyx
    obtain ⟨st, hs, hsy⟩ := hst.here y hy
    rw [hcur] at hyx
    exact ⟨st, hs, hsy.trans hyx⟩
  refine ⟨fun x hx => ?_, fun x hx => ?_, fun x hx => ?_⟩
  · rcases htu.changed x hx with hx | ⟨y, hy, hyx⟩
    · exact hst.changed x hx
    · exact .inr (back y x hy hyx)
  · rcases hst.kept x hx with hx | hx
    · refine (htu.kept x hx).imp_right ?_
      rintro ⟨y, hy, his⟩
      obtain ⟨st, hs, hsy⟩ := hst.here y hy
      rw [hsy.die, hsy.task] at his
      exact ⟨st, hs, his⟩
    · exact .inr hx
  · obtain ⟨y, hy, hyx⟩ := htu.here x hx
    exact back y x hy hyx

/-- The strand that holds a context, once its record has been put back with the same contexts. -/
theorem find_putBack {l : List Strand} {c : Ctx} {st st' : Strand} (hfind : l.find? (·.has c) = some st) (hdie : st'.die = st.die)
    (htask : st'.task = st.task) (hhas : st'.has c = st.has c) :
    (l.map fun x => if x.is st'.die st'.task then st' else x).find? (·.has c) = some st' := by
  have hst : st.has c = true := List.find?_some (p := fun y : Strand => y.has c) hfind
  have his : st.is st'.die st'.task = true := by simp [Strand.is, hdie, htask]
  induction l with
  | nil => cases hfind
  | cons x l ih =>
    rw [List.map_cons]
    by_cases hx : x.is st'.die st'.task = true
    · rw [if_pos hx, List.find?_cons, hhas, hst]
    · rw [List.find?_cons] at hfind
      rw [if_neg hx, List.find?_cons]
      cases hxc : x.has c with
      | true =>
        rw [hxc] at hfind
        cases hfind
        exact absurd his hx
      | false =>
        rw [hxc] at hfind
        exact ih hfind

theorem ownRecord_setStrand {st st' : Strand} (hhere : s.here = some st) (hsame : SameBut s.cur.node.ctx s.cur.key st st') :
    OwnRecord s (s.setStrand st') where
  changed x hx := by
    obtain ⟨y, hy, rfl⟩ := List.mem_map.1 hx
    split
    · exact .inr ⟨st, hhere, hsame⟩
    · exact .inl hy
  kept x hx := by
    by_cases his : x.is st'.die st'.task = true
    · rw [hsame.die, hsame.task] at his
      exact .inr ⟨st, hhere, his⟩
    · exact .inl (List.mem_map.2 ⟨x, hx, if_neg his⟩)
  here x hx := by
    have hfind := find_putBack hhere hsame.die hsame.task (hsame.has s.cur.node.ctx)
    cases hx.symm.trans hfind
    exact ⟨st, hhere, hsame⟩

/-! ## What a body may do -/

/-- From `s` to `t` only memory, the strand's record of the present instance, the elements counted of header latches and the count of free
values have changed. -/
structure Beside (s t : State) : Prop where
  only : t = { s with ctr := t.ctr, strands := t.strands, mem := t.mem, fab := { s.fab with hlatch := t.fab.hlatch } }
  headers : t.fab.hlatch.map (fun x => (x.node, x.port, x.vc, x.words)) = s.fab.hlatch.map fun x => (x.node, x.port, x.vc, x.words)
  record : OwnRecord s t

theorem Beside.cur (hb : Beside s t) : t.cur = s.cur := (congrArg State.cur hb.only :)

theorem Beside.refl : Beside s s := ⟨rfl, rfl, .of_strands rfl rfl⟩

theorem Beside.trans (hst : Beside s t) (htu : Beside t u) : Beside s u where
  only := by
    have hu := htu.only
    rw [hst.only] at hu
    exact hu
  headers := htu.headers.trans hst.headers
  record := hst.record.trans hst.cur htu.record

/-- Memory and the count of free values are beside everything else. -/
theorem Beside.of_mem (e : t = { s with ctr := t.ctr, mem := t.mem }) : Beside s t where
  only := by rw [e]
  headers := by rw [e]
  record := .of_strands ((congrArg State.cur e :)) ((congrArg State.strands e :))

theorem Beside.setStrand {st st' : Strand} (hhere : s.here = some st) (hsame : SameBut s.cur.node.ctx s.cur.key st st') :
    Beside s (s.setStrand st') := ⟨rfl, rfl, ownRecord_setStrand hhere hsame⟩

theorem beside_hold {m : Nat} {w : BitVec 16} {e : Eff} : Beside s (s.hold m w e) := by
  unfold State.hold
  dsimp only
  split
  · exact .refl
  · exact .setStrand ‹_› ((sameBut_touch _).trans (sameBut_onInst _ fun _ => ⟨rfl, rfl⟩))

theorem beside_markMsq {n : Node} {k : Key} {w : BitVec 16} (hn : n = s.cur.node) (hk : k = s.cur.key) :
    Beside s (s.markMsq n k w msq) := by
  subst hn hk
  unfold State.markMsq
  split
  · exact .refl
  · split
    · exact .refl
    · exact .setStrand ‹_› ((sameBut_touch _).trans (sameBut_onInst _ fun _ => ⟨rfl, rfl⟩))

theorem beside_issue {m : FmtM} : Beside s (s.issue m ts) := beside_markMsq rfl rfl

theorem beside_wrote {vco : BitVec 5} {lanes : Nat} : Beside s (s.wrote s.cur.node vco lanes) := by
  unfold State.wrote
  split
  · refine ⟨rfl, ?_, .of_strands rfl rfl⟩
    rw [List.map_map]
    refine List.map_congr_left fun x _ => ?_
    dsimp only [Function.comp]
    split <;> rfl
  · exact .refl

theorem Beside.tokensOnly (hb : Beside s t) : TokensOnly s.cur.node s.cur.key s t := by
  have hfab : t.fab = { s.fab with hlatch := t.fab.hlatch } := (congrArg State.fab hb.only :)
  have hlatch : t.fab.latch = s.fab.latch := (congrArg Fabric.latch hfab :)
  have hostore : t.fab.ostore = s.fab.ostore := (congrArg Fabric.ostore hfab :)
  have heng : t.eng = s.eng := (congrArg State.eng hb.only :)
  have hflt : t.flt = s.flt := (congrArg State.flt hb.only :)
  constructor
  case cur => exact hb.cur
  case agenda => exact (congrArg State.agenda hb.only :)
  case pl => exact (congrArg State.pl hb.only :)
  case sch => exact (congrArg State.sch hb.only :)
  case mat => exact (congrArg State.mat hb.only :)
  case tiles => exact (congrArg State.tiles hb.only :)
  case pages => exact (congrArg State.pages hb.only :)
  case pod => exact (congrArg State.pod hb.only :)
  case saved => exact (congrArg State.saved hb.only :)
  case host => exact (congrArg State.host hb.only :)
  case fab => rw [hfab]
  case eng => rw [heng]
  case flt => rw [hflt]
  case taken => exact fun x hx => hostore ▸ hx
  case others => exact fun x hx _ => hostore.symm ▸ hx
  case kept => exact fun l hl => hlatch.symm ▸ hl
  case put => exact fun l hl => .inl (hlatch ▸ hl)
  case headers => exact hb.headers
  case streams => rw [heng]
  case faults => exact fun r hr _ => hflt.symm ▸ hr

/-! ## What a firing does around its body -/

theorem takeFault_only {n k w took x} : s.takeFault n k w took x = { s with flt := (s.takeFault n k w took x).flt } := by
  unfold State.takeFault
  dsimp only
  split
  · split <;> rfl
  · rfl

theorem takeFault_fab {n k w took x} : (s.takeFault n k w took x).fab = s.fab := (congrArg State.fab takeFault_only :)
theorem takeFault_eng {n k w took x} : (s.takeFault n k w took x).eng = s.eng := (congrArg State.eng takeFault_only :)
theorem takeFault_mem {n k w took x} : (s.takeFault n k w took x).mem = s.mem := (congrArg State.mem takeFault_only :)
theorem takeFault_strands {n k w took x} : (s.takeFault n k w took x).strands = s.strands := (congrArg State.strands takeFault_only :)

theorem consume_keeps {n : Node} {k : Key} {p : Nat} :
    (s.consume n k p).mem = s.mem ∧ (s.consume n k p).strands = s.strands ∧ (s.consume n k p).flt = s.flt := by
  unfold State.consume
  dsimp only
  split <;> exact ⟨rfl, rfl, rfl⟩

theorem consumeAll_keeps {n : Node} {k : Key} {ps : List Nat} :
    (s.consumeAll n k ps).mem = s.mem ∧ (s.consumeAll n k ps).strands = s.strands ∧ (s.consumeAll n k ps).flt = s.flt := by
  induction ps generalizing s with
  | nil => exact ⟨rfl, rfl, rfl⟩
  | cons p ps ih =>
    obtain ⟨hm, hs, hf⟩ := consume_keeps (s := s) (n := n) (k := k) (p := p)
    obtain ⟨hm', hs', hf'⟩ := ih (s := s.consume n k p)
    exact ⟨hm'.trans hm, hs'.trans hs, hf'.trans hf⟩

/-- The operands taken and the issue marked. -/
def spentBy (s : State) (n : Node) (k : Key) (ps : List Nat) : State := (s.consumeAll n k ps).markIssued n

section Spent
variable {n : Node} {k : Key} {ps : List Nat}

theorem spentBy_tokensOnly : TokensOnly n k s (spentBy s n k ps) := (tokensOnly_consumeAll _ _ _ _).trans (tokensOnly_markIssued _ _ _)
theorem spentBy_mem : (spentBy s n k ps).mem = s.mem := consumeAll_keeps.1
theorem spentBy_strands : (spentBy s n k ps).strands = s.strands := consumeAll_keeps.2.1
theorem spentBy_flt : (spentBy s n k ps).flt = s.flt := consumeAll_keeps.2.2

end Spent

theorem markMsq_mem {n k w} : (s.markMsq n k w msq).mem = s.mem := by
  unfold State.markMsq
  split
  · rfl
  · split <;> rfl
theorem markMsq_flt {n k w} : (s.markMsq n k w msq).flt = s.flt := by
  unfold State.markMsq
  split
  · rfl
  · split <;> rfl
theorem markMsq_none {n k w} : s.markMsq n k w 127 = s := by
  unfold State.markMsq
  split
  · rfl
  · rw [if_pos rfl]

/-- Tokens of the node, the strand's own record, and either no fault register or no operand, latch and beat count: that is all. -/
theorem apart_of (ht : TokensOnly s.cur.node s.cur.key s t) (hr : OwnRecord s t)
    (hexact : t.flt.regs = s.flt.regs ∨ (t.fab.ostore = s.fab.ostore ∧ t.fab.latch = s.fab.latch ∧ t.eng = s.eng)) : Apart s t where
  cur := ht.cur
  agenda := ht.agenda
  pl := ht.pl
  sch := ht.sch
  mat := ht.mat
  tiles := ht.tiles
  pages := ht.pages
  pod := ht.pod
  saved := ht.saved
  host := ht.host
  fab := ht.fab
  eng := ht.eng
  flt := ht.flt
  taken := ht.taken
  others := ht.others
  kept := ht.kept
  put := ht.put
  headers := ht.headers
  streams := ht.streams
  faults := ht.faults
  exact := hexact
  strands := hr.changed
  strandsKept := hr.kept

theorem Beside.apart_takeFault {w : BitVec 16} {took : List Nat} {x : Exn} (hb : Beside s u) :
    Apart s (u.takeFault s.cur.node s.cur.key w took x) := by
  refine apart_of (hb.tokensOnly.trans (tokensOnly_takeFault _ _ _ _ _ _)) (hb.record.trans hb.cur ?_) (.inr ?_)
  · exact .of_strands (tokensOnly_takeFault _ s.cur.key _ _ _ _).cur takeFault_strands
  · rw [takeFault_fab, takeFault_eng, hb.only]
    exact ⟨rfl, rfl, rfl⟩

theorem Beside.apart_fires {ps : List Nat} (hb : Beside s u) :
    Apart s ((spentBy u s.cur.node s.cur.key ps).emit s.cur.node s.cur.key h outs) := by
  have hspent : TokensOnly s.cur.node s.cur.key u (spentBy u s.cur.node s.cur.key ps) := spentBy_tokensOnly
  refine apart_of (hb.tokensOnly.trans (hspent.trans (tokensOnly_emit _ _ _ _ _))) (hb.record.trans hb.cur ?_) (.inl ?_)
  · exact .of_strands hspent.cur spentBy_strands
  · exact (congrArg Faults.regs spentBy_flt).trans (congrArg (·.flt.regs) hb.only :)

/-- A node that is cancelled. -/
theorem apart_cancelled {ps : List Nat} {w : BitVec 16} :
    Apart s ((spentBy s s.cur.node s.cur.key ps).markMsq s.cur.node s.cur.key w msq) := by
  have hspent : TokensOnly s.cur.node s.cur.key s (spentBy s s.cur.node s.cur.key ps) := spentBy_tokensOnly
  have hmark := beside_markMsq (msq := msq) (w := w) (congrArg Cursor.node hspent.cur).symm (congrArg Cursor.key hspent.cur).symm
  have htokens := hmark.tokensOnly
  rw [hspent.cur] at htokens
  refine apart_of (hspent.trans htokens) ?_ (.inl ?_)
  · exact (OwnRecord.of_strands hspent.cur spentBy_strands).trans hspent.cur hmark.record
  · rw [markMsq_flt, spentBy_flt]

/-- A node that a NIL operand cancels emits NIL. -/
theorem Apart.emit {n : Node} {k : Key} (ha : Apart s t) (hflt : t.flt.regs = s.flt.regs) (hn : n = s.cur.node) (hk : k = s.cur.key) :
    Apart s (t.emit n k h outs) := by
  subst hn hk
  have he := tokensOnly_emit s.cur.node s.cur.key t h outs
  refine { ha with kept := fun l hl => he.kept l (ha.kept l hl), put := fun l hl => (he.put l hl).elim (ha.put l) .inr,
                   exact := .inl hflt, fab := ?_ }
  rw [he.fab, ha.fab]

/-- A condition on every state that a body answers. -/
def ResKeeps (R : State → Prop) : Res → Prop
  | .fires u _ | .stops u _ => R u
  | _ => True

/-- A firing whose body stays beside leaves everything else alone; memory is as the body, or as no body, left it. -/
theorem fire_apart {R : State → Prop} (hbody : ∀ ts, ResKeeps (fun u => Beside s u ∧ R u) (body s ts)) (hnone : R s)
    (e : s.fire h sl msq pre body = .next t) :
    Apart s t ∧ ∃ u, R u ∧ t.mem = u.mem ∧ (msq = 127 → t.strands = u.strands) := by
  have self : ∀ {v : State}, v.mem = s.mem → (msq = 127 → v.strands = s.strands) →
      ∃ u, R u ∧ v.mem = u.mem ∧ (msq = 127 → v.strands = u.strands) := fun hm hs => ⟨s, hnone, hm, hs⟩
  have strandsBack : ∀ {n : Node} {k : Key} {w : BitVec 16} {v : State}, msq = 127 → (v.markMsq n k w msq).strands = v.strands := by
    rintro n k w v rfl
    rw [markMsq_none]
  rcases fire_cases e with e | ⟨w, took, x, e⟩ | ⟨w, e⟩ | ⟨w, x, e⟩ | ⟨ts, w, took, x, u, hr, e⟩ | ⟨ts, u, outs, hr, e⟩ <;>
    obtain rfl := Host.Outcome.next.inj e
  case inl => exact ⟨apart_of (.refl _ _ _) (.of_strands rfl rfl) (.inl rfl), self rfl fun _ => rfl⟩
  case inr.inl => exact ⟨Beside.refl.apart_takeFault, self takeFault_mem fun _ => takeFault_strands⟩
  case inr.inr.inl =>
    exact ⟨apart_cancelled, self (markMsq_mem.trans spentBy_mem) fun hm => (strandsBack hm).trans spentBy_strands⟩
  case inr.inr.inr.inl =>
    exact ⟨apart_cancelled.emit (congrArg Faults.regs (markMsq_flt.trans spentBy_flt)) rfl rfl,
      self (markMsq_mem.trans spentBy_mem) fun hm => (strandsBack hm).trans spentBy_strands⟩
  case inr.inr.inr.inr.inl =>
    have hu := hbody ts
    rw [hr] at hu
    obtain ⟨hbeside, hR⟩ := hu
    exact ⟨hbeside.apart_takeFault, u, hR, takeFault_mem, fun _ => takeFault_strands⟩
  case inr.inr.inr.inr.inr =>
    have hu := hbody ts
    rw [hr] at hu
    obtain ⟨hbeside, hR⟩ := hu
    exact ⟨hbeside.apart_fires, u, hR, spentBy_mem, fun _ => spentBy_strands⟩


/-! ## Dataflow words -/

/-- Nothing of memory or of the strands has changed, nor anything else that a body may not touch. -/
def Still (s u : State) : Prop := Beside s u ∧ u.mem = s.mem ∧ u.strands = s.strands

theorem Still.refl : Still s s := ⟨.refl, rfl, rfl⟩
theorem still_spent : Still s s.spent := ⟨.of_mem rfl, rfl, rfl⟩

theorem still_wrote {vco : BitVec 5} {lanes : Nat} : Still s (s.wrote s.cur.node vco lanes) := by
  refine ⟨beside_wrote, ?_, ?_⟩ <;>
  · unfold State.wrote
    split <;> rfl

/-- A weaker condition holds too. -/
theorem ResKeeps.imp {R S : State → Prop} {r : Res} (hr : ResKeeps R r) (hRS : ∀ u, R u → S u) : ResKeeps S r := by
  cases r with
  | fires u | stops u => exact hRS u hr
  | waits | faults => exact trivial

theorem ResKeeps.ite {R : State → Prop} {c : Prop} [Decidable c] {p q : Res} (hp : ResKeeps R p) (hq : ResKeeps R q) :
    ResKeeps R (if c then p else q) := by
  split
  exacts [hp, hq]

/-- The outcome is one firing with number `msq` in the memory sequence, whose body answers only states that meet `R`. -/
def FiresWithin (R : State → Prop) (s : State) (msq : Nat) (o : Host.Outcome State Fault Refusal) : Prop :=
  ∃ h sl pre body, o = s.fire h sl msq pre body ∧ ∀ ts, ResKeeps R (body s ts)

theorem intWord_firesWithin {a : FmtA} {base : List Nat} {l : Limits} {op : LaneEnv → List Lane → Nat} :
    FiresWithin (Still s) s 127 (s.intWord h a base l op) := ⟨_, _, _, _, State.intWord.eq_def .., fun _ => Still.refl⟩

theorem floatWord_firesWithin {a : FmtA} {base : List Nat} {op : Rnd → List Val → Val} :
    FiresWithin (Still s) s 127 (s.floatWord h a base op) := ⟨_, _, _, _, State.floatWord.eq_def .., fun _ => still_wrote⟩

theorem execIdx_firesWithin {a : FmtA} : FiresWithin (Still s) s 127 (execIdx h a s) := by
  unfold execIdx
  exact ⟨_, _, _, _, rfl, fun _ => .ite trivial Still.refl⟩

theorem execRdk_firesWithin {p : BitVec 30} : FiresWithin (Still s) s 127 (execRdk h p s) := by
  unfold execRdk
  refine ⟨_, _, _, _, rfl, fun _ => ?_⟩
  split
  · exact .ite trivial Still.refl
  · exact trivial

theorem execRdsr_firesWithin {p : BitVec 30} : FiresWithin (Still s) s 127 (execRdsr h p s) := by
  refine ⟨_, _, _, _, rfl, fun _ => ?_⟩
  split
  exacts [trivial, still_spent]

theorem execCntrLink_firesWithin {x : FmtX} : FiresWithin (Still s) s 127 (execCntrLink h x s) := by
  refine ⟨_, _, _, _, rfl, fun _ => ?_⟩
  change Still s (if _ then s else { s with ctr := s.ctr + 5 })
  split
  exacts [Still.refl, ⟨.of_mem rfl, rfl, rfl⟩]

/-- Every dataflow word is one firing whose body keeps memory and strands. -/
theorem dataflow_firesWithin {i : Instr} (hi : dataflow i = true) : FiresWithin (Still s) s 127 (exec i s) := by
  cases i with
  | ineg | iabs | inot | iclz | ipopc | iadd | isub | imul | imulh | idiv | irem | imin | imax | iand | ior | ixor | ishl | ishr | isar
  | irot | ibfx | addi | imad | ibfi | lea | aff | clamp =>
    exact intWord_firesWithin
  | fabs | fneg | frcp | frsq | fex2 | flg2 | ftnh | frnd | fadd | fsub | fmul | fmin | fmax | fexs | fscl | fma =>
    exact floatWord_firesWithin
  | fcvt | itof | ftoi =>
    unfold exec
    dsimp only
    exact ⟨_, _, _, _, State.cvtWord.eq_def .., fun _ => still_wrote⟩
  | movCopy | vunpk | hdr | qnt | iscr | movi | movhi | fan | drop | cnst | vcget | vdclDeclare | strm | cntrRead | cntrStall | icmp
  | fcmp | vbcst | vlane | sclx | vshuf | vcmpr | vexpd | bnds | steer | plog | xpk | sel | ord | merge =>
    unfold exec
    dsimp only
    dsimp only [execMovCopy, execVunpk, execHdr, execQnt, execIscr, execMovi, execMovhi, execFan, execDrop, execCnst, execVcget,
      execVdclDeclare, execStrm, execCntrRead, execCntrStall, execIcmp, execFcmp, execVbcst, execVlane, execSclx, execVshuf, execVcmpr,
      execVexpd, execBnds, execSteer, execPlog, execXpk, execSel, execOrd, execMerge]
    exact ⟨_, _, _, _, rfl, fun _ => Still.refl⟩
  -- the words that write their elements under a header
  | movImmediate | vred | vscan | viota | i4xp | i4xu | vdot | vpik | dqnt =>
    unfold exec
    dsimp only
    dsimp only [execMovImmediate, execVred, execVscan, execViota, execI4xp, execI4xu, execVdot, execVpik, execDqnt]
    exact ⟨_, _, _, _, rfl, fun _ => still_wrote⟩
  -- those that draw a free value for immediate lanes
  | vselm | vpack =>
    unfold exec
    dsimp only
    dsimp only [execVselm, execVpack]
    refine ⟨_, _, _, _, rfl, fun _ => ?_⟩
    change Still s (if _ then s.spent else s)
    split
    exacts [still_spent, Still.refl]
  | idx => exact execIdx_firesWithin
  | rdk => exact execRdk_firesWithin
  | rdsr => exact execRdsr_firesWithin
  | cntrLink => exact execCntrLink_firesWithin
  | _ => cases hi

end Sys2Proof.Claims

open Sys2Proof Sys2Proof.Machine Sys2Proof.Claims

/-- Settles O52: a firing does around its body what `fire_apart` says, and a dataflow word's body keeps memory and strands. -/
theorem dataflowFrame : Obligations.DataflowFrame := by
  unfold Obligations.DataflowFrame
  intro i s t hi e
  obtain ⟨h, sl, pre, body, hexec, hbody⟩ := dataflow_firesWithin (s := s) hi
  rw [hexec] at e
  obtain ⟨hapart, u, ⟨-, hmem, hstrands⟩, htmem, htstrands⟩ :=
    fire_apart (R := Still s) (fun ts => (hbody ts).imp fun _ hu => ⟨hu.1, hu⟩) .refl e
  exact ⟨hapart, htmem.trans hmem, (htstrands rfl).trans hstrands⟩
end

section
/-! PROOFS. Words whose effect waits: obligation O53. Each holds its effect or queues it, and memory is as it was but for the queue. -/

namespace Sys2Proof.Claims

open Sys2Proof.Machine

variable {s t u : State} {h : Hd} {m : FmtM} {ts : List Tok}

/-- Of memory only the queue of read-modify-writes has changed, and of the rest nothing that a body may not touch. -/
structure Queued (s u : State) : Prop where
  beside : Beside s u
  mem : u.mem = { s.mem with rmwq := u.mem.rmwq, nextSeq := u.mem.nextSeq }

theorem Queued.refl : Queued s s := ⟨.refl, rfl⟩

theorem Queued.trans (hst : Queued s t) (htu : Queued t u) : Queued s u := by
  refine ⟨hst.beside.trans htu.beside, ?_⟩
  have hu := htu.mem
  rw [hst.mem] at hu
  exact hu

theorem Queued.of_mem (hb : Beside s u) (hmem : u.mem = s.mem) : Queued s u := ⟨hb, by rw [hmem]⟩

theorem hold_mem {n : Nat} {w : BitVec 16} {e : Eff} : (s.hold n w e).mem = s.mem := by
  unfold State.hold
  dsimp only
  split <;> rfl

theorem queued_hold {n : Nat} {w : BitVec 16} {e : Eff} : Queued s (s.hold n w e) := .of_mem beside_hold hold_mem
theorem queued_issue : Queued s (s.issue m ts) := .of_mem beside_issue markMsq_mem
theorem queued_rmw {n : Nat} {rd nums : List Nat} : Queued s (s.queueRmw n rd ts nums) := ⟨.of_mem rfl, rfl⟩

theorem execTagxUp_firesWithin {p : BitVec 30} : FiresWithin (Queued s) s 127 (execTagxUp h p s) := by
  refine ⟨_, _, _, _, rfl, fun _ => ?_⟩
  dsimp only
  split
  · exact trivial
  · split
    exacts [queued_hold, trivial]

theorem execThrp_firesWithin {p : BitVec 30} : FiresWithin (Queued s) s 127 (execThrp h p s) := by
  unfold execThrp
  refine ⟨_, _, _, _, rfl, fun _ => ?_⟩
  split
  · exact trivial
  · exact .ite trivial (queued_hold.trans (.of_mem (.of_mem rfl) rfl))

theorem execDcnt_firesWithin {x : FmtX} : FiresWithin (Queued s) s 127 (execDcnt h x s) := by
  unfold execDcnt
  split
  exacts [⟨_, _, _, _, rfl, fun _ => queued_hold⟩, ⟨_, _, _, _, rfl, fun _ => queued_hold⟩]

/-- Every word whose effect waits is one firing whose body holds or queues it. -/
theorem waiting_firesWithin {i : Instr} (hi : waiting i = true) : ∃ msq, FiresWithin (Queued s) s msq (exec i s) := by
  cases i with
  | wrk | cpri | done | resm | eosd | sarm | qfnc | xfer | trdy | exit =>
    unfold exec
    dsimp only
    exact ⟨_, _, _, _, _, rfl, fun _ => queued_hold⟩
  | mswp | mctl | mclr | vdclSystolic | rdci | spfk | sprl | cntrSnap | mlds =>
    unfold exec
    dsimp only
    exact ⟨_, _, _, _, _, rfl, fun _ => queued_rmw⟩
  -- those that fault on a condition of their operand
  | tagf | wrsr | kflt =>
    unfold exec
    dsimp only
    exact ⟨_, _, _, _, _, rfl, fun _ => .ite trivial queued_hold⟩
  -- those that fault or wait on what the strand or the store lacks
  | kdef | kgen | ksid | svc | brb =>
    unfold exec
    dsimp only
    refine ⟨_, _, _, _, _, rfl, fun _ => ?_⟩
    split
    exacts [trivial, queued_hold]
  | fnc | glaze =>
    unfold exec
    dsimp only
    exact ⟨_, _, _, _, _, rfl, fun _ => .ite trivial (queued_hold.trans queued_issue)⟩
  | vcset =>
    unfold exec
    dsimp only
    exact ⟨_, _, _, _, _, rfl, fun _ => .ite Queued.refl queued_hold⟩
  | tagxUp h p => exact ⟨_, execTagxUp_firesWithin (p := p)⟩
  | thrp => exact ⟨_, execThrp_firesWithin⟩
  | dcnt => exact ⟨_, execDcnt_firesWithin⟩
  | _ => cases hi

end Sys2Proof.Claims

open Sys2Proof Sys2Proof.Machine Sys2Proof.Claims

/-- Settles O53: a firing does around its body what `fire_apart` says, and the body of a word whose effect waits only queues. -/
theorem waitingFrame : Obligations.WaitingFrame := by
  unfold Obligations.WaitingFrame
  intro i s t hi e
  obtain ⟨msq, h, sl, pre, body, hexec, hbody⟩ := waiting_firesWithin (s := s) hi
  rw [hexec] at e
  obtain ⟨hapart, u, hu, htmem, -⟩ := fire_apart (R := Queued s) (fun ts => (hbody ts).imp fun _ hu => ⟨hu.beside, hu⟩) .refl e
  rw [htmem]
  exact ⟨hapart, hu.mem⟩
end

section
/-! PROOFS. Memory words as they fire: obligation O54. `Touches` says what an access may do to memory; it is threaded through the memory
functions in the order of the model, one lemma each (that of `State.f` is `Touches.f`), up to the bodies of the words. -/

namespace Sys2Proof.Claims

open Sys2Proof.Machine

variable {s t u : State} {h : Hd} {m : FmtM} {st : Strand} {ts : List Tok}

/-! ## What an access may do to memory -/

/-- No plain line of the L2 holds bytes that memory lacks. -/
def NoDirty (s : State) : Prop := ∀ e ∈ s.mem.plain, e.2.dirty = false

/-- From `s` to `t` the banks, the released effects and the moved frames have stayed, and nothing that a body may not touch has changed. -/
structure LeavesBanks (s t : State) : Prop where
  beside : Beside s t
  bank : t.mem.bank = s.mem.bank
  pend : t.mem.pend = s.mem.pend
  redirect : t.mem.redirect = s.mem.redirect

/-- Memory has stayed too if there was no dirty line, and no line has become dirty. -/
structure Touches (s t : State) : Prop extends LeavesBanks s t where
  clean : NoDirty s → t.mem.phys = s.mem.phys ∧ NoDirty t

/-- A change of memory other than in its bytes, the banks, the released effects, the moved frames and the plain lines. -/
def Marks (t u : State) : Prop :=
  u = { t with ctr := u.ctr, mem := { u.mem with
    bank := t.mem.bank, pend := t.mem.pend, redirect := t.mem.redirect, phys := t.mem.phys, plain := t.mem.plain } }

theorem LeavesBanks.refl : LeavesBanks s s := ⟨.refl, rfl, rfl, rfl⟩

theorem LeavesBanks.trans (hst : LeavesBanks s t) (htu : LeavesBanks t u) : LeavesBanks s u :=
  ⟨hst.beside.trans htu.beside, htu.bank.trans hst.bank, htu.pend.trans hst.pend, htu.redirect.trans hst.redirect⟩

theorem Touches.refl : Touches s s := ⟨.refl, fun hc => ⟨rfl, hc⟩⟩

theorem Touches.trans (hst : Touches s t) (htu : Touches t u) : Touches s u := by
  refine ⟨hst.toLeavesBanks.trans htu.toLeavesBanks, fun hc => ?_⟩
  obtain ⟨hphys, ht⟩ := hst.clean hc
  obtain ⟨hphys', hu⟩ := htu.clean ht
  exact ⟨hphys'.trans hphys, hu⟩

/-- A change beside memory's bytes and lines. -/
theorem touches_of_mem (hb : Beside t u) (hbank : u.mem.bank = t.mem.bank) (hpend : u.mem.pend = t.mem.pend)
    (hredirect : u.mem.redirect = t.mem.redirect) (hphys : u.mem.phys = t.mem.phys) (hplain : u.mem.plain = t.mem.plain) : Touches t u :=
  ⟨⟨hb, hbank, hpend, hredirect⟩, fun hc => ⟨hphys, fun e he => hc e (hplain ▸ he)⟩⟩

theorem Touches.marks (ht : Touches s t) (e : Marks t u) : Touches s u := by
  refine ht.trans (touches_of_mem (.of_mem ?_) ?_ ?_ ?_ ?_ ?_) <;> rw [e]

theorem Touches.sameMem (ht : Touches s t) (hb : Beside t u) (hmem : u.mem = t.mem) : Touches s u := by
  refine ht.trans (touches_of_mem hb ?_ ?_ ?_ ?_ ?_) <;> rw [hmem]

theorem Touches.of_snd {α : Type} {p : α × State} {x : α} (hp : Touches s p.2) (e : p = (x, t)) : Touches s t := by
  subst e
  exact hp

theorem Touches.ite {c : Prop} [Decidable c] (ht : Touches s t) (hu : Touches s u) : Touches s (if c then t else u) := by
  split
  exacts [ht, hu]

theorem Touches.ite_snd {α : Type} {c : Prop} [Decidable c] {p q : α × State} (hp : Touches s p.2) (hq : Touches s q.2) :
    Touches s (if c then p else q).2 := by
  split
  exacts [hp, hq]

theorem Tab.mem_of_find {α : Type} {k : Nat} {v : α} {l : Tab α} (e : Tab.find k l = some v) : (k, v) ∈ l := by
  induction l with
  | nil => cases e
  | cons x l ih =>
    obtain ⟨j, w⟩ := x
    rw [Tab.find] at e
    split at e
    · next hj =>
      cases e
      exact hj ▸ List.mem_cons_self
    · exact List.mem_cons_of_mem _ (ih e)

/-! ## Lines, errors and translation -/

theorem Touches.findErrors {secs} (ht : Touches s t) : Touches s (t.findErrors secs) := by
  unfold State.findErrors
  exact .ite ht (ht.marks rfl)

theorem leavesBanks_writeBack {line kidx} : LeavesBanks t (t.writeBack line kidx) := by
  unfold State.writeBack
  split
  · split
    · exact .refl
    · extract_lets image u
      have hu : LeavesBanks t u := by
        refine List.foldlRecOn _ _ LeavesBanks.refl fun v hv o _ => ?_
        dsimp only
        split
        · exact hv.trans ⟨.of_mem rfl, rfl, rfl, rfl⟩
        · split
          exacts [hv, hv.trans ⟨.of_mem rfl, rfl, rfl, rfl⟩]
      exact hu.trans ⟨.of_mem rfl, rfl, rfl, rfl⟩
  · exact .refl

/-- Nothing is written back where no line is dirty. -/
theorem writeBack_noDirty {line kidx} (hc : NoDirty t) : t.writeBack line kidx = t := by
  unfold State.writeBack
  split
  · next l hl =>
    rw [hc _ (Tab.mem_of_find hl), Bool.not_false, if_pos rfl]
  · rfl

theorem Touches.evict {line kidx} (ht : Touches s t) : Touches s (t.evict line kidx) := by
  refine ht.trans ⟨leavesBanks_writeBack.trans ⟨.of_mem rfl, rfl, rfl, rfl⟩, fun hc => ?_⟩
  unfold State.evict
  rw [writeBack_noDirty hc]
  exact ⟨rfl, fun e he => hc e ((Tab.del_sublist _ _).mem he)⟩

theorem Touches.spent (ht : Touches s t) : Touches s t.spent := ht.marks rfl

theorem Touches.mayEvict {line kidx} (ht : Touches s t) : Touches s (t.mayEvict line kidx) := by
  unfold State.mayEvict
  exact .ite ht (.ite ht.spent.evict ht.spent)

theorem Touches.fillL2 {line} {l : PlainLine} (hl : l.dirty = false) (ht : Touches s t) : Touches s (t.fillL2 line l) := by
  have enters : ∀ {v : State}, Touches s v → Touches s { v with mem := { v.mem with plain := Tab.ins line l v.mem.plain } } := by
    refine fun hv => hv.trans ⟨⟨.of_mem rfl, rfl, rfl, rfl⟩, fun hc => ⟨rfl, fun e he => ?_⟩⟩
    rcases Tab.mem_ins he with rfl | he
    exacts [hl, hc e he]
  unfold State.fillL2
  exact enters (.ite ht ht.spent.evict)

theorem Touches.plainLine {a line} (ht : Touches s t) : Touches s (t.plainLine a line).2 := by
  unfold State.plainLine
  dsimp only
  split
  · exact ht.mayEvict
  split
  · exact ht.mayEvict.findErrors
  · exact .ite (ht.mayEvict.findErrors.fillL2 rfl) ht.mayEvict.findErrors

theorem Touches.addTlb {x} (ht : Touches s t) : Touches s (t.addTlb x) := by
  unfold State.addTlb
  dsimp only
  refine .ite (ht.marks rfl) ?_
  split
  exacts [ht.marks rfl, ht]

theorem Touches.lookup {die wafer part stamp va} (ht : Touches s t) : Touches s (t.lookup die wafer part stamp va).2 := by
  unfold State.lookup
  extract_lets
  split
  · exact .ite_snd (.ite ht ht.spent) ht.spent
  · split
    exacts [ht.addTlb.addTlb, ht]

theorem Touches.translate {die wafer part stamp va write} (ht : Touches s t) :
    Touches s (t.translate die wafer part stamp va write).2 := by
  unfold State.translate
  refine .ite_snd ht ?_
  split
  · exact (ht.lookup.of_snd ‹_›).findErrors
  · have hl := ht.lookup.of_snd ‹_›
    exact .ite_snd (hl.marks rfl) (.ite_snd (hl.marks rfl) hl)

theorem Touches.access {n space ea size write op} (ht : Touches s t) : Touches s (t.access st n space ea size write op).2 := by
  unfold State.access
  refine .ite_snd ht (.ite_snd ht ?_)
  split
  · exact ht.translate.of_snd ‹_›
  · have hu := ht.translate.of_snd ‹_›
    exact .ite_snd hu (.ite_snd hu (.ite_snd hu hu))

/-! ## Reads -/

theorem Touches.readLine {a addr n} (ht : Touches s t) : Touches s (t.readLine a addr n).2 := by
  unfold State.readLine
  dsimp only
  split <;> exact ht.plainLine.of_snd ‹_›

theorem Touches.readLines {a addr n} (ht : Touches s t) : Touches s (t.readLines a addr n).2 := by
  unfold State.readLines
  refine .ite_snd ht.readLine ?_
  split
  · exact ht.readLine.of_snd ‹_›
  · have hu := ht.readLine.of_snd ‹_›
    split <;> exact hu.readLine.of_snd ‹_›

theorem Touches.readHome {a n} (ht : Touches s t) : Touches s (t.readHome a n).2 := by
  unfold State.readHome
  exact .ite_snd ht (.ite_snd (.ite_snd ht ht.spent) (.ite_snd ht.readLines ht.findErrors))

theorem Touches.wholeLine {a line} (ht : Touches s t) : Touches s (t.wholeLine a line).2 := by
  unfold State.wholeLine
  exact .ite_snd ht.plainLine ht.findErrors

theorem Touches.addCopy {c} (ht : Touches s t) : Touches s (t.addCopy c) := ht.marks rfl

theorem Touches.readScoped {n a len scope} (ht : Touches s t) : Touches s (t.readScoped st n a len scope).2 := by
  unfold State.readScoped
  extract_lets line wlc rdc hit
  refine .ite_snd ht.readHome (.ite_snd ht.readHome ?_)
  clear_value hit
  split
  · exact .ite_snd ht.spent ht.spent.readHome
  split
  · have hu := ht.readHome.of_snd ‹_›
    extract_lets into
    refine .ite_snd hu.spent ?_
    split
    · exact List.foldlRecOn _ _ (hu.spent.wholeLine.of_snd ‹_›) fun _ hv _ _ => hv.addCopy
    · exact hu.spent.wholeLine.of_snd ‹_›
  · exact ht.readHome

theorem Touches.loadBytes {a len} (ht : Touches s t) : Touches s (t.loadBytes st m ts a len).2 := by
  unfold State.loadBytes
  split
  · exact ht.readScoped.of_snd ‹_›
  · exact ht.readScoped

theorem Touches.readBeats {a fuel i} (ht : Touches s t) : Touches s (t.readBeats st m ts a fuel i).2 := by
  induction fuel generalizing t i with
  | zero => exact ht
  | succ fuel ih =>
    unfold State.readBeats
    refine .ite_snd ht ?_
    split
    · exact ht.loadBytes.of_snd ‹_›
    · have hu := ih (i := i + 1) (ht.loadBytes.of_snd ‹_›)
      split
      exacts [hu.of_snd ‹_›, hu]

theorem Touches.rangeFault {va fuel left} (ht : Touches s t) : Touches s (t.rangeFault st va fuel left).2 := by
  induction fuel generalizing t va left with
  | zero => exact ht
  | succ fuel ih =>
    unfold State.rangeFault
    refine .ite_snd ht ?_
    split
    · exact ht.translate.of_snd ‹_›
    · exact ih (ht.translate.of_snd ‹_›)

theorem Touches.remoteAcc {n ea write op} (ht : Touches s t) : Touches s (t.remoteAcc st n m ea write op).2 := by
  unfold State.remoteAcc
  split
  · exact ht.access.of_snd ‹_›
  · have hu := ht.access.of_snd ‹_›
    exact .ite_snd hu (.ite_snd hu hu)

/-! ## What a body does with its access -/

theorem Touches.issue (ht : Touches s t) : Touches s (t.issue m ts) := ht.sameMem beside_issue markMsq_mem
theorem Touches.hold {n w e} (ht : Touches s t) : Touches s (t.hold n w e) := ht.sameMem beside_hold hold_mem
theorem Touches.queueRmw {n rd nums} (ht : Touches s t) : Touches s (t.queueRmw n rd ts nums) := ht.marks rfl
theorem Touches.respond {n k outs late} (ht : Touches s t) : Touches s (t.respond n k outs late) := ht.marks rfl

/-! ## Bodies of the memory words -/

theorem loadBody_touches {size out} : ResKeeps (Touches s) (s.loadBody m size ts out) := by
  unfold State.loadBody
  dsimp only
  split
  · exact trivial
  refine .ite trivial ?_
  split
  · exact Touches.refl.access.of_snd ‹_›
  have ht := Touches.refl.access.of_snd ‹_›
  refine .ite trivial (.ite ?_ ?_)
  · split
    · exact (ht.mayEvict.readHome.of_snd ‹_›).issue.respond
    · exact trivial
  · split
    · exact (ht.loadBytes.of_snd ‹_›).issue.respond
    · exact ht.loadBytes.of_snd ‹_›

theorem storeBody_touches {size bytes} : ResKeeps (Touches s) (s.storeBody m size ts bytes) := by
  unfold State.storeBody
  dsimp only
  split
  · exact trivial
  refine .ite trivial ?_
  split
  · exact Touches.refl.access.of_snd ‹_›
  · exact .ite trivial (.ite trivial (Touches.refl.access.of_snd ‹_›).hold.issue)

theorem rmwBody_touches {size rd check} : ResKeeps (Touches s) (s.rmwBody m size rd ts check) := by
  unfold State.rmwBody
  split
  · exact trivial
  refine .ite trivial ?_
  split
  · exact Touches.refl.access.of_snd ‹_›
  split
  · exact trivial
  · exact (Touches.refl.access.of_snd ‹_›).queueRmw.issue

theorem execLd_firesWithin : FiresWithin (Touches s) s m.msq.toNat (execLd h m s) := ⟨_, _, _, _, rfl, fun _ => loadBody_touches⟩

theorem execLdb_firesWithin (hspace : m.space ≠ 5) : FiresWithin (Touches s) s m.msq.toNat (execLdb h m s) := by
  refine ⟨_, _, _, _, rfl, fun _ => ?_⟩
  rw [if_neg hspace]
  exact loadBody_touches

theorem execLdl_firesWithin : FiresWithin (Touches s) s m.msq.toNat (execLdl h m s) := by
  refine ⟨_, _, _, _, rfl, fun _ => ?_⟩
  split
  · exact trivial
  refine .ite trivial ?_
  split
  · exact Touches.refl.access.of_snd ‹_›
  refine .ite trivial ?_
  have ht := (Touches.refl (s := s)).access.of_snd ‹_›
  split
  · exact ht.readBeats.of_snd ‹_›
  · exact (ht.readBeats.of_snd ‹_›).issue.respond

theorem execLds_firesWithin : FiresWithin (Touches s) s m.msq.toNat (execLds h m s) := by
  unfold execLds
  refine ⟨_, _, _, _, rfl, fun _ => ?_⟩
  split
  · exact trivial
  refine .ite trivial ?_
  split
  · exact trivial
  · exact .ite trivial Touches.refl.issue.respond

theorem execPref_firesWithin : FiresWithin (Touches s) s m.msq.toNat (execPref h m s) := by
  refine ⟨_, _, _, _, rfl, fun _ => ?_⟩
  split
  · exact trivial
  refine .ite trivial (.ite Touches.refl.issue ?_)
  split
  · exact (Touches.refl.translate.of_snd ‹_›).issue
  · exact Touches.refl.issue

theorem execSt_firesWithin : FiresWithin (Touches s) s m.msq.toNat (execSt h m s) := ⟨_, _, _, _, rfl, fun _ => storeBody_touches⟩
theorem execStnt_firesWithin : FiresWithin (Touches s) s m.msq.toNat (execStnt h m s) := ⟨_, _, _, _, rfl, fun _ => storeBody_touches⟩
theorem execStb_firesWithin : FiresWithin (Touches s) s m.msq.toNat (execStb h m s) := ⟨_, _, _, _, rfl, fun _ => storeBody_touches⟩

theorem execSts_firesWithin : FiresWithin (Touches s) s m.msq.toNat (execSts h m s) := by
  unfold execSts
  refine ⟨_, _, _, _, rfl, fun _ => ?_⟩
  split
  · exact trivial
  refine .ite trivial ?_
  split
  · exact trivial
  · exact .ite trivial Touches.refl.hold.issue

theorem execEnq_firesWithin : FiresWithin (Touches s) s m.msq.toNat (execEnq h m s) := by
  refine ⟨_, _, _, _, rfl, fun _ => ?_⟩
  split
  · exact trivial
  refine .ite trivial ?_
  split
  · exact Touches.refl.access.of_snd ‹_›
  · exact .ite trivial (.ite trivial (Touches.refl.access.of_snd ‹_›).hold.issue)

theorem execDeq_firesWithin : FiresWithin (Touches s) s m.msq.toNat (execDeq h m s) := ⟨_, _, _, _, rfl, fun _ => rmwBody_touches⟩
theorem execAtom_firesWithin : FiresWithin (Touches s) s m.msq.toNat (execAtom h m s) := ⟨_, _, _, _, rfl, fun _ => rmwBody_touches⟩
theorem execCas_firesWithin : FiresWithin (Touches s) s m.msq.toNat (execCas h m s) := ⟨_, _, _, _, rfl, fun _ => rmwBody_touches⟩
theorem execFatom_firesWithin : FiresWithin (Touches s) s m.msq.toNat (execFatom h m s) := ⟨_, _, _, _, rfl, fun _ => rmwBody_touches⟩

theorem execDfnc_firesWithin : FiresWithin (Touches s) s m.msq.toNat (execDfnc h m s) := by
  refine ⟨_, _, _, _, rfl, fun _ => ?_⟩
  split
  · exact trivial
  refine .ite trivial ?_
  split
  · exact Touches.refl.rangeFault.of_snd ‹_›
  · exact (Touches.refl.rangeFault.of_snd ‹_›).hold.issue

theorem execRst_firesWithin : FiresWithin (Touches s) s m.msq.toNat (execRst h m s) := by
  refine ⟨_, _, _, _, rfl, fun _ => ?_⟩
  split
  · exact trivial
  refine .ite trivial ?_
  split
  · exact Touches.refl.remoteAcc.of_snd ‹_›
  · have ht := (Touches.refl (s := s)).remoteAcc.of_snd ‹_›
    exact .ite ht.hold.issue ht.queueRmw.issue

theorem execRatm_firesWithin : FiresWithin (Touches s) s m.msq.toNat (execRatm h m s) := by
  refine ⟨_, _, _, _, rfl, fun _ => ?_⟩
  split
  · exact trivial
  refine .ite trivial ?_
  split
  · exact Touches.refl.remoteAcc.of_snd ‹_›
  · exact (Touches.refl.remoteAcc.of_snd ‹_›).queueRmw.issue

/-- Each memory word is one firing whose body only touches memory. -/
theorem touching_firesWithin {i : Instr} (hi : touching i = true) : ∃ msq, FiresWithin (Touches s) s msq (exec i s) := by
  cases i with
  | ld => exact ⟨_, execLd_firesWithin⟩
  | ldb => exact ⟨_, execLdb_firesWithin (bne_iff_ne.1 hi)⟩
  | ldl => exact ⟨_, execLdl_firesWithin⟩
  | lds => exact ⟨_, execLds_firesWithin⟩
  | pref => exact ⟨_, execPref_firesWithin⟩
  | st => exact ⟨_, execSt_firesWithin⟩
  | stnt => exact ⟨_, execStnt_firesWithin⟩
  | stb => exact ⟨_, execStb_firesWithin⟩
  | sts => exact ⟨_, execSts_firesWithin⟩
  | enq => exact ⟨_, execEnq_firesWithin⟩
  | deq => exact ⟨_, execDeq_firesWithin⟩
  | atom => exact ⟨_, execAtom_firesWithin⟩
  | cas => exact ⟨_, execCas_firesWithin⟩
  | fatom => exact ⟨_, execFatom_firesWithin⟩
  | dfnc => exact ⟨_, execDfnc_firesWithin⟩
  | rst => exact ⟨_, execRst_firesWithin⟩
  | ratm => exact ⟨_, execRatm_firesWithin⟩
  | _ => cases hi

end Sys2Proof.Claims

open Sys2Proof Sys2Proof.Machine Sys2Proof.Claims

/-- Settles O54: a memory word's body only touches memory, where a byte can change only as a dirty line is evicted. -/
theorem memoryWordFrame : Obligations.MemoryWordFrame := by
  unfold Obligations.MemoryWordFrame
  intro i s t hi e
  obtain ⟨msq, h, sl, pre, body, hexec, hbody⟩ := touching_firesWithin (s := s) hi
  rw [hexec] at e
  obtain ⟨hapart, u, hu, htmem, -⟩ := fire_apart (R := Touches s) (fun ts => (hbody ts).imp fun _ hu => ⟨hu.beside, hu⟩) .refl e
  rw [htmem]
  exact ⟨hapart, hu.bank, hu.pend, hu.redirect, fun hc => (hu.clean hc).1⟩
end

section
/-! PROOFS. Strands and the scheduler: obligations O20, O36 and O37. The steal form of SPLT answers by what `splitRange` does; each event
of a strand or of the allocator, its guards met, leaves one outcome of its definition. -/

namespace Sys2Proof.Claims

open Sys2Proof.Machine

variable {s t : State} {die task : Nat} {st : Strand}

/-! ## A range split for a thief (R74) -/

section Split
variable {g : Nat} {v : Word}

theorem splitRange_few (hfew : bits v 32 32 - bits v 0 32 < 2 * g) : splitRange g v = (none, v) := if_pos hfew

theorem splitRange_enough (henough : ¬bits v 32 32 - bits v 0 32 < 2 * g) :
    splitRange g v =
      let mid := bits v 0 32 + (bits v 32 32 - bits v 0 32 + 1) / 2
      (some (mid, bits v 32 32), rangeWord (bits v 0 32) mid) := if_neg henough

/-- Two numbers that fit their fields are packed side by side. -/
theorem pack_pair {n m lo hi : Nat} (hlo : lo < 2 ^ n) (hhi : hi < 2 ^ m) : pack [(0, n, lo), (n, m, hi)] = lo + hi * 2 ^ n := by
  simp [pack, Nat.mod_eq_of_lt hlo, Nat.mod_eq_of_lt hhi]

theorem rangeWord_eq {lo hi : Nat} (hlo : lo < 2 ^ 32) (hhi : hi < 2 ^ 32) : rangeWord lo hi = BitVec.ofNat 64 (lo + hi * 2 ^ 32) :=
  congrArg (BitVec.ofNat 64) (pack_pair hlo hhi)

theorem rangeTok_some {x : Tok} {lo hi : Nat} (hlo : lo < 2 ^ 32) (hhi : hi < 2 ^ 32) :
    rangeTok x (some (lo, hi)) = { x with fl := {}, data := BitVec.ofNat 384 (lo + hi * 2 ^ 32), nlane := 1 } := by
  rw [← pack_pair hlo hhi]
  rfl

/-- The holder has answered request `q`: its register holds what `splitRange` keeps, and the thief has what it gives. -/
def stealAnswered (t : State) (p : BitVec 30) (w : BitVec 16) (st : Strand) (q : LTok) (rest : List LTok) : State :=
  let split := splitRange (bits p 0 16) (Tab.get 0 (bits p 16 5) st.k)
  let u := (t.setCarry st.die st.task (bits p 16 5) split.2).markRmw t.cur.node t.cur.key w
  (u.onStrand st.die st.task fun x => { x with steals := rest }).respond q.node q.key [outA (rangeTok q.tok split.1)] false

theorem execSpltSteal_answers {h : Hd} {p : BitVec 30} {ts : List Tok} {q : LTok} {rest : List LTok}
    (ht : t = s.deliverSteal s.cur.node s.cur.key) (hc : CanFire t h (computing [0]) ts) (hhere : t.here = some st)
    (hsettled : t.settled st t.cur.key = true) (hsteals : st.steals = q :: rest) :
    execSpltSteal h p s = .next (fired t (stealAnswered t p (tk ts 0).wave st q rest) h [0]
      [outA (rangeTok (tk ts 0) (splitRange (bits p 0 16) (Tab.get 0 (bits p 16 5) st.k)).1)]) := by
  subst ht
  refine hc.fire (sl := Slots.of [0] [0]) (pre := noPre) rfl ?_
  dsimp only
  rw [hhere]
  dsimp only
  rw [hsettled, Bool.not_true, if_neg Bool.false_ne_true, hsteals]
  rfl

end Split

/-! ## The end of a phase (R37, R53, R113) -/

section Phase
variable (hstrand : s.strand die task = some st)
include hstrand

theorem execPhaseEnd_ends (hended : st.mode = .ended) (hdrained : s.drained st = true) :
    execPhaseEnd die task s = .next (s.endStrand die task (st.done.getD none)) := by
  unfold execPhaseEnd
  rw [hstrand]
  exact if_pos (by rw [hdrained, decide_eq_true hended]; rfl)

theorem execPhaseEnd_over (hmode : st.mode ≠ .ended) (hover : s.phaseOver st = true) :
    execPhaseEnd die task s =
      if s.foldsAsked st then .next ((s.kill die task st.liveKeys).askFolds st) else .next (s.endPhase die task) := by
  unfold execPhaseEnd
  rw [hstrand]
  dsimp only
  rw [decide_eq_false hmode, Bool.false_and, if_neg Bool.false_ne_true, hover, Bool.not_true, if_neg Bool.false_ne_true]

end Phase

/-! ## Loading and flipping a configuration (R64, R65, R373) -/

section Config
variable {j : Nat} {cfg : Word} {acked : List Nat} {age : Nat}

/-- The set's wafers have flipped, and the phase of the slot begins. -/
def flipped (s : State) (st : Strand) (j : Nat) : State := ((st.ctxs j).foldl State.flip1 s).startPhase st.die st.task j

theorem flip_small (hsmall : st.wafers.length ≤ 16) : s.flip st j cfg = flipped s st j := if_pos hsmall

theorem flip_large (hlarge : 16 < st.wafers.length) : s.flip st j cfg = s.setStrand { st with mode := .flipping j cfg [] 0 } :=
  if_neg (by omega)

theorem flipOn_all (hacked : ∀ w ∈ st.wafers, w ∈ acked) (hflip : s.mayFlip st j = true) :
    s.flipOn st j cfg acked age = flipped s st j := by
  have hall : st.wafers.all acked.contains = true := by simpa using hacked
  unfold State.flipOn
  rw [hall, if_pos rfl, hflip, if_pos rfl]
  rfl

/-- A wafer that may acknowledge has not done so, so not all have. -/
theorem flipOn_acknowledges {w : Nat} (hage : age < 1024) (hw : w ∈ st.wafers)
    (hpick : (st.unacked acked age)[s.pick (st.unacked acked age).length]? = some w) :
    s.flipOn st j cfg acked age = s.spent.setStrand { st with mode := .flipping j cfg (acked ++ [w]) age } := by
  have hnew : w ∉ acked := by simpa using (List.mem_filter.1 (List.mem_of_getElem? hpick)).2
  have hall : ¬st.wafers.all acked.contains = true := fun h => hnew (by simpa using List.all_eq_true.1 h w hw)
  unfold State.flipOn
  rw [if_neg hall, if_neg (by omega)]
  dsimp only
  rw [hpick]

variable (hstrand : s.strand die task = some st) (hfrozen : st.frozen = false) (hsaving : st.saving = false)
include hstrand hfrozen hsaving

theorem execConfigLoad_loads {k : Key} (hmode : st.mode = .load j cfg) (hdrained : s.drained st = true) (hl0 : st.l0 = some k) :
    execConfigLoad die task s = .next (s.load st j cfg) := by
  unfold execConfigLoad
  rw [hstrand]
  dsimp only
  rw [hmode]
  dsimp only
  rw [hdrained, hl0, hfrozen, hsaving]
  rfl

theorem execConfigFlip_loaded (hmode : st.mode = .loaded j cfg) (hclashes : s.clashes st j = []) (hflip : s.mayFlip st j = true) :
    execConfigFlip die task s = .next (s.flip st j cfg) := by
  unfold execConfigFlip
  rw [hstrand]
  dsimp only
  rw [hfrozen, hsaving, Bool.or_false, if_neg Bool.false_ne_true, hmode]
  dsimp only
  rw [hclashes, hflip]
  rfl

theorem execConfigFlip_flipping (hmode : st.mode = .flipping j cfg acked age) (hclashes : s.clashes st j = []) :
    execConfigFlip die task s = .next (s.flipOn st j cfg acked age) := by
  unfold execConfigFlip
  rw [hstrand]
  dsimp only
  rw [hfrozen, hsaving, Bool.or_false, if_neg Bool.false_ne_true, hmode]
  dsimp only
  rw [hclashes]
  rfl

theorem execIsolationGateTimeout_fails {w : Nat} (hmode : st.mode = .flipping j cfg acked age) (hage : 1024 ≤ age)
    (hfirst : (st.wafers.find? fun x => !acked.contains x) = some w) :
    execIsolationGateTimeout die task w s = .next
      ((s.dropShadows st j).loadFault st j cfg { kind := 1, cause := 0x16, node := ⟨⟨die, w, st.slotOf j⟩, 0⟩ }) := by
  unfold execIsolationGateTimeout
  rw [hstrand]
  dsimp only
  rw [hmode]
  dsimp only
  rw [hfirst, bne_self_eq_false, hfrozen, hsaving, decide_eq_false (by omega : ¬age < 1024)]
  rfl

theorem execQwaitExpiry_resumes (hmode : st.mode = .cycles 0) :
    execQwaitExpiry die task s = .next (s.setStrand { st with mode := .run, sqpc := st.sqpc + 8 }) := by
  unfold execQwaitExpiry
  rw [hstrand]
  exact if_pos (by rw [hsaving, hfrozen, decide_eq_true hmode]; rfl)

end Config

/-! ## Saving a strand (R63, R71) -/

section Save
variable (hstrand : s.strand die task = some st)
include hstrand

theorem execStrandSave_finishes (hsaving : st.saving = true) (hquiet : s.quiet st = true) (hwaits : s.saveWaits st st.lead = false) :
    execStrandSave die task s = .next (s.finishSave st) := by
  unfold execStrandSave
  rw [hstrand]
  dsimp only
  rw [hsaving, if_pos rfl, hquiet, hwaits]
  rfl

theorem execStrandSave_begins (hsaving : st.saving = false) (hmovable : s.movable st = true) (hplanned : (s.plan die).planned st = true) :
    execStrandSave die task s = .next ((s.plan die).setStrand { st with saving := true }) := by
  unfold execStrandSave
  rw [hstrand]
  dsimp only
  rw [hsaving, if_neg Bool.false_ne_true, hmovable, Bool.not_true, if_neg Bool.false_ne_true, hplanned, if_pos rfl]

end Save

/-! ## The allocator (R62, R73, R366) -/

section Place
variable {r : Ready} {ws slots : List Nat}

/-- A plan is kept beside the tasks' entries. -/
theorem plan_taskEntry (n m : Nat) : (s.plan die).taskEntry n m = s.taskEntry n m := by
  unfold State.plan
  dsimp only
  split
  · split <;> rfl
  · split <;> rfl

theorem execAllocatorPlace_places (hnext : (s.plan die).nextPlace die = some (.onto r ws slots)) (hnew : r.restore = false) :
    execAllocatorPlace die s = .next ((s.plan die).placeNew die r ws slots) := by
  unfold execAllocatorPlace
  dsimp only
  rw [hnext]
  dsimp only
  rw [hnew, if_neg Bool.false_ne_true]

theorem execAllocatorPlace_discards {code : Nat} (hnext : (s.plan die).nextPlace die = some (.discard r code)) :
    execAllocatorPlace die s = .next
      (((s.plan die).takeRecord die r).report { kind := 2, cause := 0x14, code := code, die := die, task := r.task }
        (entPart (s.taskEntry die r.task)) (.launch die r.task)) := by
  unfold execAllocatorPlace
  dsimp only
  rw [hnext, ← plan_taskEntry (die := die)]

theorem execStrandRestore_restores {v : Saved} (hnext : (s.plan die).nextPlace die = some (.onto r ws slots)) (hrestore : r.restore = true)
    (hsaved : (s.plan die).savedOf die r.task = some v) :
    execStrandRestore die r.task s = .next ((s.plan die).restoreOnto v r ws slots) := by
  unfold execStrandRestore
  dsimp only
  rw [hnext, hsaved]
  exact if_pos (by rw [hrestore, decide_eq_true rfl]; rfl)

end Place

/-! ## A written priority (R70) -/

/-- The cells left to the priority write once one more of those it may reach next has it, which one is free. -/
def prioLeft (s : State) (w : PrioWrite) (x : Nat) (l : List Nat) : List Nat :=
  w.left.filter (· != (x :: l).getD (s.pick (l.length + 1)) x)

theorem execPriorityChangeArrival_arrives {n x : Nat} {w : PrioWrite} {l : List Nat} (hw : s.sch.prioq[n]? = some w)
    (hreach : s.mayReach n w = x :: l) :
    execPriorityChangeArrival n s =
      if (prioLeft s w x l).isEmpty then
        .next (({ s.spent with sch := { s.sch with prioq := drop1 n s.sch.prioq } } : State).setPrios (w.ctxs.map fun c => (c, w.prio)))
      else .next { s.spent with sch := { s.sch with prioq := upd (fun y => { y with left := prioLeft s w x l }) n s.sch.prioq } } := by
  unfold execPriorityChangeArrival
  rw [hw]
  dsimp only
  rw [hreach]
  rfl

end Sys2Proof.Claims

open Sys2Proof Sys2Proof.Machine Sys2Proof.Claims

/-- Settles O20: with G ≥ 1 a register whose cur passes hi has few indices left both in the integers and in the model's naturals, and a
middle that is given fits 32 bits as it is at most hi. -/
theorem spltStealAnswers : Obligations.SpltStealAnswers := by
  unfold Obligations.SpltStealAnswers
  intro h p s t ts st q rest hgrain ht hc hhere hsettled hsteals kn cur hi mid few reply
  have hcur : cur < 2 ^ 32 := BitVec.isLt _
  have hhi : hi < 2 ^ 32 := BitVec.isLt _
  have hfires := execSpltSteal_answers ht hc hhere hsettled hsteals (p := p)
  rw [stealAnswered] at hfires
  by_cases hfew : few
  · have hsplit : splitRange (bits p 0 16) kn = (none, kn) := splitRange_few (by change hi - cur < _; omega)
    have hreply : ∀ x, reply x = rangeTok x none := fun x => if_pos hfew
    rw [hsplit] at hfires
    rw [if_pos hfew, hreply, hreply]
    exact hfires
  · have hmid : mid < 2 ^ 32 := by omega
    have hsplit : splitRange (bits p 0 16) kn = (some (mid, hi), rangeWord cur mid) :=
      splitRange_enough (by change ¬hi - cur < _; omega)
    have hreply : ∀ x, reply x = rangeTok x (some (mid, hi)) := fun x => (if_neg hfew).trans (rangeTok_some hmid hhi).symm
    rw [hsplit] at hfires
    rw [if_neg hfew, hreply, hreply, ← rangeWord_eq hcur hmid]
    exact hfires

/-- Settles O36: one lemma for each event of a strand. -/
theorem strandEventsComplete : Obligations.StrandEventsComplete := by
  unfold Obligations.StrandEventsComplete
  intro s die task st hstrand
  refine ⟨?phase, ?ended, ?going, ?finishes, ?begins⟩
  case phase =>
    intro hmode hover
    have hphase := execPhaseEnd_over hstrand hmode hover
    constructor
    · exact fun hfolds => hphase.trans (if_neg (by rw [hfolds]; exact Bool.false_ne_true))
    · exact fun hfolds => hphase.trans (if_pos hfolds)
  case ended => exact fun hended hdrained => execPhaseEnd_ends hstrand hended hdrained
  case going =>
    intro hfrozen hsaving
    refine ⟨?load, ?loaded, ?flipping, ?expiry⟩
    case load => exact fun j cfg k hmode hdrained hl0 => execConfigLoad_loads hstrand hfrozen hsaving hmode hdrained hl0
    case loaded =>
      intro j cfg hmode hclashes hflip
      have hflips := execConfigFlip_loaded hstrand hfrozen hsaving hmode hclashes hflip
      constructor
      · exact fun hsmall => hflips.trans (congrArg Host.Outcome.next (flip_small hsmall))
      · exact fun hlarge => hflips.trans (congrArg Host.Outcome.next (flip_large hlarge))
    case flipping =>
      intro j cfg acked age hmode
      refine ⟨?all, ?one, ?late⟩
      case all =>
        exact fun hclashes hacked hflip =>
          (execConfigFlip_flipping hstrand hfrozen hsaving hmode hclashes).trans (congrArg Host.Outcome.next (flipOn_all hacked hflip))
      case one =>
        exact fun w hclashes hage hw hpick =>
          (execConfigFlip_flipping hstrand hfrozen hsaving hmode hclashes).trans
            (congrArg Host.Outcome.next (flipOn_acknowledges hage hw hpick))
      case late => exact fun w hage hfirst => execIsolationGateTimeout_fails hstrand hfrozen hsaving hmode hage hfirst
    case expiry => exact fun hmode => execQwaitExpiry_resumes hstrand hfrozen hsaving hmode
  case finishes => exact fun hsaving hquiet hwaits => execStrandSave_finishes hstrand hsaving hquiet hwaits
  case begins => exact fun hsaving hmovable hplanned => execStrandSave_begins hstrand hsaving hmovable hplanned

/-- Settles O37: one lemma for each thing the allocator does next; a plan leaves the entry that a refusal's record names. -/
theorem placementEventsComplete : Obligations.PlacementEventsComplete := by
  unfold Obligations.PlacementEventsComplete
  intro s die
  refine ⟨⟨?places, ?discards, ?restores⟩, ?priority⟩
  case places => exact fun r ws slots hnext hnew => execAllocatorPlace_places hnext hnew
  case discards => exact fun r code hnext => execAllocatorPlace_discards hnext
  case restores => exact fun r ws slots v hnext hrestore hsaved => execStrandRestore_restores hnext hrestore hsaved
  case priority =>
    intro n w x l hw hreach left
    have harrives := execPriorityChangeArrival_arrives hw hreach
    constructor
    · exact fun hleft => harrives.trans (if_pos (List.isEmpty_iff.2 hleft))
    · exact fun hleft => harrives.trans (if_neg (mt List.isEmpty_iff.1 hleft))
end

section
/-! PROOFS. The words that collect their tokens, and the state right after reset: obligations O22 and O50. Each collecting word is one
firing on the token that `bySeq` has brought to the front; what it then keeps or asks for is read once, in `gathered_gather`,
`gathered_scatter` and `execColl_takes`. -/

namespace Sys2Proof.Claims

open Sys2Proof.Machine

variable {s t u : State} {h : Hd} {x : FmtX} {ts : List Tok} {k : Kept}

/-! ## Gathers and scatters (R295) -/

/-- A gather's request is whole once its last index token has come. -/
theorem gathered_gather :
    s.gathered false x k = .fires (if k.hasLast = true then asksGather s false x k else s.setKept k) [] := by
  rw [State.gathered, Bool.not_false, Bool.true_or, Bool.and_true]
  rfl

/-- A scatter's needs all its row beats besides. -/
theorem gathered_scatter : s.gathered true x k =
    .fires (if k.hasLast = true ∧ k.rowsNeeded ≤ k.rowsHere then asksGather s true x k else s.setKept k) [] := by
  simp only [State.gathered, Bool.not_true, Bool.false_or, Bool.and_eq_true, decide_eq_true_eq]
  rfl

theorem addIndex_hasLast {q : Tok} {l : List Nat} : (k.addIndex q l).hasLast = q.fl.last := by
  change decide (b2n q.fl.last = 1) = q.fl.last
  cases q.fl.last <;> rfl

theorem withIndex_hasLast : (withIndex s t ts).hasLast = (tk ts 0).fl.last := addIndex_hasLast

/-- The next index token, brought to the front, joins the request. -/
theorem takeIndex_takes {scat : Bool} (hnext : s.bySeq s.cur.node s.cur.key 0 (BitVec.ofNat 16 (came s)) = some t)
    (hc : CanFire t h ⟨indexSlots s, if scat then [0, 1, 2] else [0, 1], indexSlots s, []⟩ ts)
    (hbody : t.gathered scat x (withIndex s t ts) = .fires u []) :
    s.takeIndex h x scat (keptHere s) = .next (fired t u h (indexSlots s) []) := by
  change (match s.bySeq s.cur.node s.cur.key 0 (BitVec.ofNat 16 (came s)) with | none => _ | some _ => _) = _
  rw [hnext]
  exact hc.fire rfl hbody

/-- The next row beat, brought to the front, joins the request. -/
theorem takeRow_takes (hnext : s.bySeq s.cur.node s.cur.key 2 (BitVec.ofNat 16 k.rowsHere) = some t)
    (hc : CanFire t h ⟨[2], [0, 1, 2], [], []⟩ ts) (hbody : t.gathered true x (t.addRow k (tk ts 0)) = .fires u []) :
    s.takeRow h x k = .next (fired t u h [2] []) := by
  rw [State.takeRow, hnext]
  exact hc.fire rfl hbody

/-- While index tokens are to come, SCAT takes the next one as soon as it is there. -/
theorem execScat_index (hopen : ∀ k ∈ keptHere s, k.hasLast = false)
    (hnext : s.bySeq s.cur.node s.cur.key 0 (BitVec.ofNat 16 (came s)) = some t) :
    execScat h x s = s.takeIndex h x true (keptHere s) := by
  unfold execScat
  change (match keptHere s with | none => _ | some _ => _) = _
  cases hk : keptHere s with
  | none => rfl
  | some k =>
    rw [came, hk] at hnext
    change s.bySeq s.cur.node s.cur.key 0 (BitVec.ofNat 16 k.toks.length) = some t at hnext
    have hlast := hopen k hk
    dsimp only
    rw [hlast, hnext, Bool.false_or, Option.isNone_some, if_neg Bool.false_ne_true]

/-- With the last index token come, or the next one not there, SCAT looks for a row beat. -/
theorem execScat_row (hk : keptHere s = some k)
    (hrow : k.hasLast = true ∨ s.bySeq s.cur.node s.cur.key 0 (BitVec.ofNat 16 k.toks.length) = none) :
    execScat h x s = s.takeRow h x k := by
  unfold execScat
  rw [show s.keptOf s.cur.node s.cur.key = some k from hk]
  dsimp only
  rw [if_pos]
  rwa [Bool.or_eq_true, Option.isNone_iff_eq_none]

/-! ## Collectives (R298) -/

/-- The beats a COLL node has, with one more of its vector, whose lanes and format are read in state `t`, when it fires (R87). -/
def withVector (s t : State) (ts : List Tok) : Kept :=
  let k := (keptHere s).getD ⟨s.cur.node, s.cur.key, [], [], []⟩
  { k with toks := k.toks ++ [{ tk ts 0 with data := t.laneData (tk ts 0) }], nums := k.nums ++ [(t.ent (tk ts 0).vc).toNat] }

/-- The whole vector is put into the commit buffer for the collective engine. -/
def asksCollective (t : State) (h : Hd) (x : FmtX) (k : Kept) : State :=
  (t.unkeep t.cur.node t.cur.key).hold 127 (tk k.toks 0).wave
    (.engine 17 (.coll x.id.toNat h.fn (tk k.toks 0).vc (k.nums.map (BitVec.ofNat 32)) k.toks))

theorem execColl_takes (hnext : s.bySeq s.cur.node s.cur.key 0 (BitVec.ofNat 16 (came s)) = some t) (hc : CanFire t h (computing [0]) ts)
    (hcur : t.cur = s.cur) (hformat : collFault t ts = none) :
    execColl h x s = .next (fired t
      (if bits x.aux 0 16 < (withVector s t ts).toks.length then asksCollective t h x (withVector s t ts)
       else t.setKept (withVector s t ts)) h [0] []) := by
  change (match s.bySeq s.cur.node s.cur.key 0 (BitVec.ofNat 16 (came s)) with | none => _ | some _ => _) = _
  rw [hnext]
  refine hc.fire (ifData_none hformat) ?_
  rw [apply_ite (Res.fires · []), asksCollective, hcur]
  rfl

/-! ## Empty tables -/

theorem get_empty {α : Type} (d : α) (n : Nat) : Tab.get d n [] = d := rfl

theorem block_of_noContext (hctx : s.pl.ctx = []) (c : Ctx) : s.block c = none := by
  rw [State.block, State.ctxAt, hctx, get_empty]

end Sys2Proof.Claims

open Sys2Proof Sys2Proof.Machine Sys2Proof.Claims

/-- Settles O22: each word takes the token that `bySeq` finds, and its body tells whether the request is whole. -/
theorem collectingWordsComplete : Obligations.CollectingWordsComplete := by
  unfold Obligations.CollectingWordsComplete
  intro h x s t ts
  refine ⟨?gath, ?index, ?row, ?coll⟩
  case gath =>
    intro hnext hc _
    refine takeIndex_takes (scat := false) hnext hc ?_
    rw [gathered_gather, withIndex_hasLast]
  case index =>
    intro hnext hopen hc _
    refine (execScat_index hopen hnext).trans (takeIndex_takes hnext hc ?_)
    rw [gathered_scatter, withIndex_hasLast]
  case row => exact fun k hk hrow hnext hc _ => (execScat_row hk hrow).trans (takeRow_takes hnext hc gathered_scatter)
  case coll => exact fun hnext hc hcur hformat => execColl_takes hnext hc hcur hformat

/-- Settles O50: at reset every table is empty, so each entry reads as its default. -/
theorem resetState : Obligations.ResetState := by
  unfold Obligations.ResetState
  refine ⟨?vc, rfl, ?phys, ?bank, ?block, rfl, rfl, rfl, rfl, rfl, rfl, rfl, ?counters, rfl, MemCanonical.reset⟩
  case vc => exact fun die wafer cell vc => get_empty ..
  case phys => exact get_empty memDefault
  case bank => exact get_empty memDefault
  case block => exact block_of_noContext rfl
  case counters => exact fun die c => get_empty ..
end

section
/-! PROOFS. The engines of the module: obligations O38 and O39. Each event of a stream engine, of a transfer unit or of the gather network,
its guards met, leaves one outcome of its definition. -/

namespace Sys2Proof.Claims

open Sys2Proof.Machine

variable {s t : State}

/-! ## Stream engines (R149, R234) -/

section Stream
variable {die wafer e i : Nat} {x : Stream} {st : Strand} {u : Tok} {c : Bool} {rest : List (Nat × Tok × Bool)}

/-- The walk once its next beat has been read: the beat is the last that has arrived. -/
def beatRead (x : Stream) (b : Bytes) : Stream :=
  { x with next := x.next + 1, returns := x.returns ++
    [(x.next, { beatTok x.desc x.next with data := beatOf b.bytes, fl := { (beatTok x.desc x.next).fl with poi := b.poi } }, true)] }

theorem requestBeat_reads {b : Bytes} {a : Acc}
    (hread : s.engineRead (st.asker wafer) (st.step != (s.domain st.part).step) (bits x.desc 233 3) (beatAddr x.desc x.next) 48
      = .ok (b, a) t) : s.requestBeat st die wafer e x = t.setStream die wafer e (beatRead x b) := by
  unfold State.requestBeat
  rw [hread]
  rfl

/-- The walk once the oldest beat that had arrived is written: its place in the window is free. -/
def beatWritten (x : Stream) (i : Nat) (rest : List (Nat × Tok × Bool)) : Stream :=
  { x.sentOne i rest with consumed := x.consumed + 1 }

theorem writeBeat_nil (hreturns : x.returns = (i, u, c) :: rest) (hnil : u.fl.nil = true) :
    s.writeBeat st die wafer e x = s.setStream die wafer e (beatWritten x i rest) := by
  unfold State.writeBeat
  rw [hreturns]
  exact if_pos hnil

theorem writeBeat_writes (hreturns : x.returns = (i, u, c) :: rest) (hnil : u.fl.nil = false)
    (hwrite : let n := walkNode die wafer x
      s.engineWrite ⟨st.asker wafer, st.task, st.step, s.locOf st n (x.key.getD Key.zero)⟩ (bits x.desc 233 3) (beatAddr x.desc i)
        (s.rowBytes n u) u.fl.poi (s.rowFmt n u) 0 = .ok () t) :
    s.writeBeat st die wafer e x = t.setStream die wafer e (beatWritten x i rest) := by
  dsimp only at hwrite
  unfold State.writeBeat
  rw [hreturns]
  dsimp only
  rw [hnil, if_neg Bool.false_ne_true, hwrite]
  rfl

/-- The token of a beat that leaves: every lane of its format is valid (R23; log entry 43). -/
def beatSent (s : State) (n : Node) (u : Tok) : Tok :=
  let y : Tok := { u with nlane := allLanes (s.fmtAt n u.vc) }
  { y with fl := crumbFlags (s.fmtAt n y.vc) y }

variable (hx : s.stream die wafer e = x)
include hx

theorem execStreamBeatRequest_requests (hstrand : s.strand die x.task = some st) (hwafer : wafer ∈ st.wafers) (hwrite : x.mayWrite = false)
    (hrequest : x.mayRequest = true) (hfrozen : st.frozen = false) (hsaving : st.saving = false) :
    execStreamBeatRequest die wafer e s = .next (s.requestBeat st die wafer e x) := by
  unfold execStreamBeatRequest
  dsimp only
  rw [hx, hstrand]
  dsimp only
  rw [List.contains_iff_mem.2 hwafer, hwrite, hrequest, hfrozen, hsaving]
  rfl

theorem execStreamBeatRequest_writes (hstrand : s.strand die x.task = some st) (hwafer : wafer ∈ st.wafers) (hwrite : x.mayWrite = true) :
    execStreamBeatRequest die wafer e s = .next (s.writeBeat st die wafer e x) := by
  unfold execStreamBeatRequest
  dsimp only
  rw [hx, hstrand]
  dsimp only
  rw [List.contains_iff_mem.2 hwafer, hwrite]
  rfl

theorem execStreamBeatReturn_leaves {k : Key} (hreturns : x.returns = (i, u, c) :: rest) (hkey : x.key = some k)
    (hwrites : x.writes = false) (hslot : x.slot < 4) (hstrand : s.strandOf (walkNode die wafer x).ctx = some st)
    (hgates : st.gated (walkNode die wafer x).ctx = false) (hpass : s.mayPass (.inr (streamKey die wafer e, i)) = true) :
    execStreamBeatReturn die wafer e s = .next
      (((s.passed (.inr (streamKey die wafer e, i))).setStream die wafer e (x.sentOne i rest)).enterBeat
        ⟨walkNode die wafer x, bits x.desc 211 2, k, beatSent s (walkNode die wafer x) u⟩ (if c then some (x.desc, i) else none)) := by
  unfold execStreamBeatReturn
  dsimp only
  rw [hx, hreturns, hkey]
  dsimp only
  rw [hwrites, decide_eq_false (by omega : ¬4 ≤ x.slot), hstrand, hpass, Option.any_some, hgates]
  rfl

theorem execStreamPendingStart_starts {d : BitVec 256} {k : Key} {slot task : Nat} (hpending : x.pending = some (d, k, slot, task))
    (hover : x.fin = true ∨ x.armed = false) :
    execStreamPendingStart die wafer e s = .next (s.setStream die wafer e (startWalk d k slot task)) := by
  unfold execStreamPendingStart
  dsimp only
  rw [hx, hpending]
  exact if_pos (by simpa using hover)

end Stream

/-! ## Requests whose last element has performed (R147, R295) -/

section Request
variable {die q i : Nat} {task part rdie : Nat} {wafers : List Nat} {l : Loc} {ended : Option (BitVec 32)} {rest : List QEnt}

/-- Every element of a packet is performed, or its page has moved. -/
def transferDone (s : State) (die q : Nat) (b0 : Beat) (i : Nat) : Prop :=
  if packetOp b0 = 2 then i ≠ 0 ∨ ∀ g ∈ s.mem.migs, ¬(g.queue = queueKey die q ∧ g.stage = 1) else packetTotal b0 ≤ i

/-- The test of TRANSFER_COMPLETE is `transferDone`. -/
theorem transferTest_of_done {b0 : Beat} (hdone : transferDone s die q b0 i) :
    (if packetOp b0 = 2 then i != 0 || !(s.mem.migs.any fun g => g.queue = queueKey die q && g.stage = 1) else decide (packetTotal b0 ≤ i))
      = true := by
  unfold transferDone at hdone
  by_cases hmigr : packetOp b0 = 2
  · rw [if_pos hmigr] at hdone ⊢
    simpa using hdone
  · rw [if_neg hmigr] at hdone ⊢
    exact decide_eq_true hdone

variable (hsent : ∀ x ∈ s.pod.sent, ¬(x.kind = 0 ∧ x.node = l.node ∧ x.key = l.key))
  (hremotes : ∀ x ∈ s.pod.remotes, ¬(x.kind = 0 ∧ x.node = l.node ∧ x.key = l.key))

include hsent in
theorem noneSent : (s.pod.sent.any fun x => x.kind = 0 && x.node = l.node && x.key = l.key) = false := by
  simpa using hsent

include hremotes in
theorem noneRemote : (s.pod.remotes.any fun x => x.kind = 0 && x.node = l.node && x.key = l.key) = false := by
  simpa using hremotes

include hsent hremotes

theorem execTransferComplete_completes {b0 b1 : Beat}
    (hqueue : s.queue die q = .op (.xfer b0 b1) rdie task part wafers l true i false ended :: rest) (hdone : transferDone s die q b0 i) :
    execTransferComplete die q s = .next
      (if bit b0 236 then (s.setQueue die q rest).decrement die (bits b0 224 12) 1 else s.setQueue die q rest) := by
  unfold execTransferComplete
  rw [hqueue]
  dsimp only
  rw [transferTest_of_done hdone, noneSent hsent, noneRemote hremotes]
  rfl

theorem execScatterCompletion_completes {aux : BitVec 22} {desc : Beat} {idx : List Nat} {rows : List RowBeat} {tok : Tok}
    (hqueue : s.queue die 16 = .op (.gath true aux desc idx rows tok) rdie task part wafers l true i false ended :: rest)
    (hall : gathTotal desc idx ≤ i) :
    execScatterCompletion die s = .next
      ((s.setQueue die 16 rest).respond l.node l.key [outA (gathEnd tok (gathTotal desc idx))] true) := by
  unfold execScatterCompletion
  rw [hqueue]
  dsimp only
  rw [decide_eq_false (by omega : ¬i < gathTotal desc idx), noneSent hsent, noneRemote hremotes]
  rfl

end Request

/-! ## Migrations (R138, R387) -/

section Migration
variable {n : Nat} {g : Migration} (hmig : s.mem.migs[n]? = some g)
include hmig

theorem execMigrationFinalWindow_ends (hstage : g.stage = 1) :
    execMigrationFinalWindow n s = .next (if s.newFrameFails then s.abandonMigr n g else s.spent.finalWindow n g) := by
  unfold execMigrationFinalWindow
  rw [hmig]
  dsimp only
  rw [hstage, bne_self_eq_false, if_neg Bool.false_ne_true, apply_ite Host.Outcome.next]

/-- The old frame is no longer redirected to, and no byte moves. -/
theorem execMigrationRelease_releases (hstage : g.stage = 2) (hpassed : ∀ st ∈ s.strands, g.stamp ≤ st.stamp) :
    ∃ t, execMigrationRelease n s = .next t ∧ t.mem.migs = drop1 n s.mem.migs ∧
      t.mem.redirect = s.mem.redirect.filter (fun r => r != (g.old, g.new, g.size, g.stamp)) ∧ t.mem.phys = s.mem.phys := by
  have hmay : (g.stage = 2 && s.strands.all fun st => g.stamp ≤ st.stamp) = true := by simpa [hstage] using hpassed
  unfold execMigrationRelease
  rw [hmig]
  exact ⟨_, if_pos hmay, rfl, rfl, rfl⟩

end Migration

/-! ## Rows (R150, R295) -/

theorem execGatherRowReturn_leaves {n : Nat} {r : Row} {st : Strand} (hrow : s.eng.rows[n]? = some r)
    (hstrand : s.strandOf r.node.ctx = some st) (hlive : st.liveAt r.node.ctx r.key = true) (hhere : r.remote = none)
    (hlatch : s.latchEmpty r.node = true) (hbeat : r.out.a = true) :
    execGatherRowReturn n s = .next
      (({ s with eng := { s.eng with rows := drop1 n s.eng.rows } } : State).emit r.node r.key (Hd.ofWord (s.wordAt r.node)) [r.out]) := by
  unfold execGatherRowReturn
  rw [hrow]
  dsimp only
  rw [hstrand]
  dsimp only
  rw [hlive, hhere, hlatch, hbeat]
  rfl

end Sys2Proof.Claims

open Sys2Proof Sys2Proof.Machine Sys2Proof.Claims

/-- Settles O38: a request reads or writes by what the engine holds; each then has one lemma for its outcome. -/
theorem streamEventsComplete : Obligations.StreamEventsComplete := by
  unfold Obligations.StreamEventsComplete
  intro s die wafer e
  refine ⟨?reads, ?writes, ?leaves, ?starts⟩
  case reads =>
    intro st b a t x hstrand hwrite hrequest hfrozen hsaving hwafer hread
    exact (execStreamBeatRequest_requests rfl hstrand hwafer hwrite hrequest hfrozen hsaving).trans
      (congrArg Host.Outcome.next (requestBeat_reads hread))
  case writes =>
    intro st i u c rest t x n hstrand hwafer hwrite hreturns y
    have hwrites := execStreamBeatRequest_writes rfl hstrand hwafer hwrite
    constructor
    · exact fun hnil => hwrites.trans (congrArg Host.Outcome.next (writeBeat_nil hreturns hnil))
    · exact fun hnil hok => hwrites.trans (congrArg Host.Outcome.next (writeBeat_writes hreturns hnil hok))
  case leaves =>
    exact fun i u a rest k st hreturns hkey hwrites hslot hstrand hgates hpass =>
      execStreamBeatReturn_leaves rfl hreturns hkey hwrites hslot hstrand hgates hpass
  case starts => exact fun d k slot task hpending hover => execStreamPendingStart_starts rfl hpending hover

/-- Settles O39: one lemma for each end of a request, a migration, a row and a scatter; a start runs the head of its queue by definition. -/
theorem engineEventsComplete : Obligations.EngineEventsComplete := by
  unfold Obligations.EngineEventsComplete
  intro s n q
  refine ⟨rfl, ?transfer, ?window, ?release, ?row, ?scatter⟩
  case transfer =>
    exact fun b0 b1 r task part wafers l i ended rest hqueue hdone hsent hremotes =>
      execTransferComplete_completes hsent hremotes hqueue hdone
  case window => exact fun g hmig hstage => execMigrationFinalWindow_ends hmig hstage
  case release => exact fun g hmig hstage hpassed => execMigrationRelease_releases hmig hstage hpassed
  case row =>
    exact fun r st hrow hstrand hlive hhere hlatch hbeat => execGatherRowReturn_leaves hrow hstrand hlive hhere hlatch hbeat
  case scatter =>
    exact fun aux desc idx rows t rr task part wafers l i ended rest hqueue hall hsent hremotes =>
      execScatterCompletion_completes hsent hremotes hqueue hall
end

section
/-! PROOFS. Answers, held effects and the ports of stores, registers and sequences: obligations O15 and O56. Each event's guards, met, leave
one outcome of its definition; a released store then writes sector by sector, and each sector takes the store's bytes that fall into it. -/

namespace Sys2Proof.Claims

open Sys2Proof.Machine

variable {s t : State} {n : Nat}

/-! ## Answers that enter a latch (R155, R324) -/

theorem execMemoryResponse_leaves {r : Resp} {st : Strand} (hresp : s.mem.resp[n]? = some r) (hstrand : s.strandOf r.node.ctx = some st)
    (hlive : st.liveAt r.node.ctx r.key = true) (hlatch : s.latchEmpty r.node = true) :
    execMemoryResponse n s = .next
      (let t := ({ s with mem := { s.mem with resp := drop1 n s.mem.resp } } : State).emit r.node r.key (Hd.ofWord (s.wordAt r.node)) r.outs
       if r.late then t.lateDone r.node r.key else t) := by
  unfold execMemoryResponse
  rw [hresp]
  dsimp only
  rw [hstrand]
  dsimp only
  rw [hlive, hlatch]
  rfl

theorem execYldRelease_passes {y : Yielded} {st : Strand} (hyield : s.fab.yielded[n]? = some y) (hstrand : s.strandOf y.node.ctx = some st)
    (hlive : st.liveAt y.node.ctx y.key = true) (hleft : y.left = 0) (hlatch : s.latchEmpty y.node = true)
    (hfrozen : st.frozen = false) (hsaving : st.saving = false) :
    execYldRelease n s = .next (({ s with fab := { s.fab with yielded := drop1 n s.fab.yielded } } : State).emit
      y.node y.key (Hd.ofWord (s.wordAt y.node)) [outBoth y.tok]) := by
  unfold execYldRelease
  rw [hyield]
  dsimp only
  rw [hstrand]
  dsimp only
  rw [hlive, hleft, hlatch, hfrozen, hsaving]
  rfl

/-! ## Released effects (R153, R158, R159, R287) -/

section Pend
variable {p : Pend} (hpend : s.mem.pend[n]? = some p) (hparked : s.parked p = false) (hfenced : s.pendFenced p = false)
include hpend hparked hfenced

theorem execStorePerform_performs (hstuck : p.stuck = false) (hbehind : p.behind (s.mem.pend.take n) = false)
    (hrmw : s.rmwFirst p = false) : execStorePerform n s = .next (s.performStore p (s.mem.pend.take n)) := by
  unfold execStorePerform
  rw [hpend]
  dsimp only
  rw [hstuck, hparked, hfenced, hbehind, hrmw]
  rfl

theorem execFenceComplete_answers {sc : BitVec 2} {tok : Tok} {before : List (Ctx × Key)} (heff : p.eff = .fnc sc tok before)
    (hwaits : s.fenceWaits p before = false) :
    execFenceComplete n s = .next (((s.dropPend p.seq).answerPend p tok).unfence p) := by
  unfold execFenceComplete
  rw [hpend]
  dsimp only
  rw [heff]
  dsimp only
  rw [hparked, hfenced, hwaits]
  rfl

theorem execEngineRelease_releases (hfirst : s.releasedFirst n p = false)
    (hopen : (∃ e d, p.eff = .sarm e d) ∨ s.storesOpen p = false) :
    execEngineRelease n s = .next (s.passOn p) := by
  unfold execEngineRelease
  rw [hpend]
  dsimp only
  rw [hparked, hfenced, hfirst]
  obtain ⟨e, d, hsarm⟩ | hopen := hopen
  · rw [hsarm]
    rfl
  · rw [hopen, Bool.and_false]
    rfl

theorem execDfncCompletion_completes {lo len : Word} {tok : Tok} (heff : p.eff = .dfnc lo len tok)
    (hcell : ∀ q ∈ s.mem.pend.take n, sameCell q.node p.node = false) (hwalks : ∀ va, s.partWalkWaits p.part va = false) :
    execDfncCompletion n s = .next
      (((s.flushRange (bits (s.partEntry p.part) 352 64) (len.toNat / 65536 + 2) lo len.toNat).dropPend p.seq).answerPend p tok) := by
  unfold execDfncCompletion
  rw [hpend]
  dsimp only
  rw [heff]
  dsimp only
  rw [if_neg]
  simp +contextual [hparked, hfenced, hcell, hwalks]

end Pend

/-! ## Ports (R112, R117, R312) -/

theorem execStorePortApply_applies {die wafer sel : Nat} {r : PortReq}
    (hreq : (s.mat.portq.find? fun r => r.store = storeKey die wafer sel) = some r) (hfeed : (s.store (storeKey die wafer sel)).feed = none)
    (hpaged : s.pagedWaits r = false) :
    execStorePortApply die wafer sel s = .next
      (({ s with mat := { s.mat with portq := dropFirst (fun x => x = r) s.mat.portq } } : State).applyPort r) := by
  unfold execStorePortApply
  dsimp only
  rw [hreq]
  dsimp only
  rw [hfeed, hpaged]
  rfl

theorem execThresholdOffer_offers {o : Offer} (hoffer : s.mat.offers[n]? = some o)
    (hfirst : ∀ q ∈ s.mat.offers.take n, ¬(q.die = o.die ∧ q.wafer = o.wafer ∧ q.reg = o.reg ∧ (q.who = none ∨ q.who = o.who)))
    (hsettled : o.who = none ∨ ∃ x k st, o.who = some (x, k) ∧ s.strandOf x.ctx = some st ∧ s.settled st k = true) :
    execThresholdOffer n s = .next (({ s with mat := { s.mat with offers := drop1 n s.mat.offers } } : State).makeOffer o) := by
  have noEarlier : ((s.mat.offers.take n).any fun q =>
      q.die = o.die && q.wafer = o.wafer && q.reg = o.reg && (q.who.isNone || q.who = o.who)) = false := by
    simpa [and_assoc] using hfirst
  unfold execThresholdOffer
  rw [hoffer]
  dsimp only
  rw [noEarlier, if_neg Bool.false_ne_true]
  obtain hwho | ⟨x, k, st, hwho, hstrand, hset⟩ := hsettled
  · rw [hwho]
  · rw [hwho]
    dsimp only
    rw [hstrand]
    exact if_pos hset

theorem execSequencePortApply_appends {q : SeqReq} (hreq : s.pages.seqq[n]? = some q) (hstuck : q.stuck = false)
    (hready : s.allReady = true) (hwaits : q.waits (s.pages.seqq.take n) = false)
    (hgot : (appendPerform q.node q.key q.op).got { s with cur := { s.cur with node := q.node, key := q.key } } q.step = .ok () t) :
    execSequencePortApply n s = .next
      { t with cur := s.cur, pages := { t.pages with seqq := t.pages.seqq.filter fun x => x.seq != q.seq } } := by
  unfold execSequencePortApply
  rw [hreq]
  dsimp only
  rw [hstuck, hready, hwaits, Bool.not_true, Bool.or_self, Bool.or_self, if_neg Bool.false_ne_true]
  dsimp only at hgot
  rw [hgot]

/-! ## A store at its home (R153, R160) -/

/-- Memory is canonical, and no sector of it is poisoned or in error. -/
structure Clean (s : State) : Prop where
  wf : Memory.wf s.mem.phys = true
  poi : s.mem.poi = []
  bad : s.mem.bad = []

/-- Memory of `t` is that of `s` with the bytes of `f` at the addresses in `A`. -/
structure Wrote (f : Nat → Byte) (A : Nat → Prop) (s t : State) : Prop where
  clean : Clean t
  bank : t.mem.bank = s.mem.bank
  written : ∀ x, A x → byteAt t.mem.phys x = f x
  kept : ∀ x, ¬A x → byteAt t.mem.phys x = byteAt s.mem.phys x

/-- The address takes a byte of the write. -/
def Takes (l : List (Nat × Byte)) (x : Nat) : Prop := ∃ b ∈ l, b.1 = x

/-- Every byte of the write is that of `f` at its address. -/
def BytesOf (f : Nat → Byte) (l : List (Nat × Byte)) : Prop := ∀ b ∈ l, b.2 = f b.1

namespace Wrote
variable {f : Nat → Byte} {A B : Nat → Prop} {u : State}

theorem of_nothing (hs : Clean s) (hA : ∀ x, ¬A x) : Wrote f A s s := ⟨hs, rfl, fun x hx => absurd hx (hA x), fun _ _ => rfl⟩

theorem trans (h : Wrote f A s t) (k : Wrote f B t u) : Wrote f (fun x => A x ∨ B x) s u := by
  refine ⟨k.clean, k.bank.trans h.bank, fun x hx => ?_, fun x hx => ?_⟩
  · by_cases hB : B x
    · exact k.written x hB
    · exact (k.kept x hB).trans (h.written x (hx.resolve_right hB))
  · obtain ⟨hA, hB⟩ := not_or.1 hx
    exact (k.kept x hB).trans (h.kept x hA)

theorem congr (h : Wrote f A s t) (hAB : ∀ x, A x ↔ B x) : Wrote f B s t := by
  obtain rfl : A = B := funext fun x => propext (hAB x)
  exact h

end Wrote

section Sector
variable {f : Nat → Byte} {l : List (Nat × Byte)} {x sec top : Nat}

theorem takes_inSector : Takes (inSector sec l) x ↔ Takes l x ∧ sec ≤ x ∧ x < sec + 48 := by
  simp only [Takes, inSector, List.mem_filter, Bool.and_eq_true, decide_eq_true_eq]
  constructor
  · rintro ⟨b, ⟨hb, hin⟩, rfl⟩
    exact ⟨⟨b, hb, rfl⟩, hin⟩
  · rintro ⟨⟨b, hb, rfl⟩, hin⟩
    exact ⟨b, ⟨hb, hin⟩, rfl⟩

theorem any_eq_true_iff_takes : (l.any fun b => b.1 = x) = true ↔ Takes l x := by
  simp [Takes, List.any_eq_true]

theorem BytesOf.inSector (hl : BytesOf f l) : BytesOf f (inSector sec l) := fun b hb => hl b (List.mem_of_mem_filter hb)

theorem BytesOf.find? (hl : BytesOf f l) (hx : Takes l x) : ((l.find? fun b => b.1 = x).map (·.2)) = some (f x) := by
  obtain ⟨b, hb⟩ : ∃ b, l.find? (fun b => b.1 = x) = some b := by
    rw [← Option.isSome_iff_exists, List.find?_isSome]
    simpa [Takes] using hx
  have hbx : b.1 = x := by simpa using List.find?_some hb
  rw [hb, Option.map_some, hl b (List.mem_of_find?_eq_some hb), hbx]

/-- Where bytes for one address agree, it does not matter which is the last. -/
theorem BytesOf.byteAt_memPut {m : List Host.Cell} (hm : Memory.wf m = true) (hl : BytesOf f l) :
    (Takes l x → byteAt (memPut m l) x = f x) ∧ (¬Takes l x → byteAt (memPut m l) x = byteAt m x) := by
  simp only [byteAt, get_memPut hm]
  cases hlast : (l.filter fun b => b.1 = x).getLast? with
  | none =>
    have hno : ¬Takes l x := by
      rw [List.getLast?_eq_none_iff, List.filter_eq_nil_iff] at hlast
      simpa only [Takes, not_exists, not_and, decide_eq_true_eq] using hlast
    exact ⟨fun hx => absurd hx hno, fun _ => rfl⟩
  | some b =>
    obtain ⟨hb, hbx⟩ := List.mem_filter.1 (List.mem_of_getLast? hlast)
    have hbx : b.1 = x := by simpa using hbx
    exact ⟨fun _ => hbx ▸ hl b hb, fun hx => absurd ⟨b, hb, hbx⟩ hx⟩

/-- A sector put takes the data up to the end of its page. -/
theorem putSector_wrote {data : List Byte} {cv : Bool} {kidx : BitVec 8} (hs : Clean s)
    (hdata : ∀ y, sec ≤ y → y < sec + min (top - sec) data.length → data.getD (y - sec) 0 = f y) :
    Wrote f (fun y => sec ≤ y ∧ y < sec + min (top - sec) data.length) s (s.putSector sec top data cv kidx) := by
  obtain ⟨hwf, hpoi, hbad⟩ := hs
  have byte := fun y => get_memWrite (a := sec) (j := y) (bs := data.take (top - sec)) hwf
  simp only [List.length_take] at byte
  refine ⟨⟨memWrite_wf hwf, by simp [State.putSector, State.setPoi, hpoi], by simp [State.putSector, State.setPoi, hbad]⟩, rfl,
    fun y hy => ?_, fun y hy => (byte y).trans (if_neg hy)⟩
  obtain ⟨hlo, hhi⟩ := hy
  calc
    byteAt (memWrite s.mem.phys sec (data.take (top - sec))) y = (data.take (top - sec)).getD (y - sec) 0 :=
      (byte y).trans (if_pos ⟨hlo, hhi⟩)
    _ = data.getD (y - sec) 0 := by
      rw [List.getD_eq_getElem?_getD, List.getElem?_take_of_lt (by omega), List.getD_eq_getElem?_getD]
    _ = f y := hdata y hlo hhi

/-- The data of a whole sector, where the write covers it. -/
theorem BytesOf.sector_getD (hl : BytesOf f l) (hlo : sec ≤ x) (hhi : x < sec + 48) (hx : Takes l x) :
    ((List.range 48).map fun i => ((l.find? fun b => b.1 = sec + i).map (·.2)).getD 0).getD (x - sec) 0 = f x := by
  have hfind : (l.find? fun b => b.1 = sec + (x - sec)).map (·.2) = some (f x) := by
    rw [Nat.add_sub_cancel' hlo]
    exact hl.find? hx
  rw [List.getD_eq_getElem?_getD, List.getElem?_map, List.getElem?_range (by omega), Option.map_some, hfind]
  rfl

/-- One sector takes the bytes of the write that fall into it, whether the write covers it whole or in part. -/
theorem writeSector_wrote {a : Acc} (hs : Clean s) (hl : BytesOf f l) (htop : ∀ y, Takes l y → y < top) :
    Wrote f (Takes (inSector sec l)) s (s.writeSector a top sec l false) := by
  unfold State.writeSector
  dsimp only
  rw [if_neg Bool.false_ne_true]
  split
  case isTrue whole =>
    have covered : ∀ y, sec ≤ y → y < sec + min (top - sec) 48 → Takes (inSector sec l) y := by
      intro y hlo hhi
      have := List.all_eq_true.1 whole (y - sec) (List.mem_range.2 (by omega))
      rw [Nat.add_sub_cancel' hlo] at this
      exact any_eq_true_iff_takes.1 this
    have inside : ∀ y, Takes (inSector sec l) y → sec ≤ y ∧ y < sec + min (top - sec) 48 := by
      intro y hy
      obtain ⟨hy, hlo, hhi⟩ := takes_inSector.1 hy
      have := htop y hy
      omega
    refine (putSector_wrote hs ?_).congr ?_ <;> rw [List.length_map, List.length_range]
    · exact fun y hlo hhi => hl.inSector.sector_getD hlo (by omega) (covered y hlo hhi)
    · exact fun y => ⟨fun ⟨hlo, hhi⟩ => covered y hlo hhi, inside y⟩
  case isFalse =>
    rw [if_neg (by simp [hs.bad]), if_neg (by simp [hs.poi])]
    have put := fun y => (hl.inSector (sec := sec)).byteAt_memPut (x := y) hs.wf
    exact ⟨⟨memPut_wf hs.wf, hs.poi, hs.bad⟩, rfl, fun y => (put y).1, fun y => (put y).2⟩

/-- Sector after sector, as a store of no poisoned datum is made. -/
theorem writeSectors_wrote {a : Acc} {secs : List Nat} (hs : Clean s) (hl : BytesOf f l) (htop : ∀ y, Takes l y → y < top) :
    Wrote f (fun y => ∃ sec ∈ secs, Takes (inSector sec l) y) s (secs.foldl (fun s sec => s.writeSector a top sec l false) s) := by
  induction secs generalizing s with
  | nil => exact .of_nothing hs (by simp)
  | cons sec secs ih =>
    have first := writeSector_wrote (a := a) (sec := sec) hs hl htop
    exact (first.trans (ih first.clean)).congr (by simp)

end Sector

theorem mem_addNew {l : List Nat} {x y : Nat} : y ∈ addNew l x ↔ y ∈ l ∨ y = x := by
  unfold addNew
  split
  case isTrue h => exact ⟨.inl, fun hy => hy.elim id fun hy => hy ▸ List.contains_iff_mem.1 h⟩
  case isFalse => simp

theorem mem_foldl_addNew {l acc : List Nat} {y : Nat} : y ∈ l.foldl addNew acc ↔ y ∈ acc ∨ y ∈ l := by
  induction l generalizing acc with
  | nil => simp
  | cons x l ih => rw [List.foldl_cons, ih, mem_addNew, List.mem_cons, or_assoc]

theorem home_of_no_redirect (hredirect : s.mem.redirect = []) (x : Nat) : s.home x = x := by
  rw [State.home, hredirect]
  rfl

/-- Each byte of a write lies in one of its sectors. -/
theorem exists_sector_takes_iff {base x : Nat} {l : List (Nat × Byte)} (hbase : ∀ y, Takes l y → base ≤ y) :
    (∃ sec ∈ (l.map fun b => base + (b.1 - base) / 48 * 48).foldl addNew [], Takes (inSector sec l) x) ↔ Takes l x := by
  constructor
  · rintro ⟨sec, -, hx⟩
    exact (takes_inSector.1 hx).1
  · rintro ⟨b, hb, rfl⟩
    have hlo := hbase b.1 ⟨b, hb, rfl⟩
    refine ⟨base + (b.1 - base) / 48 * 48, mem_foldl_addNew.2 (.inr (List.mem_map.2 ⟨b, hb, rfl⟩)),
      takes_inSector.2 ⟨⟨b, hb, rfl⟩, ?_⟩⟩
    omega

section Home
variable {die wafer : Nat} {a : Acc} {l : List (Nat × Byte)} {poi : Bool}

theorem writeHome_bank (hbank : a.bank = true) :
    s.writeHome die wafer a l poi = { s with mem := { s.mem with bank := memPut s.mem.bank l } } := if_pos hbank

/-- The model writes nothing to a page of another module here (log entry 20). -/
theorem writeHome_elsewhere (hbank : a.bank = false) (hmod : a.hmod ≠ s.module) : s.writeHome die wafer a l poi = s := by
  unfold State.writeHome
  rw [if_neg (by simp [hbank]), if_pos (by simpa using hmod)]

/-- In an ordinary page that no migration moves, a write goes to the sectors of its bytes. -/
theorem writeHome_page (hredirect : s.mem.redirect = []) (hbank : a.bank = false) (hmod : a.hmod = s.module) (hcv : a.cv = false) :
    s.writeHome die wafer a l poi =
      ((l.map fun b => a.base + (b.1 - a.base) / 48 * 48).foldl addNew []).foldl
        (fun s sec => s.writeSector a (a.base + a.size) sec l poi)
        { s with mem := { s.mem with copies := s.updateCopies die wafer l poi } } := by
  have home : ∀ x, ({ s with mem := { s.mem with copies := s.updateCopies die wafer l poi } } : State).home x = x :=
    home_of_no_redirect hredirect
  unfold State.writeHome
  rw [if_neg (by simp [hbank]), if_neg (by simp [hmod])]
  simp only [home, hcv, Bool.false_eq_true, if_false, Prod.mk.eta, List.map_id']

theorem writeHome_wrote {f : Nat → Byte} (hs : Clean s) (hredirect : s.mem.redirect = []) (hbank : a.bank = false)
    (hmod : a.hmod = s.module) (hcv : a.cv = false) (hl : BytesOf f l) (hpage : ∀ y, Takes l y → a.base ≤ y ∧ y < a.base + a.size) :
    Wrote f (Takes l) s (s.writeHome die wafer a l false) := by
  obtain ⟨hwf, hpoi, hbad⟩ := hs
  rw [writeHome_page hredirect hbank hmod hcv]
  obtain ⟨clean, bank, written, kept⟩ :=
    (writeSectors_wrote (s := { s with mem := { s.mem with copies := s.updateCopies die wafer l false } }) (a := a) ⟨hwf, hpoi, hbad⟩ hl
      fun y hy => (hpage y hy).2).congr fun y => exists_sector_takes_iff fun z hz => (hpage z hz).1
  exact ⟨clean, bank, written, kept⟩

theorem performStore_store {p : Pend} {before : List Pend} (heff : p.eff = .store a l poi false) (hready : s.memReady a = true) :
    s.performStore p before = (s.writeHome p.node.ctx.die p.node.ctx.wafer a l poi).dropPend p.seq := by
  unfold State.performStore
  rw [heff]
  dsimp only
  rw [hready]
  rfl

end Home

section Run
variable {a : Acc} {bytes : List Byte}

theorem takes_at_ {x : Nat} : Takes (at_ a bytes) x ↔ a.addr ≤ x ∧ x < a.addr + bytes.length := by
  simp only [Takes, at_, List.mem_map, List.mem_range]
  constructor
  · rintro ⟨_, ⟨i, hi, rfl⟩, rfl⟩
    exact ⟨by simp, by simpa using hi⟩
  · rintro ⟨hlo, hhi⟩
    exact ⟨_, ⟨x - a.addr, by omega, rfl⟩, Nat.add_sub_cancel' hlo⟩

theorem bytesOf_at_ : BytesOf (fun x => bytes.getD (x - a.addr) 0) (at_ a bytes) := by
  intro b hb
  obtain ⟨i, -, rfl⟩ := List.mem_map.1 hb
  simp

end Run

end Sys2Proof.Claims

open Sys2Proof Sys2Proof.Machine Sys2Proof.Claims

/-- Settles O15: one lemma for each event, whose guards are the hypotheses of its clause. -/
theorem memoryEventsComplete : Obligations.MemoryEventsComplete := by
  unfold Obligations.MemoryEventsComplete
  intro s n
  refine ⟨?response, ?store, ?fence, ?release, ?flush, ?port, ?offer, ?append, ?yield⟩
  case response => exact fun r st hresp hstrand hlive hlatch => execMemoryResponse_leaves hresp hstrand hlive hlatch
  case store =>
    exact fun p hpend hstuck hparked hfenced hbehind hrmw => execStorePerform_performs hpend hparked hfenced hstuck hbehind hrmw
  case fence =>
    exact fun p sc tok before hpend heff hparked hfenced hwaits => execFenceComplete_answers hpend hparked hfenced heff hwaits
  case release => exact fun p hpend hparked hfenced hfirst hopen => execEngineRelease_releases hpend hparked hfenced hfirst hopen
  case flush =>
    exact fun p lo len tok hpend heff hparked hfenced hcell hwalks =>
      execDfncCompletion_completes hpend hparked hfenced heff hcell hwalks
  case port => exact fun die wafer sel r hreq hfeed hpaged => execStorePortApply_applies hreq hfeed hpaged
  case offer => exact fun o hoffer hfirst hsettled => execThresholdOffer_offers hoffer hfirst hsettled
  case append => exact fun q t hreq hstuck hready hwaits hgot => execSequencePortApply_appends hreq hstuck hready hwaits hgot
  case yield =>
    exact fun y st hyield hstrand hlive hleft hlatch hfrozen hsaving =>
      execYldRelease_passes hyield hstrand hlive hleft hlatch hfrozen hsaving

/-- Settles O56: the event makes the write at its home, which `memPut` says for a bank and `writeHome_wrote` for an ordinary page. -/
theorem storesPerformExactly : Obligations.StoresPerformExactly := by
  unfold Obligations.StoresPerformExactly
  intro s n p a bs poi hcanonical hpend heff hstuck hparked hfenced hbehind hrmw hready
  obtain ⟨hphys, hbankwf, -⟩ := hcanonical
  refine ⟨_, execStorePerform_performs hpend hparked hfenced hstuck hbehind hrmw, ?_⟩
  rw [performStore_store heff hready]
  refine ⟨?bank, ?elsewhere, ?page⟩
  case bank =>
    intro hbank
    rw [writeHome_bank hbank]
    exact ⟨rfl, fun x => get_memPut hbankwf⟩
  case elsewhere =>
    intro hbank hmod
    rw [writeHome_elsewhere hbank hmod]
    exact ⟨rfl, rfl⟩
  case page =>
    rintro bytes hbank hmod hcv rfl rfl - hlo hhi hredirect hpoi hbad
    have inPage : ∀ y, Takes (at_ a bytes) y → a.base ≤ y ∧ y < a.base + a.size := by
      intro y hy
      have := takes_at_.1 hy
      omega
    obtain ⟨-, bankStays, written, kept⟩ := writeHome_wrote (die := p.node.ctx.die) (wafer := p.node.ctx.wafer)
      ⟨hphys, hpoi, hbad⟩ hredirect hbank hmod hcv bytesOf_at_ inPage
    refine ⟨bankStays, fun x => ?_⟩
    split
    case isTrue hin => exact written x (takes_at_.2 hin)
    case isFalse hout => exact kept x (mt takes_at_.1 hout)
end

section
/-! PROOFS. What joins the modules of a pod: obligations O40 and O41. Each event of the glaze, of a lane group, of recovery or of a collective
does nothing unless its guards hold; one lemma per event says what it does where they do. -/

namespace Sys2Proof.Claims

open Sys2Proof.Machine

variable {s : State} {n : Nat}

/-! ## Writes that reach the glaze buffers (R171, R395) -/

theorem accept_of_room {r : GRec} (hroom : s.bufferFull r = false) :
    s.accept r = (false, withPod s fun p => { p with records := p.records ++ [r] }) := by
  unfold State.accept
  rw [hroom]
  rfl

theorem execGlazeWriteAccept_buffers {x : Sent} (hsent : s.pod.sent[n]? = some x) (hroom : s.bufferFull x.grec = false) :
    execGlazeWriteAccept n s = .next
      (let t := withPod s fun p => { p with sent := drop1 n p.sent, records := p.records ++ [x.grec] }
       if x.kind = 0 then t else t.respond x.node x.key (sentOuts x.kind x.tok x.ans false) x.late) := by
  have hout : ({ s with pod := { s.pod with sent := drop1 n s.pod.sent } } : State).bufferFull x.grec = false := hroom
  unfold execGlazeWriteAccept
  rw [hsent]
  dsimp only
  rw [accept_of_room hout]
  rfl

/-! ## The barrier of a glaze (R173, R174) -/

theorem execGlazeContribution_counts {st : Strand} {g : Glz} {rest : List Glz} (hstrand : s.strands[n]? = some st)
    (hglz : st.glz = g :: rest) (hstep : g.step = (s.domain st.part).step) (hwaits : s.glazeWaits st g = false) :
    execGlazeContribution n s = .next ((s.setStrand { st with glz := rest }).setDomain st.part
      { s.domain st.part with contrib := (s.domain st.part).contrib ++ [(st.die, st.task, g.who)] }) := by
  unfold execGlazeContribution
  rw [hstrand]
  dsimp only
  rw [hglz]
  dsimp only
  rw [hstep, bne_self_eq_false, hwaits]
  rfl

theorem execGlazeBarrierEnter_enters (hdomain : n < 64) (hactive : bit (s.domain n).reg 63 = true) (hout : (s.domain n).entered = false)
    (hbuddy : s.pod.buddy = 0) (hfenced : s.pod.fenced = false) (hall : (s.domain n).npart + 1 ≤ (s.domain n).contrib.length) :
    execGlazeBarrierEnter n s = .next (s.setDomain n { s.domain n with entered := true }) := by
  unfold execGlazeBarrierEnter
  dsimp only
  rw [if_neg]
  simpa [hdomain, hactive, hout, hbuddy, hfenced] using hall

theorem execBarrierFlit_up {lg child : Nat} (hparent : s.treeParent 3 n = some lg) (hall : s.allEntered n = true)
    (hsent : (s.domain n).sentUp = false) :
    execBarrierFlit n child false s = .next ((s.setDomain n { s.domain n with sentUp := true }).sendFlit lg
      (.barrier n false (s.domain n).step (s.domain n).heard) false) := by
  unfold execBarrierFlit
  rw [hparent]
  dsimp only
  rw [hall, hsent]
  rfl

theorem execBarrierFlit_down {c : Nat × Nat} (hchild : c ∈ s.treeChildren 3 n) (hreleased : s.glazeReleased n = true)
    (hnew : c.1 ∉ (s.domain n).down) :
    execBarrierFlit n c.1 true s = .next ((s.setDomain n { s.domain n with down := (s.domain n).down ++ [c.1] }).sendFlit c.1
      (.barrier n true (s.domain n).step 0) false) := by
  have hmay : (s.glazeReleased n && !(s.domain n).down.contains c.1 && (s.treeChildren 3 n).any fun d => d.1 = c.1) = true := by
    have hlinked : ((s.treeChildren 3 n).any fun d => d.1 = c.1) = true := List.any_eq_true.2 ⟨c, hchild, decide_eq_true rfl⟩
    simp [hreleased, hnew, hlinked]
  exact if_pos hmay

theorem execGlazeRelease_releases (hentered : (s.domain n).entered = true) (hreleased : s.glazeReleased n = true)
    (hready : ∀ r ∈ s.pod.records, r.dom = n → parityOf r.step = parityOf (s.domain n).step →
      s.memReady (s.frameAcc n (s.home r.pa)) = true) :
    execGlazeRelease n s = .next (s.releaseGlaze n) := by
  unfold execGlazeRelease
  dsimp only
  rw [hentered, hreleased, if_pos]
  simpa [or_iff_not_imp_left] using hready

/-! ## Flits (R165 to R168, R398) -/

section Flit
variable {lg : Nat} {f : Flit} (hbound : bit (s.link lg).word 63 = true) (hlocked : (s.link lg).training = false)
  (hready : bit s.host.ready (47 + lg / 9) = true)
include hbound hlocked hready

theorem execFlitReceive_asks (hbad : f.fecOk = false ∨ f.seq.toNat ≠ (s.link lg).rx.toNat % 65536) :
    execFlitReceive lg f s = .next (s.askReplay lg) := by
  have hfails : (!f.fecOk || f.seq.toNat != (s.link lg).rx.toNat % 65536) = true := by simpa using hbad
  unfold execFlitReceive
  dsimp only
  rw [hbound, hlocked, hready, hfails]
  rfl

theorem execFlitReceive_takes (hfec : f.fecOk = true) (hseq : f.seq.toNat = (s.link lg).rx.toNat % 65536)
    (hpmac : f.pmac = Config.pmac (Tab.get 0 (bindPart (s.link lg).word) s.host.linkKeys) (flitNonce lg (s.link lg).rx.toNat) (bareFlit f)) :
    execFlitReceive lg f s = .next (if f.last then s.endMessage lg f else s.takeFlit lg f) := by
  unfold execFlitReceive
  dsimp only
  rw [hbound, hlocked, hready, hfec, hseq, bne_self_eq_false, ← hpmac, bne_self_eq_false]
  rfl

end Flit

/-- A message is secure when no flit of it came in the clear. -/
theorem endMessage_of_secure {lg : Nat} {f : Flit} {secure : Bool} (hsecure : secure = (!(s.link lg).clear && f.ciph)) :
    s.endMessage lg f =
      match s.completed lg f with
      | none => s.takeFlit lg f
      | some b =>
        if secure = false ∧ s.carriesSecret (bindPart (s.link lg).word) ((s.link lg).word.extractLsb' 49 8) b = true then s.dropFlit lg 2
        else if s.flitWaits (bindPart (s.link lg).word) b = true then s
        else (s.takeFlit lg f).useMessage lg (bindPart (s.link lg).word) secure b := by
  have hclear : ((s.link lg).clear || !f.ciph) = !secure := by simp [hsecure]
  unfold State.endMessage
  dsimp only
  rw [hclear, Bool.not_not]
  cases s.completed lg f with
  | none => rfl
  | some b => simp only [Bool.and_eq_true, Bool.not_eq_true']

/-! ## Retraining, heartbeats and failed peers (R398, R399, R403) -/

theorem execLaneRetrain_retrains {lg : Nat} (hbound : bit (s.link lg).word 63 = true) :
    execLaneRetrain lg s = .next (s.setLink lg { s.link lg with training := true }) := by
  unfold execLaneRetrain
  dsimp only
  rw [if_pos hbound]

section Retrain
variable {lg : Nat} (htraining : (s.link lg).training = true)
include htraining

theorem execRetrainComplete_locks : execRetrainComplete lg true s = .next
    (s.setLink lg { s.link lg with training := false, failed := 0, replays := [], replay := (s.link lg).kept.length }) := by
  unfold execRetrainComplete
  dsimp only
  rw [htraining]
  rfl

theorem execRetrainComplete_fails (hfailed : (s.link lg).failed < 2) :
    execRetrainComplete lg false s = .next (s.setLink lg { s.link lg with failed := (s.link lg).failed + 1 }) := by
  unfold execRetrainComplete
  dsimp only
  rw [htraining, if_neg (Nat.not_le.2 hfailed)]
  rfl

end Retrain

theorem execHeartbeatSend_sends :
    execHeartbeatSend s = .next ((s.pod.links.filter fun l => bit l.2.word 63 && bits l.2.word 33 3 = 3).foldl
      (fun (s : State) l => s.sendFlit l.1 .heartbeat false) s) := by
  rw [List.foldl_filter]
  rfl

theorem execPeerFailureDetect_declares {peer : Nat} (hsilent : 20 * 1300000 ≤ Tab.get 0 peer s.pod.heard) (hnew : peer ∉ s.pod.peersFailed) :
    execPeerFailureDetect peer s = .next (s.declareFailed peer) := by
  unfold execPeerFailureDetect msCycles
  rw [if_neg]
  simpa [hnew] using hsilent

/-! ## Recovery (R405) -/

/-- What each step of recovery makes of a fenced module. -/
def recovered (s : State) : RecoveryStep → State
  | .fence => s.fenceJob
  | .remap lmod =>
    let t := if bit s.pod.recovery 62 then
        (withPod s fun p => { p with recovery := setBits (setBits p.recovery 40 8 lmod.toNat) 62 1 0 }) else s
    if bit t.pod.recovery 63 then t.copyToBuddy t.sharedLines else t
  | .reload die task => s.relaunch die task
  | .restore => s.sendCopies
  | .resume => (withPod s fun p => { p with fenced := false, peersFailed := [] }).retryPorts

theorem execRecovery_recovers (r : RecoveryStep) (hfenced : s.pod.fenced = true) : execRecovery r s = .next (recovered s r) := by
  unfold execRecovery
  rw [hfenced]
  cases r <;> rfl

/-! ## Collectives (R176, R298) -/

section Collective
variable {c : Coll} {own : List Tok} (hcoll : s.eng.colls[n]? = some c) (hown : c.own = some own)
include hcoll hown

section Contribution
variable (hsent : c.sent = false) (hkids : ∀ l ∈ s.treeChildren 2 c.part, ∃ k ∈ c.kids, k.1 = l.1)
include hsent hkids

/-- What a module contributes once every child's vector has come: nothing when some vector does not agree. -/
theorem execCollectiveContribution_of_complete :
    execCollectiveContribution n s =
      let beats := if c.bad then [] else c.total (fun lg => bits (Tab.get {} lg s.pod.links).word 49 8) own
      match s.treeParent 2 c.part with
      | some lg => .next ((s.setColl n { c with sent := true }).sendFlit lg
          (.collUp c.part c.id c.fn (BitVec.ofNat 5 (fmtOf c.fmt)) beats) (collConf c.fn))
      | none =>
        if s.module.toNat != (s.domain c.part).root then .next s
        else .next ((s.setColl n { c with sent := true, result := some beats }).collDown c beats (!c.bad)) := by
  have hcame : ((s.treeChildren 2 c.part).all fun l => c.kids.any fun k => k.1 = l.1) = true := by
    simpa only [List.all_eq_true, List.any_eq_true, decide_eq_true_eq] using hkids
  unfold execCollectiveContribution
  rw [hcoll]
  dsimp only
  rw [hown]
  dsimp only
  rw [hsent, hcame]
  rfl

theorem execCollectiveContribution_up {lg : Nat} (hparent : s.treeParent 2 c.part = some lg) :
    execCollectiveContribution n s = .next ((s.setColl n { c with sent := true }).sendFlit lg
      (.collUp c.part c.id c.fn (BitVec.ofNat 5 (fmtOf c.fmt))
        (if c.bad then [] else c.total (fun lg => bits (Tab.get {} lg s.pod.links).word 49 8) own)) (collConf c.fn)) := by
  rw [execCollectiveContribution_of_complete hcoll hown hsent hkids, hparent]

theorem execCollectiveContribution_root (hparent : s.treeParent 2 c.part = none) (hroot : s.module.toNat = (s.domain c.part).root) :
    execCollectiveContribution n s = .next
      (let beats := if c.bad then [] else c.total (fun lg => bits (Tab.get {} lg s.pod.links).word 49 8) own
       (s.setColl n { c with sent := true, result := some beats }).collDown c beats (!c.bad)) := by
  rw [execCollectiveContribution_of_complete hcoll hown hsent hkids, hparent, hroot, bne_self_eq_false]
  rfl

end Contribution

theorem execCollectiveResult_answers {beats : List Beat} (hresult : c.result = some beats) (hbeats : beats ≠ []) :
    execCollectiveResult n s = .next
      (({ s with eng := { s.eng with colls := drop1 n s.eng.colls } } : State).respond c.node c.key (collOuts own beats) true) := by
  unfold execCollectiveResult
  rw [hcoll]
  dsimp only
  rw [hresult, hown]
  dsimp only
  rw [if_neg (by simpa using hbeats)]

end Collective

end Sys2Proof.Claims

open Sys2Proof Sys2Proof.Machine Sys2Proof.Claims

/-- Settles O40: one lemma for each event of the glaze; the record of a store or a SCAT row (kind 0) is answered by nothing. -/
theorem glazeEventsComplete : Obligations.GlazeEventsComplete := by
  unfold Obligations.GlazeEventsComplete
  intro s n
  refine ⟨?answered, ?silent, ?contribution, ?enter, ?up, ?down, ?release⟩
  case answered =>
    exact fun x hsent hroom hkind => (execGlazeWriteAccept_buffers hsent hroom).trans (congrArg Host.Outcome.next (if_neg hkind))
  case silent =>
    exact fun x hsent hroom hkind => (execGlazeWriteAccept_buffers hsent hroom).trans (congrArg Host.Outcome.next (if_pos hkind))
  case contribution => exact fun st g rest hstrand hglz hstep hwaits => execGlazeContribution_counts hstrand hglz hstep hwaits
  case enter =>
    exact fun hdomain hactive hout hbuddy hfenced hall => execGlazeBarrierEnter_enters hdomain hactive hout hbuddy hfenced hall
  case up => exact fun lg hparent hall hsent child => execBarrierFlit_up (child := child) hparent hall hsent
  case down => exact fun c hchild hreleased hnew => execBarrierFlit_down hchild hreleased hnew
  case release => exact fun hentered hreleased hready => execGlazeRelease_releases hentered hreleased hready

/-- Settles O41: one lemma for each event of a lane group or a collective, and one for all steps of recovery; a verified flit ends its
message or joins it. -/
theorem linkEventsComplete : Obligations.LinkEventsComplete := by
  unfold Obligations.LinkEventsComplete
  constructor
  · intro s lg
    refine ⟨?flit, ?retrain, ?locks, ?fails, ?heartbeat, ?peer, ?recovery⟩
    case flit =>
      intro f l hbound hlocked hready
      refine ⟨execFlitReceive_asks hbound hlocked hready, fun hfec hseq hpmac => ?_⟩
      have htakes := execFlitReceive_takes hbound hlocked hready hfec hseq hpmac
      constructor
      · exact fun hlast => by rw [hlast] at htakes; exact htakes
      · intro hlast
        rw [hlast, if_pos rfl, endMessage_of_secure rfl] at htakes
        exact htakes
    case retrain => exact execLaneRetrain_retrains
    case locks => exact execRetrainComplete_locks
    case fails => exact execRetrainComplete_fails
    case heartbeat => exact execHeartbeatSend_sends
    case peer => exact execPeerFailureDetect_declares
    case recovery =>
      exact fun hfenced => ⟨execRecovery_recovers .fence hfenced, fun lmod => execRecovery_recovers (.remap lmod) hfenced,
        fun die task => execRecovery_recovers (.reload die task) hfenced, execRecovery_recovers .restore hfenced,
        execRecovery_recovers .resume hfenced⟩
  · intro s n c own hcoll hown
    refine ⟨fun hsent hkids => ?_, fun beats hresult hbeats => execCollectiveResult_answers hcoll hown hresult hbeats⟩
    exact ⟨fun lg hparent => execCollectiveContribution_up hcoll hown hsent hkids hparent,
      fun hparent hroot => execCollectiveContribution_root hcoll hown hsent hkids hparent hroot⟩
end

section
/-! PROOFS. Decoding and encoding: obligations O47, O48 and O49. The laws of the encoder say, constructor by constructor, that a word
parses to the instruction that it encodes; here is the way back, that of bytes and numbers, and the checks read once. -/

namespace Sys2Proof.Claims

open Sys2Proof.Laws

/-! ## Bytes and numbers (R2) -/

theorem length_leBytes (n v : Nat) : (leBytes n v).length = n := by
  induction n generalizing v with
  | zero => rfl
  | succ n ih => rw [leBytes, List.length_cons, ih]

theorem leNat_leBytes (n v : Nat) : leNat (leBytes n v) = v % 256 ^ n := by
  induction n generalizing v with
  | zero => simp [leBytes, leNat, Nat.mod_one]
  | succ n ih =>
    rw [leBytes, leNat, ih, Nat.pow_succ', Nat.mod_mul, BitVec.toNat_ofNat]

theorem leNat_lt (bs : List Byte) : leNat bs < 256 ^ bs.length := by
  induction bs with
  | nil => exact Nat.one_pos
  | cons b bs ih =>
    have hb : b.toNat < 256 := b.isLt
    rw [leNat, List.length_cons, Nat.pow_succ]
    omega

theorem leBytes_leNat (bs : List Byte) : leBytes bs.length (leNat bs) = bs := by
  induction bs with
  | nil => rfl
  | cons b bs ih =>
    have hb : b.toNat < 256 := b.isLt
    have hlow : BitVec.ofNat 8 (b.toNat + 256 * leNat bs) = b := BitVec.eq_of_toNat_eq (by simp; omega)
    have hhigh : (b.toNat + 256 * leNat bs) / 256 = leNat bs := by omega
    rw [List.length_cons, leNat, leBytes, hlow, hhigh, ih]

/-- The bytes of a word and the word that they are (R197). -/
theorem ofNat_leNat_leBytes (w : BitVec 64) : BitVec.ofNat 64 (leNat (leBytes 8 w.toNat)) = w := by
  have hlt : w.toNat < 256 ^ 8 := w.isLt
  rw [leNat_leBytes, Nat.mod_eq_of_lt hlt, BitVec.ofNat_toNat, BitVec.setWidth_eq]

theorem leBytes_ofNat_leNat {bs : List Byte} (h : bs.length = 8) : leBytes 8 (BitVec.ofNat 64 (leNat bs)).toNat = bs := by
  have hlt : leNat bs < 2 ^ 64 := by simpa [h] using leNat_lt bs
  rw [BitVec.toNat_ofNat, Nat.mod_eq_of_lt hlt, ← h, leBytes_leNat]

/-! ## Checks (R361, R362) -/

theorem firstError_eq_none {l : List Check} (h : ∀ c ∈ l, c.1 = true) : firstError l = none := by
  unfold firstError
  induction l with
  | nil => rfl
  | cons c l ih =>
    rw [List.foldl_cons, if_pos (h c List.mem_cons_self)]
    exact ih fun d hd => h d (List.mem_cons_of_mem c hd)

/-- No check has an error to report exactly when every check passes. -/
theorem error_eq_none_iff (i : Instr) : i.error = none ↔ i.wellFormed = true := by
  rw [Instr.error, Instr.wellFormed, List.all_eq_true]
  exact ⟨firstError_none, firstError_eq_none⟩

/-! ## One word (R197, R199, R205) -/

/-- The laws of the encoder together: every instruction that has a word is a case of them, and the device's own steps have none. -/
theorem parse_of_encode {i : Instr} {w : BitVec 64} (hwf : i.wellFormed = true) (henc : encode i = some w) : parse w = some i := by
  suffices hcodec : CodecOk.Statement i from hcodec w ((error_eq_none_iff i).2 hwf) henc
  cases i with
  | movCopy h a => exact CodecOk.movCopy h a | movImmediate h a => exact CodecOk.movImmediate h a | movi h i => exact CodecOk.movi h i
  | movhi h i => exact CodecOk.movhi h i | fan h i => exact CodecOk.fan h i | drop h i => exact CodecOk.drop h i
  | steer h i => exact CodecOk.steer h i | merge h i => exact CodecOk.merge h i | mrgo h i => exact CodecOk.mrgo h i
  | sel h i => exact CodecOk.sel h i | plog h i => exact CodecOk.plog h i | taga h i => exact CodecOk.taga h i
  | tagf h i => exact CodecOk.tagf h i | tagxDown h i => exact CodecOk.tagxDown h i | tagxUp h i => exact CodecOk.tagxUp h i
  | wadv h i => exact CodecOk.wadv h i | gate h i => exact CodecOk.gate h i | exit h c => exact CodecOk.exit h c
  | brb h c => exact CodecOk.brb h c | rdk h i => exact CodecOk.rdk h i | wrk h i => exact CodecOk.wrk h i
  | cnst h i => exact CodecOk.cnst h i | ord h i => exact CodecOk.ord h i | idx h a => exact CodecOk.idx h a
  | strm h x => exact CodecOk.strm h x | eosd h x => exact CodecOk.eosd h x | iadd h a => exact CodecOk.iadd h a
  | isub h a => exact CodecOk.isub h a | imul h a => exact CodecOk.imul h a | imulh h a => exact CodecOk.imulh h a
  | imad h a => exact CodecOk.imad h a | idiv h a => exact CodecOk.idiv h a | irem h a => exact CodecOk.irem h a
  | ineg h a => exact CodecOk.ineg h a | iabs h a => exact CodecOk.iabs h a | imin h a => exact CodecOk.imin h a
  | imax h a => exact CodecOk.imax h a | iand h a => exact CodecOk.iand h a | ior h a => exact CodecOk.ior h a
  | ixor h a => exact CodecOk.ixor h a | inot h a => exact CodecOk.inot h a | ishl h a => exact CodecOk.ishl h a
  | ishr h a => exact CodecOk.ishr h a | isar h a => exact CodecOk.isar h a | irot h a => exact CodecOk.irot h a
  | iclz h a => exact CodecOk.iclz h a | ipopc h a => exact CodecOk.ipopc h a | ibfx h a => exact CodecOk.ibfx h a
  | ibfi h a => exact CodecOk.ibfi h a | icmp h a => exact CodecOk.icmp h a | addi h a => exact CodecOk.addi h a
  | lea h a => exact CodecOk.lea h a | aff h a => exact CodecOk.aff h a | clamp h a => exact CodecOk.clamp h a
  | fadd h a => exact CodecOk.fadd h a | fsub h a => exact CodecOk.fsub h a | fmul h a => exact CodecOk.fmul h a
  | fma h a => exact CodecOk.fma h a | fmin h a => exact CodecOk.fmin h a | fmax h a => exact CodecOk.fmax h a
  | fabs h a => exact CodecOk.fabs h a | fneg h a => exact CodecOk.fneg h a | fcmp h a => exact CodecOk.fcmp h a
  | fcvt h a => exact CodecOk.fcvt h a | frcp h a => exact CodecOk.frcp h a | frsq h a => exact CodecOk.frsq h a
  | fex2 h a => exact CodecOk.fex2 h a | flg2 h a => exact CodecOk.flg2 h a | ftnh h a => exact CodecOk.ftnh h a
  | fexs h a => exact CodecOk.fexs h a | fscl h a => exact CodecOk.fscl h a | itof h a => exact CodecOk.itof h a
  | ftoi h a => exact CodecOk.ftoi h a | frnd h a => exact CodecOk.frnd h a | vbcst h a => exact CodecOk.vbcst h a
  | vshuf h a => exact CodecOk.vshuf h a | vred h a => exact CodecOk.vred h a | vscan h a => exact CodecOk.vscan h a
  | vdot h a => exact CodecOk.vdot h a | vcmpr h a => exact CodecOk.vcmpr h a | vexpd h a => exact CodecOk.vexpd h a
  | vpack h a => exact CodecOk.vpack h a | vunpk h a => exact CodecOk.vunpk h a | vselm h a => exact CodecOk.vselm h a
  | vlane h a => exact CodecOk.vlane h a | viota h a => exact CodecOk.viota h a | vcset h i => exact CodecOk.vcset h i
  | vcget h i => exact CodecOk.vcget h i | hdr h a => exact CodecOk.hdr h a | qnt h a => exact CodecOk.qnt h a
  | dqnt h a => exact CodecOk.dqnt h a | sclx h a => exact CodecOk.sclx h a | i4xp h a => exact CodecOk.i4xp h a
  | i4xu h a => exact CodecOk.i4xu h a | ld h m => exact CodecOk.ld h m | st h m => exact CodecOk.st h m
  | ldb h m => exact CodecOk.ldb h m | stb h m => exact CodecOk.stb h m | ldl h m => exact CodecOk.ldl h m
  | stnt h m => exact CodecOk.stnt h m | pref h m => exact CodecOk.pref h m | atom h m => exact CodecOk.atom h m
  | cas h m => exact CodecOk.cas h m | fatom h m => exact CodecOk.fatom h m | enq h m => exact CodecOk.enq h m
  | deq h m => exact CodecOk.deq h m | sarm h x => exact CodecOk.sarm h x | qfnc h x => exact CodecOk.qfnc h x
  | dfnc h m => exact CodecOk.dfnc h m | rdci h i => exact CodecOk.rdci h i | fnc h m => exact CodecOk.fnc h m
  | lds h m => exact CodecOk.lds h m | sts h m => exact CodecOk.sts h m | cntrRead h x => exact CodecOk.cntrRead h x
  | cntrSnap h x => exact CodecOk.cntrSnap h x | cntrStall h x => exact CodecOk.cntrStall h x
  | cntrLink h x => exact CodecOk.cntrLink h x | xfer h x => exact CodecOk.xfer h x | xpk h i => exact CodecOk.xpk h i
  | gath h x => exact CodecOk.gath h x | scat h x => exact CodecOk.scat h x | dcnt h x => exact CodecOk.dcnt h x
  | trdy h x => exact CodecOk.trdy h x | coll h x => exact CodecOk.coll h x | mlds h a => exact CodecOk.mlds h a
  | mswp h i => exact CodecOk.mswp h i | mctl h i => exact CodecOk.mctl h i | mfir h a => exact CodecOk.mfir h a
  | mdrn h a => exact CodecOk.mdrn h a | mclr h i => exact CodecOk.mclr h i | vdclDeclare h i => exact CodecOk.vdclDeclare h i
  | vdclSystolic h i => exact CodecOk.vdclSystolic h i | vacc h a => exact CodecOk.vacc h a | bnds h a => exact CodecOk.bnds h a
  | topk h a => exact CodecOk.topk h a | thrp h i => exact CodecOk.thrp h i | vpik h a => exact CodecOk.vpik h a
  | iscr h a => exact CodecOk.iscr h a | kdef h k => exact CodecOk.kdef h k | kput h k => exact CodecOk.kput h k
  | kqry h k => exact CodecOk.kqry h k | kdel h k => exact CodecOk.kdel h k | kmrg h k => exact CodecOk.kmrg h k
  | ksmx h k => exact CodecOk.ksmx h k | kgen h k => exact CodecOk.kgen h k | kcnt h k => exact CodecOk.kcnt h k
  | kflt h k => exact CodecOk.kflt h k | ksid h k => exact CodecOk.ksid h k | splk h m => exact CodecOk.splk h m
  | spap h m => exact CodecOk.spap h m | spfk h i => exact CodecOk.spfk h i | sprl h i => exact CodecOk.sprl h i
  | spwn h i => exact CodecOk.spwn h i | sprg h i => exact CodecOk.sprg h i | rld h m => exact CodecOk.rld h m
  | rst h m => exact CodecOk.rst h m | ratm h m => exact CodecOk.ratm h m | glaze h m => exact CodecOk.glaze h m
  | trap h i => exact CodecOk.trap h i | bkpt h i => exact CodecOk.bkpt h i | svc h i => exact CodecOk.svc h i
  | rdsr h i => exact CodecOk.rdsr h i | wrsr h i => exact CodecOk.wrsr h i | cpri h i => exact CodecOk.cpri h i
  | yld h i => exact CodecOk.yld h i | steal h x => exact CodecOk.steal h x | spltSteal h i => exact CodecOk.spltSteal h i
  | spltClaim h i => exact CodecOk.spltClaim h i | perf h x => exact CodecOk.perf h x | done h i => exact CodecOk.done h i
  | frd h i => exact CodecOk.frd h i | resm h i => exact CodecOk.resm h i | qcfgLabel q => exact CodecOk.qcfgLabel q
  | qcfgRegister q => exact CodecOk.qcfgRegister q | qloop q => exact CodecOk.qloop q | qbr q => exact CodecOk.qbr q
  | qarmRegister q => exact CodecOk.qarmRegister q | qarmConstants q => exact CodecOk.qarmConstants q
  | qarmKeep q => exact CodecOk.qarmKeep q | qwaitStream q => exact CodecOk.qwaitStream q
  | qwaitCycles q => exact CodecOk.qwaitCycles q | qset q => exact CodecOk.qset q | qadd q => exact CodecOk.qadd q
  | qend q => exact CodecOk.qend q | qprd q => exact CodecOk.qprd q | qglzWait q => exact CodecOk.qglzWait q
  | qglzNowait q => exact CodecOk.qglzNowait q
  | _ => exact fun _ _ h => nomatch h

/-! Fields cut from a payload or a word and joined again: bit by bit. -/

theorem fmtA_toBits_ofBits (p : BitVec 30) : (FmtA.ofBits p).toBits = p := by
  ext n hn
  grind [FmtA.toBits, FmtA.ofBits]

theorem fmtM_toBits_ofBits (p : BitVec 30) : (FmtM.ofBits p).toBits = p := by
  ext n hn
  grind [FmtM.toBits, FmtM.ofBits]

theorem fmtC_toBits_ofBits (p : BitVec 30) : (FmtC.ofBits p).toBits = p := by
  ext n hn
  grind [FmtC.toBits, FmtC.ofBits]

theorem fmtK_toBits_ofBits (p : BitVec 30) : (FmtK.ofBits p).toBits = p := by
  ext n hn
  grind [FmtK.toBits, FmtK.ofBits]

theorem fmtX_toBits_ofBits (p : BitVec 30) : (FmtX.ofBits p).toBits = p := by
  ext n hn
  grind [FmtX.toBits, FmtX.ofBits]

theorem blockWord_ofWord (w : BitVec 64) : blockWord (w.extractLsb' 56 8) (Hd.ofWord w) (w.extractLsb' 0 30) = w := by
  ext n hn
  grind [blockWord, Hd.ofWord]

theorem seqWord_ofWord (w : BitVec 64) : seqWord (w.extractLsb' 56 8) (SeqW.ofWord w) = w := by
  ext n hn
  grind [seqWord, SeqW.ofWord]

/-! What each group of opcodes parses is encoded as the word it was parsed from (R200): in every arm, the payload's fields joined again. -/

section Groups
variable {op : Nat} {h : Hd} {p : BitVec 30} {q : SeqW} {i : Instr}

theorem encode_of_parseFlow (hp : parseFlow op h p = some i) : encode i = some (blockWord (BitVec.ofNat 8 op) h p) := by
  unfold parseFlow at hp
  repeat' split at hp
  all_goals cases hp
  all_goals simp only [encode, fmtA_toBits_ofBits, fmtC_toBits_ofBits, fmtX_toBits_ofBits, BitVec.ofNat_eq_ofNat]

theorem encode_of_parseInt (hp : parseInt op h p = some i) : encode i = some (blockWord (BitVec.ofNat 8 op) h p) := by
  unfold parseInt at hp
  repeat' split at hp
  all_goals cases hp
  all_goals simp only [encode, fmtA_toBits_ofBits, BitVec.ofNat_eq_ofNat]

theorem encode_of_parseFloat (hp : parseFloat op h p = some i) : encode i = some (blockWord (BitVec.ofNat 8 op) h p) := by
  unfold parseFloat at hp
  repeat' split at hp
  all_goals cases hp
  all_goals simp only [encode, fmtA_toBits_ofBits, BitVec.ofNat_eq_ofNat]

theorem encode_of_parseVec (hp : parseVec op h p = some i) : encode i = some (blockWord (BitVec.ofNat 8 op) h p) := by
  unfold parseVec at hp
  repeat' split at hp
  all_goals cases hp
  all_goals simp only [encode, fmtA_toBits_ofBits, BitVec.ofNat_eq_ofNat]

theorem encode_of_parseMem (hp : parseMem op h p = some i) : encode i = some (blockWord (BitVec.ofNat 8 op) h p) := by
  unfold parseMem at hp
  repeat' split at hp
  all_goals cases hp
  all_goals simp only [encode, fmtM_toBits_ofBits, fmtX_toBits_ofBits, BitVec.ofNat_eq_ofNat]

theorem encode_of_parseEngine (hp : parseEngine op h p = some i) : encode i = some (blockWord (BitVec.ofNat 8 op) h p) := by
  unfold parseEngine at hp
  repeat' split at hp
  all_goals cases hp
  all_goals simp only [encode, fmtA_toBits_ofBits, fmtX_toBits_ofBits, BitVec.ofNat_eq_ofNat]

theorem encode_of_parseMatch (hp : parseMatch op h p = some i) : encode i = some (blockWord (BitVec.ofNat 8 op) h p) := by
  unfold parseMatch at hp
  repeat' split at hp
  all_goals cases hp
  all_goals simp only [encode, fmtK_toBits_ofBits, fmtM_toBits_ofBits, BitVec.ofNat_eq_ofNat]

theorem encode_of_parseSys (hp : parseSys op h p = some i) : encode i = some (blockWord (BitVec.ofNat 8 op) h p) := by
  unfold parseSys at hp
  repeat' split at hp
  all_goals cases hp
  all_goals simp only [encode, fmtX_toBits_ofBits, BitVec.ofNat_eq_ofNat]

theorem encode_of_parseSeq (hp : parseSeq op q = some i) : encode i = some (seqWord (BitVec.ofNat 8 op) q) := by
  unfold parseSeq at hp
  repeat' split at hp
  all_goals cases hp
  all_goals simp only [encode, BitVec.ofNat_eq_ofNat]

end Groups

theorem encode_of_parse {i : Instr} {w : BitVec 64} (hp : parse w = some i) : encode i = some w := by
  have hop : BitVec.ofNat 8 (w.extractLsb' 56 8).toNat = w.extractLsb' 56 8 := by
    rw [BitVec.ofNat_toNat, BitVec.setWidth_eq]
  have hblock := blockWord_ofWord w
  have hseq := seqWord_ofWord w
  rw [← hop] at hblock hseq
  unfold parse at hp
  dsimp only at hp
  repeat' split at hp
  · exact (encode_of_parseFlow hp).trans (congrArg some hblock)
  · exact (encode_of_parseInt hp).trans (congrArg some hblock)
  · exact (encode_of_parseFloat hp).trans (congrArg some hblock)
  · exact (encode_of_parseVec hp).trans (congrArg some hblock)
  · exact (encode_of_parseMem hp).trans (congrArg some hblock)
  · exact (encode_of_parseEngine hp).trans (congrArg some hblock)
  · exact (encode_of_parseMatch hp).trans (congrArg some hblock)
  · exact (encode_of_parseSys hp).trans (congrArg some hblock)
  · exact (encode_of_parseSeq hp).trans (congrArg some hseq)

/-- A word decodes to the well-formed instruction that it encodes, and to nothing else. -/
theorem decodeWord_eq_ok_iff {i : Instr} {w : BitVec 64} : decodeWord w = .ok i ↔ i.wellFormed = true ∧ encode i = some w := by
  constructor
  · intro h
    unfold decodeWord at h
    split at h
    · cases h
    · next j hparse =>
      split at h
      · cases h
      · next herror =>
        cases h
        exact ⟨(error_eq_none_iff i).1 herror, encode_of_parse hparse⟩
  · rintro ⟨hwf, henc⟩
    simp only [decodeWord, parse_of_encode hwf henc, (error_eq_none_iff i).2 hwf]

/-! ## A sequence of bytes -/

theorem decode_leBytes_append {i : Instr} {w : BitVec 64} (h : decodeWord w = .ok i) (rest : List Byte) :
    decode (leBytes 8 w.toNat ++ rest) = .ok (i, rest) := by
  have hlen := length_leBytes 8 w.toNat
  rw [decode, if_neg (by rw [List.length_append, hlen]; omega), List.take_left' hlen, List.drop_left' hlen, ofNat_leNat_leBytes, h]

/-- What decodes is a whole word, and its bytes are the first eight. -/
theorem decode_eq_ok {bs rest : List Byte} {i : Instr} (h : decode bs = .ok (i, rest)) :
    ∃ w, decodeWord w = .ok i ∧ bs = leBytes 8 w.toNat ++ rest := by
  unfold decode at h
  split at h
  · cases h
  · next hlen =>
    split at h
    · next j hword =>
      cases h
      refine ⟨_, hword, ?_⟩
      rw [leBytes_ofNat_leNat (List.length_take_of_le (Nat.le_of_not_lt hlen)), List.take_append_drop]
    · cases h

/-- The word of a table's row (R197, R205), from the instruction that it stands for. -/
theorem decodeTableWord_of_encode {i : Instr} {n : Nat} (hwf : i.wellFormed = true)
    (henc : encode i = some (BitVec.ofNat 64 n)) : decodeTableWord 64 n = some i := by
  have hdecode := decode_leBytes_append (decodeWord_eq_ok_iff.2 ⟨hwf, henc⟩) []
  rw [BitVec.toNat_ofNat, List.append_nil] at hdecode
  rw [decodeTableWord, hdecode]

end Sys2Proof.Claims

open Sys2Proof Sys2Proof.Claims

/-- Settles O48: the word's bytes are eight, and the word decodes to the instruction that it encodes. -/
theorem decodeOfEncode : Obligations.DecodeOfEncode := by
  unfold Obligations.DecodeOfEncode
  exact fun i w rest hwf henc => decode_leBytes_append (decodeWord_eq_ok_iff.2 ⟨hwf, henc⟩) rest

/-- Settles O49: the word that was decoded is that of the eight bytes, and what it decodes to is well formed and has it as its word. -/
theorem encodeOfDecode : Obligations.EncodeOfDecode := by
  unfold Obligations.EncodeOfDecode
  intro bs rest i h
  obtain ⟨w, hword, hbytes⟩ := decode_eq_ok h
  obtain ⟨hwf, henc⟩ := decodeWord_eq_ok_iff.1 hword
  exact ⟨hwf, w, henc, hbytes⟩

/-- Settles O47: each word is the encoding of what it stands for, which is well formed. -/
theorem decodeWords : Obligations.DecodeWords := by
  unfold Obligations.DecodeWords
  refine ⟨?_, ?_, ?_, ?_, ?_, ?_, ?_, ?_, ?_, ?_, ?_, ?_, ?_, ?_⟩
  all_goals exact decodeTableWord_of_encode (by decide) (by decide)
end

section
/-! PROOFS. What a sequencer word leaves alone: obligation O55. `Steered` bounds what a word may do to the module; every step that a word is
made of stays within it, and so does one after the other. -/

namespace Sys2Proof.Claims

open Sys2Proof.Machine

/-! ## Tables that change at some keys only -/

/-- From `t` to `t'` only entries whose key meets `P` have changed. -/
def OnlyAt {α : Type} (d : α) (P : Nat → Prop) (t t' : Tab α) : Prop := ∀ key, Tab.get d key t' ≠ Tab.get d key t → P key

section OnlyAt
variable {α : Type} {d : α} {P : Nat → Prop} {t t' t'' : Tab α}

theorem OnlyAt.refl : OnlyAt d P t t := fun _ h => absurd rfl h

theorem OnlyAt.trans (h : OnlyAt d P t t') (h' : OnlyAt d P t' t'') : OnlyAt d P t t'' := by
  intro key hne
  by_cases hkey : Tab.get d key t' = Tab.get d key t
  · exact h' key (hkey ▸ hne)
  · exact h key hkey

theorem get_del_of_ne {k j : Nat} (h : k ≠ j) (t : Tab α) : Tab.get d j (Tab.del k t) = Tab.get d j t := by
  induction t with
  | nil => rfl
  | cons e t ih =>
    rw [Tab.del]
    split
    · next hk => rw [Tab.get, if_neg (hk ▸ h)]
    · rw [Tab.get, Tab.get, ih]

theorem onlyAt_put [DecidableEq α] {k : Nat} {v : α} (hk : P k) : OnlyAt d P t (Tab.put d k v t) := by
  intro key hne
  by_cases h : k = key
  · exact h ▸ hk
  · refine absurd ?_ hne
    unfold Tab.put
    split
    · exact get_del_of_ne h t
    · rw [Tab.get_ins, if_neg h]

theorem onlyAt_foldl {β : Type} {f : Tab α → β → Tab α} {l : List β} (hf : ∀ t, ∀ x ∈ l, OnlyAt d P t (f t x)) :
    OnlyAt d P t (l.foldl f t) := by
  induction l generalizing t with
  | nil => exact .refl
  | cons x l ih => exact (hf t x List.mem_cons_self).trans (ih fun t y hy => hf t y (List.mem_cons_of_mem x hy))

end OnlyAt

/-! ## What a sequencer word may do -/

/-- Strand `y` is `x` but for what a sequencer word writes in its own strand. -/
def Rewritten (x y : Strand) : Prop :=
  y = { x with sqpc := y.sqpc, q := y.q, i := y.i, k := y.k, sd := y.sd, exitMap := y.exitMap, mode := y.mode, step := y.step, glz := y.glz }

theorem Rewritten.trans {x y z : Strand} (hxy : Rewritten x y) (hyz : Rewritten y z) : Rewritten x z := by
  unfold Rewritten at *
  rw [hxy] at hyz
  exact hyz

theorem Rewritten.is {x y : Strand} (h : Rewritten x y) (die task : Nat) : y.is die task = x.is die task :=
  (congrArg (Strand.is · die task) h :)

/-- The constants-plane words that `q` names as its destination on the wafers of `st`. -/
def ConstNamed (q : SeqW) (st : Strand) (key : Nat) : Prop :=
  ∃ w ∈ st.wafers, 0x40 ≤ q.da.toNat ∧ key = waferKey st.die w * 64 + (q.da.toNat - 0x40)

/-- The stream engines that `q` names on the wafers of `st`. -/
def StreamNamed (q : SeqW) (st : Strand) (key : Nat) : Prop := ∃ w ∈ st.wafers, key = streamKey st.die w (bits q.da 0 4)

/-- From `s` to `t` only what the word `q` of strand `st` may change has changed: its strand, the constants and the streams that it names,
and the records asked for. -/
structure Steered (q : SeqW) (st : Strand) (s t : State) : Prop where
  rest : t = { s with
    strands := t.strands
    pl := { s.pl with consts := t.pl.consts }
    eng := { s.eng with streams := t.eng.streams }
    flt := { s.flt with reqs := t.flt.reqs } }
  others : ∀ x ∈ s.strands, x.is st.die st.task = false → x ∈ t.strands
  own : ∀ y ∈ t.strands, y ∈ s.strands ∨ (y.is st.die st.task = true ∧ ∃ x ∈ s.strands, Rewritten x y)
  consts : OnlyAt 0 (ConstNamed q st) s.pl.consts t.pl.consts
  streams : OnlyAt {} (StreamNamed q st) s.eng.streams t.eng.streams

section Steered
variable {s t u : State} {st : Strand} {q : SeqW}

theorem Steered.refl : Steered q st s s := ⟨rfl, fun _ hx _ => hx, fun _ => .inl, .refl, .refl⟩

theorem Steered.trans (hst : Steered q st s t) (htu : Steered q st t u) : Steered q st s u where
  rest := by
    have hu := htu.rest
    rw [hst.rest] at hu
    exact hu
  others x hx his := htu.others x (hst.others x hx his) his
  own z hz := by
    rcases htu.own z hz with hz | ⟨his, y, hy, hyz⟩
    · exact hst.own z hz
    · refine .inr ⟨his, ?_⟩
      rcases hst.own y hy with hy | ⟨_, x, hx, hxy⟩
      · exact ⟨y, hy, hyz⟩
      · exact ⟨x, hx, hxy.trans hyz⟩
  consts := hst.consts.trans htu.consts
  streams := hst.streams.trans htu.streams

theorem steered_foldl {α : Type} {f : State → α → State} {l : List α} (hf : ∀ t, ∀ x ∈ l, Steered q st t (f t x)) :
    Steered q st s (l.foldl f s) := by
  induction l generalizing s with
  | nil => exact .refl
  | cons x l ih => exact (hf s x List.mem_cons_self).trans (ih fun t y hy => hf t y (List.mem_cons_of_mem x hy))

/-- Of the strands, those that are not the word's own stay and the others are rewritten. -/
theorem steered_strands {f : Strand → Strand} (hother : ∀ x, x.is st.die st.task = false → f x = x)
    (hown : ∀ x ∈ s.strands, x.is st.die st.task = true → (f x).is st.die st.task = true ∧ ∃ y ∈ s.strands, Rewritten y (f x)) :
    Steered q st s { s with strands := s.strands.map f } where
  rest := rfl
  others x hx his := List.mem_map.2 ⟨x, hx, hother x his⟩
  own y hy := by
    obtain ⟨x, hx, rfl⟩ := List.mem_map.1 hy
    cases his : x.is st.die st.task with
    | true => exact .inr (hown x hx his)
    | false => exact .inl ((hother x his).symm ▸ hx)
  consts := .refl
  streams := .refl

theorem steered_onStrand {f : Strand → Strand} (hf : ∀ x, Rewritten x (f x)) : Steered q st s (s.onStrand st.die st.task f) := by
  refine steered_strands (fun x his => if_neg (by rw [his]; exact Bool.false_ne_true)) fun x hx his => ?_
  rw [if_pos his, (hf x).is]
  exact ⟨his, x, hx, hf x⟩

theorem steered_setStrand {st' : Strand} (hmem : st ∈ s.strands) (hst : Rewritten st st') : Steered q st s (s.setStrand st') := by
  have hsame (x : Strand) : x.is st'.die st'.task = x.is st.die st.task := by rw [hst]
  unfold State.setStrand
  simp only [hsame]
  refine steered_strands (fun x his => if_neg (by rw [his]; exact Bool.false_ne_true)) fun x _ his => ?_
  rw [if_pos his, hst.is]
  exact ⟨by simp [Strand.is], st, hmem, hst⟩

theorem steered_report (l : Loc) (part : Nat) (sub : Subject) : Steered q st s (s.report l part sub) :=
  ⟨rfl, fun _ hx _ => hx, fun _ => .inl, .refl, .refl⟩

theorem steered_setConst (v : Word) (hda : 0x40 ≤ q.da.toNat) :
    Steered q st s (s.setConst st.die (q.da.toNat - 0x40) v st.wafers) where
  rest := rfl
  others _ hx _ := hx
  own _ := .inl
  consts := onlyAt_foldl fun _ w hw => onlyAt_put ⟨w, hw, hda, rfl⟩
  streams := .refl

theorem steered_armStream (d : BitVec 256) (k : Key) (slot task : Nat) {w : Nat} (hw : w ∈ st.wafers) :
    Steered q st s (s.armStream st.die w (bits q.da 0 4) d k slot task) where
  rest := rfl
  others _ hx _ := hx
  own _ := .inl
  consts := .refl
  streams := onlyAt_put ⟨w, hw, rfl⟩

/-! ## The steps that words are made of -/

theorem steered_seqNext : Steered q st s (s.seqNext st) := steered_onStrand fun _ => rfl

theorem steered_seqBranch (imm : BitVec 32) : Steered q st s (s.seqBranch st imm) := steered_onStrand fun _ => rfl

theorem steered_seqFault (code : Nat) (addr : Word) (detail : Nat) (word : BitVec 64) :
    Steered q st s (s.seqFault st code addr detail word) := by
  refine .trans (steered_onStrand fun x => ?_) (steered_report _ _ _)
  rfl

/-- A register of the strand, or a constants-plane word, as DA names it (R206, R330). -/
theorem steered_writeReg (v : Word) : Steered q st s (s.writeReg st q.da.toNat v) := by
  unfold State.writeReg
  split
  · exact steered_onStrand fun _ => rfl
  split
  · exact steered_onStrand fun _ => rfl
  split
  · exact steered_onStrand fun _ => rfl
  · next hk => exact steered_setConst v (Nat.le_of_not_lt hk)

theorem steered_qarm (d : BitVec 256) : Steered q st s (s.qarm st (bits q.da 0 4) d) := by
  unfold State.qarm
  split
  · exact steered_seqFault ..
  split
  · exact .refl
  split
  · exact .refl
  · have hkeeps : Steered q st s (s.onStrand st.die st.task fun x => { x with sd := Tab.put 0 (bits q.da 0 4) d x.sd }) :=
      steered_onStrand fun _ => rfl
    exact (hkeeps.trans (steered_foldl fun _ _ hw => steered_armStream _ _ _ _ hw)).trans steered_seqNext

theorem steered_qglz {f : Strand → Strand} (hmem : st ∈ s.strands) (hf : ∀ x, Rewritten x (f x)) : Steered q st s (s.qglz st f) := by
  unfold State.qglz
  split
  · exact .refl
  · refine steered_setStrand hmem (.trans ?_ (hf _))
    rfl

end Steered

/-! ## The words -/

/-- What a sequencer word comes to: nothing, or what it may do to the strand whose sequencer executes. -/
def SteeredBy (q : SeqW) (s t : State) : Prop := t = s ∨ ∃ st, s.strand s.cur.die s.cur.task = some st ∧ Steered q st s t

section SteeredBy
variable {s t : State} {q : SeqW}

theorem steeredBy_onSeq {f : Strand → State} (h : s.onSeq f = .next t)
    (hf : ∀ st, st ∈ s.strands → Steered q st s (f st)) : SteeredBy q s t := by
  unfold State.onSeq at h
  split at h
  · cases h
    exact .inl rfl
  · next st hst =>
    split at h
    · cases h
      exact .inl rfl
    · cases h
      exact .inr ⟨st, hst, hf st (List.mem_of_find?_eq_some hst)⟩

theorem execQloop_steers (h : execQloop q s = .next t) : SteeredBy q s t := by
  refine steeredBy_onSeq h fun st _ => ?_
  dsimp only
  split
  · exact steered_seqNext
  split
  · exact (steered_writeReg _).trans steered_seqNext
  · exact (steered_writeReg _).trans (steered_seqBranch _)

theorem execQbr_steers (h : execQbr q s = .next t) : SteeredBy q s t := by
  refine steeredBy_onSeq h fun st _ => ?_
  split
  · exact steered_seqBranch _
  · exact steered_seqNext

theorem execQset_steers (h : execQset q s = .next t) : SteeredBy q s t :=
  steeredBy_onSeq h fun _ _ => (steered_writeReg _).trans steered_seqNext

theorem execQadd_steers (h : execQadd q s = .next t) : SteeredBy q s t :=
  steeredBy_onSeq h fun _ _ => (steered_writeReg _).trans steered_seqNext

theorem execQarmRegister_steers (h : execQarmRegister q s = .next t) : SteeredBy q s t := steeredBy_onSeq h fun _ _ => steered_qarm _
theorem execQarmConstants_steers (h : execQarmConstants q s = .next t) : SteeredBy q s t := steeredBy_onSeq h fun _ _ => steered_qarm _
theorem execQarmKeep_steers (h : execQarmKeep q s = .next t) : SteeredBy q s t := steeredBy_onSeq h fun _ _ => steered_qarm _

theorem execQwaitStream_steers (h : execQwaitStream q s = .next t) : SteeredBy q s t := by
  refine steeredBy_onSeq h fun st _ => ?_
  split
  · exact steered_seqNext
  · exact .refl

theorem execQwaitCycles_steers (h : execQwaitCycles q s = .next t) : SteeredBy q s t :=
  steeredBy_onSeq h fun _ hmem => steered_setStrand hmem rfl

theorem execQprd_steers (h : execQprd q s = .next t) : SteeredBy q s t := by
  refine steeredBy_onSeq h fun st _ => ?_
  dsimp only
  split
  · exact steered_seqFault ..
  · refine .trans (steered_onStrand fun x => ?_) steered_seqNext
    rfl

theorem execQglzWait_steers (h : execQglzWait q s = .next t) : SteeredBy q s t :=
  steeredBy_onSeq h fun _ hmem => steered_qglz hmem fun _ => rfl

theorem execQglzNowait_steers (h : execQglzNowait q s = .next t) : SteeredBy q s t :=
  steeredBy_onSeq h fun _ hmem => steered_qglz hmem fun _ => rfl

theorem exec_steers {i : Instr} (hq : steering i = some q) (h : exec i s = .next t) : SteeredBy q s t := by
  cases i with
  | qloop => cases hq; exact execQloop_steers h
  | qbr => cases hq; exact execQbr_steers h
  | qarmRegister => cases hq; exact execQarmRegister_steers h
  | qarmConstants => cases hq; exact execQarmConstants_steers h
  | qarmKeep => cases hq; exact execQarmKeep_steers h
  | qwaitStream => cases hq; exact execQwaitStream_steers h
  | qwaitCycles => cases hq; exact execQwaitCycles_steers h
  | qset => cases hq; exact execQset_steers h
  | qadd => cases hq; exact execQadd_steers h
  | qprd => cases hq; exact execQprd_steers h
  | qglzWait => cases hq; exact execQglzWait_steers h
  | qglzNowait => cases hq; exact execQglzNowait_steers h
  | _ => cases hq

end SteeredBy

end Sys2Proof.Claims

open Sys2Proof Sys2Proof.Machine Sys2Proof.Claims

/-- Settles O55: every word stays within `Steered`, whose strand is the one that executes. -/
theorem sequencerFrame : Obligations.SequencerFrame := by
  unfold Obligations.SequencerFrame
  intro i q s t hq h
  rcases exec_steers hq h with rfl | ⟨st, hst, hs⟩
  · exact ⟨rfl, rfl, rfl, rfl, rfl, rfl, rfl, rfl, rfl, rfl, rfl, rfl, rfl, rfl, rfl, fun _ hx _ => hx, fun _ => .inl,
      fun _ hne => absurd rfl hne, fun _ hne => absurd rfl hne⟩
  · have his : st.is s.cur.die s.cur.task = true := List.find?_some (p := fun x : Strand => x.is s.cur.die s.cur.task) hst
    obtain ⟨hdie, htask⟩ : st.die = s.cur.die ∧ st.task = s.cur.task := by simpa [Strand.is] using his
    obtain ⟨hrest, hothers, hown, hconsts, hstreams⟩ := hs
    rw [hdie, htask] at hothers hown
    have field {α : Type} (f : State → α) := congrArg f hrest
    exact ⟨field State.cur, field State.agenda, field State.ctr, field State.fab, field State.sch, field State.mem, field State.mat,
      field State.tiles, field State.pages, field State.pod, field State.saved, field State.host, field State.pl, field State.eng,
      field State.flt, hothers, hown, fun key hne => ⟨st, hst, hconsts key hne⟩, fun key hne => ⟨st, hst, hstreams key hne⟩⟩
end

section
/-! PROOFS. Movement, tag and integer words: obligations O1, O2, O4, O5 and O6. Each word is one firing (`CanFire.fire`), of which only
what its body answers is left to say: the 64 bits of a generator, the instance that a tag word acts on, or the lanes of an integer word
(`laneWord_of_intWord`). -/

namespace Sys2Proof.Claims

open Sys2Proof.Machine

variable {s : State} {h : Hd} {sl : Slots} {ts : List Tok}

/-! ## The tokens of a firing (R19) -/

/-- The body of a word may name its lowest slot's token in either way. -/
theorem headD_eq_tk : ts.headD {} = tk ts 0 := by cases ts <;> rfl

theorem operands_slots {n : Node} {k : Key} {ps : List Nat} (hops : s.operands n k ps = some ts) :
    ps.map (s.slotTok n k) = ts.map some := by
  induction ps generalizing ts with
  | nil => cases hops; rfl
  | cons p ps ih =>
    rw [State.operands] at hops
    split at hops
    · next t us ht hus =>
      cases hops
      rw [List.map_cons, List.map_cons, ht, ih hus]
    · cases hops

/-- The tokens that a firing is given are those of the slots that its word reads, in their order. -/
theorem CanFire.slots (hc : CanFire s h sl ts) : sl.rd.map (s.slotTok s.cur.node s.cur.key) = ts.map some := by
  obtain ⟨all, hall, rfl⟩ := Option.map_eq_some_iff.1 hc.read
  rw [List.map_take, ← operands_slots hall, taken, List.map_append, List.take_left' (List.length_map _)]

theorem CanFire.length (hc : CanFire s h sl ts) : ts.length = sl.rd.length := by
  rw [← List.length_map (f := some), ← hc.slots, List.length_map]

theorem CanFire.slotTok {i p : Nat} (hc : CanFire s h sl ts) (hp : sl.rd[i]? = some p) :
    s.slotTok s.cur.node s.cur.key p = some (tk ts i) := by
  have hi := congrArg (·[i]?) hc.slots
  simp only [List.getElem?_map, hp, Option.map_some] at hi
  obtain ⟨t, ht, hslot⟩ := Option.map_eq_some_iff.1 hi.symm
  rw [← hslot, tk, List.getD_eq_getElem?_getD, ht, Option.getD_some]

/-! ## 64-bit values (R209, R214) -/

theorem word64_toNat (v : Word) : word64 v.toNat = v.zeroExtend 384 := by
  rw [word64, Nat.mod_eq_of_lt v.isLt, BitVec.ofNat_toNat]

theorem signed_toNat {n : Nat} (hn : 0 < n) (p : BitVec n) : signed n p.toNat = p.toInt := by
  have hhalf : 2 ^ n = 2 * 2 ^ (n - 1) := by rw [← pow_succ', Nat.sub_add_cancel hn]
  rw [signed, Nat.mod_eq_of_lt p.isLt, BitVec.toInt_eq_toNat_cond]
  congr 1
  rw [eq_iff_iff]
  omega

theorem ofNat_lane0 (t : Tok) : BitVec.ofNat 64 (lane0 t) = t.data.extractLsb' 0 64 := by
  rw [lane0, bits, BitVec.ofNat_toNat, BitVec.setWidth_eq]

/-- The low 30 bits of the first operand below the 30 of the payload, as one signed number (R214). -/
theorem joined_eq_ofInt (lo hi : BitVec 30) :
    lo.zeroExtend 64 + (hi.signExtend 64 <<< 30) = BitVec.ofInt 64 (lo.toNat + hi.toInt * 2 ^ 30) := by
  rw [BitVec.ofInt_add, BitVec.ofInt_mul, BitVec.ofInt_natCast, BitVec.ofNat_toNat, BitVec.shiftLeft_eq_mul_twoPow]
  rfl

theorem moviValue_eq (p : BitVec 30) : wrap 64 (signed 30 p.toNat) = (p.signExtend 64).toNat := by
  rw [signed_toNat (by decide)]
  rfl

theorem movhiValue_eq (t : Tok) (p : BitVec 30) :
    movhiValue (lane0 t) p = ((t.data.extractLsb' 0 30).zeroExtend 64 + (p.signExtend 64 <<< 30)).toNat := by
  have hlow : lane0 t % 2 ^ 30 = (t.data.extractLsb' 0 30).toNat := by
    simp only [lane0, bits, BitVec.extractLsb'_toNat, Nat.shiftRight_zero]
    exact Nat.mod_mod_of_dvd _ (by decide)
  rw [joined_eq_ofInt, movhiValue, hlow, signed_toNat (by decide)]
  rfl

/-- MOVI and then MOVHI reach every number of 60 bits. -/
theorem exists_movi_movhi {v : Int} (hlo : -2 ^ 59 ≤ v) (hhi : v < 2 ^ 59) : ∃ lo hi : BitVec 30,
    ((lo.signExtend 64).extractLsb' 0 30).zeroExtend 64 + (hi.signExtend 64 <<< 30) = BitVec.ofInt 64 v := by
  refine ⟨BitVec.ofInt 30 v, BitVec.ofInt 30 (v / 2 ^ 30), ?_⟩
  have hsign (x : BitVec 30) : (x.signExtend 64).extractLsb' 0 30 = x := by
    ext i hi
    simp [BitVec.getElem_signExtend, hi, hi.trans (by decide : 30 < 64)]
  rw [hsign, joined_eq_ofInt, BitVec.toInt_ofInt_eq_self (by omega) (by omega) (by omega), BitVec.toNat_ofInt,
    Int.toNat_of_nonneg (Int.emod_nonneg v (by decide)), mul_comm]
  exact congrArg _ (Int.emod_add_mul_ediv v (2 ^ 30))

/-! ## Movement words -/

theorem movImmFault_none {a : FmtA} (hin : fmtOf (s.ent a.vci) < 18) (hout : fmtOf (s.ent a.vco) < 18)
    (hscale : s.scaleOutFault s.cur.node a.vco (validLanes (fmtOf (s.ent a.vco)) (tk ts 0)) = none) :
    movImmFault a s ts = none := by
  rw [movImmFault, if_neg (by omega), if_neg (by omega), headD_eq_tk, hscale]

/-- PLOG's flags are joined over two tokens, without NIL (R220). -/
theorem joinFlags_pair (t u : Tok) : { joinFlags [t, u] with nil := false } =
    { nil := false, endf := t.fl.endf || u.fl.endf, last := t.fl.last || u.fl.last : Flags } := by
  simp only [joinFlags, List.any_cons, List.any_nil, Bool.or_false]

theorem plog_fires {p : BitVec 30} (hc : CanFire s h ⟨[0, 1], [0, 1], [0, 1], []⟩ ts) :
    execPlog h p s = .next (fired s s h [0, 1] [outBoth { tk ts 0 with
      fl := { nil := false, endf := (tk ts 0).fl.endf || (tk ts 1).fl.endf, last := (tk ts 0).fl.last || (tk ts 1).fl.last }
      data := if h.fn.getLsbD ((if pred (tk ts 0) then 2 else 0) + if pred (tk ts 1) then 1 else 0) then 1 else 0 }]) := by
  have hindex (a b : Bool) : 2 * b2n a + b2n b = (if a then 2 else 0) + if b then 1 else 0 := by cases a <;> cases b <;> rfl
  have hbit (b : Bool) : BitVec.ofNat 384 (b2n b) = if b then 1 else 0 := by cases b <;> rfl
  obtain ⟨t, u, rfl⟩ := List.length_eq_two.1 hc.length
  refine hc.fire rfl ?_
  dsimp only
  rw [joinFlags_pair, hindex, hbit]
  rfl

/-! ## Tag and exit words -/

/-- TAGA asks for a tag of the next level, or of its own once its instance goes on or may speculate (R222). -/
theorem taga_asks {p : BitVec 30} {st : Strand} {b : Block} (hc : CanFire s h (carrying [0]) ts) (hhere : s.here = some st)
    (hblock : s.block s.cur.node.ctx = some b)
    (hlevel : bits p 0 3 = lvl s + 1 ∨ (bits p 0 3 = lvl s ∧ (b.spec = true ∨ (st.tagRec s.cur.key).bind (·.cont) = some true))) :
    execTaga h p s = .next (fired s (s.setStrand { st with
      reqs := st.reqs ++ [⟨s.cur.node, s.cur.key, tk ts 0, BitVec.ofNat 3 (bits p 0 3),
        if bits p 0 3 = lvl s + 1 then some s.cur.key else (st.tagRec s.cur.key).bind (·.parent), 0, false⟩] }) h [0] []) := by
  rw [lvl] at hlevel ⊢
  unfold execTaga
  refine hc.fire rfl ?_
  dsimp only
  rw [hhere, hblock, headD_eq_tk]
  dsimp only
  rcases hlevel with hchild | ⟨hsame, hgoes⟩
  · simp [hchild]
  · rcases hgoes with hspec | hcont
    · simp [hsame, hspec]
    · simp [hsame, hcont]

theorem tagf_holds {p : BitVec 30} (hc : CanFire s h (carrying [0]) ts) (hlevel : bits p 0 3 = lvl s) :
    execTagf h p s = .next (fired s (s.hold 127 (tk ts 0).wave (.tagf (bits p 0 3))) h [0] []) := by
  refine hc.fire rfl ?_
  rw [headD_eq_tk, if_neg]
  rw [bne_iff_ne, not_not]
  exact hlevel

theorem tagxDown_enters {p : BitVec 30} {st : Strand} (hc : CanFire s h ⟨[0, 1], [0, 1], [1], [1]⟩ ts) (hhere : s.here = some st)
    (hlevel : (tagOf (tk ts 1)).lvl.toNat = lvl s + 1) (hgranted : st.grantedTo s.cur.node.ctx s.cur.key (tagOf (tk ts 1)) = true) :
    execTagxDown h p s = .next (fired s (s.emitInto s.cur.node (tagOf (tk ts 1)) h (outBoth (tk ts 0))) h [0, 1] []) := by
  refine hc.fire rfl ?_
  dsimp only
  rw [hhere]
  dsimp only
  rw [hlevel, hgranted, if_neg]
  simp [lvl]

theorem tagxUp_leaves {p : BitVec 30} {st : Strand} {q : Key} (hc : CanFire s h (carrying [0]) ts) (hhere : s.here = some st)
    (hlevel : s.cur.key.lvl ≠ 0) (hparent : (st.tagRec s.cur.key).bind (·.parent) = some q) :
    execTagxUp h p s = .next (fired s (s.hold 127 (tk ts 0).wave (.leave ((targetsOf h (outBoth (tk ts 0))).map fun d =>
      ⟨⟨s.cur.node.ctx, d.1⟩, d.2, q, { tk ts 0 with age := 0 }⟩))) h [0] []) := by
  refine hc.fire rfl ?_
  dsimp only
  rw [hhere]
  dsimp only
  rw [if_neg hlevel, hparent]
  rfl

/-- WADV goes on (R224): the token enters the next iteration, which slot 1 names. -/
theorem wadv_advances {p : BitVec 30} (hc : CanFire s h ⟨[0, 1, 2], [0, 1, 2], [2], [1]⟩ ts) (hpred : pred (tk ts 2) = true)
    (hcont : contHere s ≠ some false) (hlevel : (tagOf (tk ts 1)).lvl = s.cur.key.lvl) :
    execWadv h p s = .next (fired s ((s.setCont s.cur.node.ctx s.cur.key true).emitInto s.cur.node (tagOf (tk ts 1)) h
      (outBoth { tk ts 0 with wave := (tk ts 0).wave + 1 })) h [0, 1, 2] []) := by
  unfold execWadv
  dsimp only
  rw [hc.slotTok (i := 2) rfl]
  dsimp only
  rw [hpred, if_pos rfl]
  refine hc.fire rfl ?_
  rw [if_neg (by simpa [contHere, tagHere] using hcont), if_neg (by simpa using hlevel)]

/-- WADV stops (R224): the tag that waits at slot 1 is dropped. -/
theorem wadv_stops {p : BitVec 30} (hc : CanFire s h ⟨[0, 2], [0, 1, 2], [2], []⟩ ts) (hpred : pred (tk ts 1) = false)
    (hcont : contHere s ≠ some true) :
    execWadv h p s = .next (fired s (clearSlot (s.setCont s.cur.node.ctx s.cur.key false) s.cur.node s.cur.key 1) h [0, 2] []) := by
  unfold execWadv
  dsimp only
  rw [hc.slotTok (i := 1) rfl]
  dsimp only
  rw [hpred, if_neg Bool.false_ne_true]
  refine hc.fire rfl ?_
  rw [if_neg (by simpa [contHere, tagHere] using hcont)]
  rfl

theorem gate_passes {p : BitVec 30} (hc : CanFire s h ⟨[s.earlier s.cur.node s.cur.key], [0, 1], [], []⟩ ts)
    (hfirst : s.keptOf s.cur.node s.cur.key = none) :
    execGate h p s = .next (fired s (s.setKept ⟨s.cur.node, s.cur.key, [], [], []⟩) h [s.earlier s.cur.node s.cur.key]
      [outBoth (tk ts 0)]) := by
  unfold execGate
  refine hc.fire rfl ?_
  rw [hfirst, headD_eq_tk, Option.isSome_none, if_neg Bool.false_ne_true]

theorem exit_holds {c : FmtC} (hc : CanFire s h (carrying [0]) ts) :
    execExit h c s = .next (fired s (s.hold 127 (tk ts 0).wave (.exit c.exn none)) h [0] []) :=
  hc.fire rfl (by rw [headD_eq_tk])

theorem brbPointer_eq (own : Word) (boff : BitVec 27) : brbPointer own boff = own + boff.signExtend 64 * 16 := by
  rw [brbPointer, BitVec.shiftLeft_eq_mul_twoPow]
  rfl

theorem brb_holds {c : FmtC} {b : Block} (hc : CanFire s h (carrying [0]) ts) (hblock : s.block s.cur.node.ctx = some b) :
    execBrb h c s = .next (fired s (s.hold 127 (tk ts 0).wave (.exit c.exn (some (b.own + c.boff.signExtend 64 * 16)))) h [0] []) := by
  refine hc.fire rfl ?_
  rw [hblock, headD_eq_tk, ← brbPointer_eq]

/-- RDK reads once no older instance of a block that also writes the register can still commit (R30, R229). -/
theorem rdk_emits {p : BitVec 30} {st : Strand} {b : Block} (hc : CanFire s h (carrying [0]) ts) (hhere : s.here = some st)
    (hblock : s.block s.cur.node.ctx = some b)
    (holdest : b.krd (bits p 0 5) = true → b.kwr (bits p 0 5) = true → st.oldest s.cur.key = true) :
    execRdk h p s = .next (fired s s h [0] [outBoth (lane64Result s ts (Tab.get 0 (bits p 0 5) st.k))]) := by
  unfold execRdk
  refine hc.fire rfl ?_
  rw [hhere, hblock]
  dsimp only
  rw [word64_toNat, if_neg]
  · rfl
  · simpa using holdest

theorem wrk_holds {p : BitVec 30} (hc : CanFire s h ⟨[0], [0], [], [0]⟩ ts) : execWrk h p s =
    .next (fired s (s.hold 127 (tk ts 0).wave (.carry (bits p 0 5) ((tk ts 0).data.extractLsb' 0 64))) h [0] []) :=
  hc.fire rfl (by rw [ofNat_lane0])

theorem eosd_holds {x : FmtX} (hc : CanFire s h (carrying [0]) ts) :
    execEosd h x s = .next (fired s (s.hold 127 (tk ts 0).wave (.eosd (bits x.id 0 4))) h [0] []) :=
  hc.fire rfl (by rw [headD_eq_tk])

/-! ## Integer words (R235) -/

/-- A word that is `intWord` gives the lanes that its operation gives. -/
theorem laneWord_of_intWord {i : Hd → FmtA → Instr} {base : List Nat} {l : Limits} {op op' : FmtA → LaneEnv → List Lane → Nat}
    (hexec : ∀ h a s, exec (i h a) s = s.intWord h a base l (op a)) (hop : ∀ a e l, op a e l = op' a e l) : LaneWord i base l op' := by
  obtain rfl : op = op' := funext fun a => funext fun e => funext fun l => hop a e l
  intro h a s ts hc hok
  rw [hexec, State.intWord]
  exact hc.fire hok rfl

/-- Operand `i` as a value, and as a code. -/
theorem arg_values (l : List Lane) (i : Nat) : arg (l.map (·.2)) i = val l i := List.getD_map (d := (0, 0)) _ Prod.snd

theorem argN_codes (e : LaneEnv) (l : List Lane) (i : Nat) : argN (l.map fun x => x.1 % 2 ^ e.w) i = code e l i := by
  rw [argN, ← Nat.zero_mod (2 ^ e.w)]
  exact List.getD_map (d := (0, 0)) l fun x : Lane => x.1 % 2 ^ e.w

theorem idx_emits {a : FmtA} (hc : CanFire s h (computing (slotsA a [0, 1])) ts)
    (hformat : s.formatFault a arithLimits (slotsA a [0, 1]) ts = none) (hknown : s.waveKnown s.cur.node.ctx s.cur.key.lvl = true) :
    execIdx h a s = .next (fired s s h (slotsA a [0, 1]) [outBoth (s.intResult a (slotsA a [0, 1])
      (fun e l => fitInt e.fo e.sat (val l 0 + ((tk ts 0).wave - s.wave0 s.cur.key).toNat * val l 1)) ts)]) := by
  unfold execIdx
  refine hc.fire hformat ?_
  dsimp only
  rw [hknown, Bool.not_true, if_neg Bool.false_ne_true, headD_eq_tk]
  unfold fitted
  simp only [arg_values]

theorem icmp_emits {a : FmtA} (hc : CanFire s h (computing (slotsA a [0, 1])) ts)
    (hformat : s.formatFault a cmpLimits (slotsA a [0, 1]) ts = none) :
    execIcmp h a s = .next (fired s s h (slotsA a [0, 1]) [outBoth (s.cmpResult h a (slotsA a [0, 1]) ts)]) := by
  unfold execIcmp
  exact hc.fire hformat rfl

/-! ## The rounded quotient (R237) -/

/-- The mode that rounds −x to the opposite of what `r` rounds x to. -/
def mirrorMode : Rnd → Rnd
  | .rup => .rdn
  | .rdn => .rup
  | r => r

theorem roundQuot_neg_neg (r : Rnd) (a b : Int) : roundQuot r (-a) (-b) = roundQuot r a b := by
  simp only [roundQuot, neg_mul_neg, Int.natAbs_neg]

theorem roundQuot_neg (r : Rnd) (a : Int) {b : Int} (hb : b ≠ 0) : roundQuot r (-a) b = -roundQuot (mirrorMode r) a b := by
  rcases eq_or_ne a 0 with rfl | ha
  · cases r <;> simp [roundQuot, mirrorMode, hb]
  · have hflip : decide (-a * b < 0) = !decide (a * b < 0) := by
      have hab : a * b ≠ 0 := mul_ne_zero ha hb
      rw [neg_mul, ← decide_not]
      congr 1
      rw [eq_iff_iff]
      omega
    have hsign (neg : Bool) : (if !neg then -1 else 1 : Int) = -if neg then -1 else 1 := by cases neg <;> rfl
    simp only [roundQuot, hflip, hsign, Int.natAbs_neg]
    rw [neg_mul]
    cases r with
    | rup => cases decide (a * b < 0) <;> rfl
    | rne | rtz | rdn => rfl

/-- `q` is an integer nearest to a ÷ b, and the even one where two are. -/
def NearestEven (a b q : Int) : Prop :=
  2 * (a - b * q).natAbs ≤ b.natAbs ∧ (2 * (a - b * q).natAbs = b.natAbs → q % 2 = 0)

theorem NearestEven.neg {a b q : Int} (hq : NearestEven a b q) : NearestEven (-a) b (-q) := by
  rwa [NearestEven, mul_neg, neg_sub_neg, ← Int.natAbs_neg, neg_sub, Int.neg_emod_two]

theorem NearestEven.neg_both {a b q : Int} (hq : NearestEven a b q) : NearestEven (-a) (-b) q := by
  rwa [NearestEven, neg_mul, neg_sub_neg, ← Int.natAbs_neg, neg_sub, Int.natAbs_neg]

section Naturals
variable {m d : Nat}

theorem natCast_mul_not_neg (m d : Nat) : ¬(m : Int) * d < 0 := not_lt.2 (by positivity)

theorem roundQuot_rtz_nat : roundQuot .rtz m d = (m / d : Nat) := by
  simp [roundQuot, natCast_mul_not_neg]

theorem roundQuot_rdn_nat : roundQuot .rdn m d = (m / d : Nat) := by
  simp [roundQuot, natCast_mul_not_neg]

theorem roundQuot_rup_nat : roundQuot .rup m d = (m / d : Nat) + if d ∣ m then 0 else 1 := by
  by_cases hdvd : d ∣ m
  · simp [roundQuot, natCast_mul_not_neg, hdvd, Nat.mod_eq_zero_of_dvd hdvd]
  · simp [roundQuot, natCast_mul_not_neg, hdvd, mt Nat.dvd_of_mod_eq_zero hdvd]

theorem roundQuot_rne_nat (hd : 0 < d) : NearestEven m d (roundQuot .rne m d) := by
  have hround : roundQuot .rne m d =
      if d < 2 * (m % d) ∨ (d = 2 * (m % d) ∧ m / d % 2 = 1) then ((m / d : Nat) : Int) + 1 else (m / d : Nat) := by
    simp [roundQuot, natCast_mul_not_neg]
  have hm : (m : Int) = d * (m / d : Nat) + (m % d : Nat) := by exact_mod_cast (Nat.div_add_mod m d).symm
  have hrem := Nat.mod_lt m hd
  rw [NearestEven, hround]
  generalize m / d = q at *
  generalize m % d = rem at *
  rw [hm]
  split
  · rw [mul_add, mul_one]
    omega
  · omega

end Naturals

section Quotients
variable {a b : Int}

/-- What holds of the quotients of naturals, and of their opposites in the opposite mode, holds of every quotient, when it is kept as
both signs turn. -/
theorem roundQuot_induction {r : Rnd} {P : Int → Int → Int → Prop} (hb : b ≠ 0)
    (hnat : ∀ m d : Nat, 0 < d → P m d (roundQuot r m d)) (hneg : ∀ m d : Nat, 0 < d → P (-m) d (-roundQuot (mirrorMode r) m d))
    (hboth : ∀ a b q, P a b q → P (-a) (-b) q) : P a b (roundQuot r a b) := by
  have hpos (a : Int) (d : Nat) (hd : 0 < d) : P a d (roundQuot r a d) := by
    obtain ⟨m, rfl | rfl⟩ := a.eq_nat_or_neg
    · exact hnat m d hd
    · rw [roundQuot_neg r m (by omega)]
      exact hneg m d hd
  obtain ⟨d, rfl | rfl⟩ := b.eq_nat_or_neg
  · exact hpos a d (by omega)
  · have hturned := hboth _ _ _ (hpos (-a) d (by omega))
    rwa [neg_neg, ← roundQuot_neg_neg, neg_neg] at hturned

theorem roundQuot_rtz (hb : b ≠ 0) : roundQuot .rtz a b = a.tdiv b := by
  refine roundQuot_induction hb (P := fun a b q => q = a.tdiv b) (fun m d _ => roundQuot_rtz_nat) (fun m d _ => ?neg)
    fun a b q hq => ?both
  case neg =>
    rw [Int.neg_tdiv]
    exact congrArg _ roundQuot_rtz_nat
  case both => rw [hq, Int.neg_tdiv_neg]

theorem roundQuot_rdn (hb : b ≠ 0) : roundQuot .rdn a b = a.fdiv b := by
  refine roundQuot_induction hb (P := fun a b q => q = a.fdiv b) (fun m d _ => ?nat) (fun m d hd => ?neg) fun a b q hq => ?both
  case nat => rw [roundQuot_rdn_nat, Int.ofNat_fdiv]
  case neg =>
    rw [Int.fdiv_eq_ediv_of_nonneg _ (by omega), Int.neg_ediv, mirrorMode, roundQuot_rup_nat, Int.sign_eq_one_of_pos (by omega), neg_add]
    simp only [← Int.natCast_ediv, Int.natCast_dvd_natCast, sub_eq_add_neg]
  case both => rw [hq, Int.neg_fdiv_neg]

theorem roundQuot_rup (hb : b ≠ 0) : roundQuot .rup a b = -((-a).fdiv b) := by
  rw [← neg_neg a, roundQuot_neg _ _ hb, neg_neg]
  exact congrArg _ (roundQuot_rdn hb)

theorem roundQuot_rne (hb : b ≠ 0) : NearestEven a b (roundQuot .rne a b) :=
  roundQuot_induction hb (fun _ _ hd => roundQuot_rne_nat hd) (fun _ _ hd => (roundQuot_rne_nat hd).neg) fun _ _ _ hq => hq.neg_both

end Quotients

end Sys2Proof.Claims

open Sys2Proof Sys2Proof.Machine Sys2Proof.Claims

/-- Settles O1: each word is one firing whose body answers its token; the two immediates are the halves of a 60-bit number. -/
theorem movementWordsEmit : Obligations.MovementWordsEmit := by
  unfold Obligations.MovementWordsEmit
  intro h
  refine ⟨?copy, ?movi, ?movhi, ?fan, ?drop, ?steer, ?sel, ?merge, ?plog, ?cnst, ?ord, ?strm, ?immediate, ?reach⟩
  case reach => exact fun v hlo hhi => exists_movi_movhi hlo hhi
  case immediate =>
    rintro a s ts hc ⟨hin, hout, hscale⟩
    rw [exec]
    exact hc.fire (movImmFault_none hin hout hscale) (by rw [headD_eq_tk]; rfl)
  case copy | fan | merge =>
    intro p s ts hc _
    rw [exec]
    exact hc.fire rfl (by rw [headD_eq_tk])
  case drop | steer | sel | ord | strm =>
    intro p s ts hc _
    rw [exec]
    exact hc.fire rfl rfl
  case movi =>
    intro p s ts hc _
    rw [exec]
    exact hc.fire rfl (by rw [moviValue_eq, word64_toNat]; rfl)
  case movhi =>
    intro p s ts hc _
    rw [exec]
    exact hc.fire rfl (by rw [headD_eq_tk, movhiValue_eq, word64_toNat]; rfl)
  case plog => exact fun p s ts hc _ => plog_fires (p := p) hc
  case cnst =>
    intro p s ts hc _
    rw [exec]
    exact hc.fire rfl (by dsimp only; rw [word64_toNat]; rfl)

/-- Settles O2: one lemma for each word, whose guards are the hypotheses of its clause. -/
theorem tagAndExitWordsAct : Obligations.TagAndExitWordsAct := by
  unfold Obligations.TagAndExitWordsAct
  intro h
  refine ⟨?taga, ?tagf, ?down, ?up, ?advance, ?stop, ?gate, ?exit, ?brb, ?rdk, ?wrk, ?eosd⟩
  case taga => exact fun p st b s ts hc ⟨hhere, hblock, hlevel⟩ => taga_asks hc hhere hblock hlevel
  case tagf => exact fun p s ts hc hlevel => tagf_holds hc hlevel
  case down => exact fun p st s ts hc ⟨hhere, hlevel, hgranted⟩ => tagxDown_enters (p := p) hc hhere hlevel hgranted
  case up => exact fun p st q s ts hc ⟨hhere, hlevel, hparent⟩ => tagxUp_leaves (p := p) hc hhere hlevel hparent
  case advance => exact fun p s ts hc ⟨hpred, hcont, hlevel⟩ => wadv_advances (p := p) hc hpred hcont hlevel
  case stop => exact fun p s ts hc ⟨hpred, hcont⟩ => wadv_stops (p := p) hc hpred hcont
  case gate => exact fun p s ts hc hfirst => gate_passes (p := p) hc hfirst
  case exit => exact fun c s ts hc _ => exit_holds hc
  case brb => exact fun c b s ts hc hblock => brb_holds hc hblock
  case rdk => exact fun p st b s ts hc ⟨hhere, hblock, holdest⟩ => rdk_emits hc hhere hblock holdest
  case wrk => exact fun p s ts hc _ => wrk_holds hc
  case eosd => exact fun x s ts hc _ => eosd_holds hc

/-- Settles O4: each word is `intWord` with its exact operation; IDX also waits for the level's first wave, and CMP answers conditions. -/
theorem arithmeticWordsEmit : Obligations.ArithmeticWordsEmit := by
  unfold Obligations.ArithmeticWordsEmit
  refine ⟨?add, ?sub, ?mul, ?mulh, ?mad, ?neg, ?abs, ?min, ?max, ?addi, ?clamp, ?idx, ?cmp⟩
  case idx => exact fun h a s ts hc ⟨hformat, hknown⟩ => idx_emits hc hformat hknown
  case cmp => exact fun h a s ts hc hformat => icmp_emits hc hformat
  case add | sub | mul | mulh | mad | neg | abs | min | max | addi | clamp =>
    exact laneWord_of_intWord (fun _ _ _ => rfl) fun a e l => by simp only [mulHigh, fitted, arg_values]

/-- Settles O5: the lanes of DIV and REM are those of `roundQuot`, which each mode rounds by its own lemma; the rest are values. -/
theorem divisionRounds : Obligations.DivisionRounds := by
  unfold Obligations.DivisionRounds
  refine ⟨?div, ?rem, ?modes, fun s a => rfl, by decide, by decide, by decide, by decide, by decide⟩
  case div | rem => exact laneWord_of_intWord (fun _ _ _ => rfl) fun a e l => by simp only [divLane, remLane, arg_values]
  case modes => exact fun a b hb => ⟨roundQuot_rtz hb, roundQuot_rdn hb, roundQuot_rup hb, roundQuot_rne hb⟩

/-- Settles O6: each word is `intWord` with its operation on w-bit codes. -/
theorem bitwiseWordsEmit : Obligations.BitwiseWordsEmit := by
  unfold Obligations.BitwiseWordsEmit
  refine ⟨?and, ?or, ?xor, ?not, ?shl, ?shr, ?sar, ?rot, ?clz, ?popc, ?bfx, ?bfi, ?lea, ?aff⟩
  case and | or | xor | not | shl | shr | rot | clz | popc | lea | aff =>
    exact laneWord_of_intWord (fun _ _ _ => rfl) fun a e l => by
      simp only [coded, shlCode, shrCode, rotCode, clzCode, affCode, argN_codes]
  case sar =>
    refine laneWord_of_intWord (fun _ _ _ => rfl) fun a e l => ?_
    rw [coded, sarCode, argN_codes, argN_codes]
    rfl
  case bfx | bfi => exact laneWord_of_intWord (fun _ _ _ => rfl) fun _ _ _ => rfl
end

section
/-! PROOFS. Float words, lane movers, reductions, channel and quantisation words: obligations O7, O8 and O17. Each word is one firing
(`CanFire.fire`) with the body its rule gives; IMM16 in place of slot 1 (R199) is settled by the case of IMS. -/

namespace Sys2Proof.Claims

open Sys2Proof.Machine

variable {s : State} {h : Hd} {a : FmtA} {ts : List Tok}

/-! ## Float words (R245 to R250) -/

theorem floatResult_eq (ports : List Nat) (op : Rnd → List Val → Val) :
    s.floatResult a ports op ts =
      result s.cur.word ts (s.encodeLanes a ((s.floatLanes a ports ts (lanesIn s a ts)).map (op (s.rndOfA a)))) := by
  unfold State.floatResult
  rw [headD_eq_tk]
  rfl

/-- A word that is `floatWord` rounds the lanes that its operation gives. -/
theorem floatWord_of_exec {i : Hd → FmtA → Instr} {base : List Nat} {op : FmtA → Rnd → List Val → Val}
    (hexec : ∀ h a s, exec (i h a) s = s.floatWord h a base (op a)) : FloatWord i base op := by
  intro h a s ts hc hformat
  rw [hexec, State.floatWord]
  refine hc.fire hformat ?_
  rw [floatResult_eq, headD_eq_tk]
  rfl

theorem cvtResult_eq :
    s.cvtResult a ts = { result s.cur.word ts (s.encodeLanes a ((s.floatLanes a [0] ts (lanesIn s a ts)).map v0)) with
      nlane := nlaneFor (fmtOut s a) (lanesIn s a ts) } := by
  unfold State.cvtResult
  rw [headD_eq_tk]
  rfl

/-- A word that is `cvtWord` converts the lanes of slot 0 when VCO has room for them. -/
theorem converts_of_cvtWord {i : Hd → FmtA → Instr} {l : Limits} (hexec : ∀ h a s, exec (i h a) s = s.cvtWord h a l) :
    Converts i l := by
  rintro h a s ts hc ⟨hformat, hroom⟩
  rw [hexec, State.cvtWord]
  refine hc.fire ?checks ?_
  case checks =>
    rw [hformat, headD_eq_tk]
    exact if_neg (not_lt.2 hroom)
  rw [cvtResult_eq, headD_eq_tk]
  rfl

theorem fcmpResult_eq (ports : List Nat) : s.fcmpResult h a ports ts =
    let c := condResult (fmtOut s a) ((s.floatLanes a ports ts (lanesIn s a ts)).map fun l => fcond h.fn.toNat (v0 l) (v1 l))
      (tk ts 0).nlane
    { result s.cur.word ts c.1 with nlane := c.2 } := by
  unfold State.fcmpResult
  rw [headD_eq_tk]
  rfl

/-! ## Lane movers (R251, R252) -/

/-- VCMPR emits the lanes it keeps, and NIL when it keeps none. -/
theorem vcmpr_emits (hc : CanFire s h (controlSlots a) ts) (hfault : s.moverFault a true (ts.take 1) = none) :
    execVcmpr h a s = .next (fired s s h (slotsA a [0, 1]) [outBoth (if vcmprCodes s a ts = [] then nilResult s.cur.word ts
      else s.moverResult a ts [tk ts 0] (vcmprCodes s a ts) (nlaneFor (fmtOut s a) (vcmprCodes s a ts).length))]) := by
  refine hc.fire hfault ?_
  simp only [List.isEmpty_iff]
  rfl

theorem control_register (t0 t1 : Tok) (hims : a.ims = false) : s.control a [t0, t1] = t1.data := by
  rw [State.control, State.withImm, hims, if_neg Bool.false_ne_true]
  rfl

theorem control_immediate (t0 : Tok) (hims : a.ims = true) : s.control a [t0] = (s.immTok a (s.beatLanes a)).data := by
  rw [State.control, State.withImm, hims, if_pos rfl]
  rfl

theorem vselm_selects (hims : a.ims = false) (hc : CanFire s h ⟨[0, 1, 2], [0, 1, 2], [0], [0, 1, 2]⟩ ts)
    (hfault : s.moverFault a false (ts.drop 1) = none) :
    execVselm h a s = .next (fired s s h [0, 1, 2] [outBoth (s.moverResult a ts [tk ts 1, tk ts 2]
      ((List.range (validLanes (fmtIn s a) (tk ts 1))).map fun i =>
        if bit (tk ts 0).data i then (s.moved (tk ts 1)).getD i 0 else (s.moved (tk ts 2)).getD i 0) (tk ts 1).nlane)]) := by
  obtain ⟨t, u, v, rfl⟩ := List.length_eq_three.1 hc.length
  unfold execVselm
  rw [slotsA, hims, if_neg Bool.false_ne_true]
  refine hc.fire hfault ?_
  dsimp only
  rw [vselmLanes, vselmCodes, hims]
  rfl

/-- An immediate b stands in every lane of the mask, of which a free number is valid (log entry 21). -/
theorem vselm_selects_immediate (hims : a.ims = true) (hc : CanFire s h ⟨[0, 2], [0, 2], [0], [0, 2]⟩ ts)
    (hfault : s.moverFault a false (ts.drop 1) = none) :
    execVselm h a s = .next (fired s s.spent h [0, 2] [outBoth (s.moverResult a ts [tk ts 1]
      ((List.range (validLanes (fmtIn s a) { nlane := vselmLanes s a ts })).map fun i =>
        if bit (tk ts 0).data i then s.immCode a else (s.moved (tk ts 1)).getD i 0) (vselmLanes s a ts))]) := by
  obtain ⟨t, u, rfl⟩ := List.length_eq_two.1 hc.length
  have hcodes (n : Nat) : vselmCodes s a [t, u] n =
      (List.range n).map fun i => if bit t.data i then s.immCode a else (s.moved u).getD i 0 := by
    rw [vselmCodes, hims]
    refine List.map_congr_left fun i hi => ?_
    rw [if_pos rfl, List.getD_replicate _ (List.mem_range.1 hi)]
    rfl
  unfold execVselm
  rw [slotsA, hims, if_pos rfl]
  refine hc.fire hfault ?_
  dsimp only
  rw [hcodes]
  rfl

theorem vlane_emits (hc : CanFire s h ⟨slotsA a [0, 1], slotsA a [0, 1], (slotsA a [0, 1]).filter (· != 0), slotsA a [0, 1]⟩ ts)
    (hfault : s.laneFault a ts = none) :
    execVlane h a s = .next (fired s s h (slotsA a [0, 1]) [outBoth (if h : s.laneNumber a ts < (s.moved (tk ts 0)).length then
      s.moverResult a ts [tk ts 0] [(s.moved (tk ts 0))[s.laneNumber a ts]] 0 else nilResult s.cur.word ts)]) := by
  unfold execVlane
  refine hc.fire hfault ?_
  split
  · next c hcode =>
    obtain ⟨hlt, rfl⟩ := List.getElem?_eq_some_iff.1 hcode
    rw [dif_pos hlt]
  · next hnone => rw [dif_neg (not_lt.2 (List.getElem?_eq_none_iff.1 hnone))]

theorem viota_emits (hc : CanFire s h (carrying [0]) ts) (hfault : viotaFault a s = none) :
    execViota h a s = .next (fired s (s.wrote s.cur.node a.vco (lanesOut s a)) h [0]
      [outBoth { result s.cur.word ts (s.encodeLanes a ((List.range (lanesOut s a)).map fun (i : Nat) =>
        intVal ((i : Int) + if a.ims then signed 16 a.imm.toNat else 0))) with nlane := allLanes (fmtOut s a) }]) := by
  refine hc.fire hfault ?_
  have hlength : (viotaVals s a).length = lanesOut s a := by rw [viotaVals, List.length_map, List.length_range, lanesOut]
  dsimp only
  rw [hlength]
  rfl

/-- VPACK's own checks come after those of every mover, which alone a NIL operand is held to. -/
theorem vpackChecks_none (hfault : vpackFault a s ts = none) :
    (if ts.any (·.fl.nil) then s.moverFault a false ts else vpackFault a s ts) = none := by
  have hmover : s.moverFault a false ts = none := (Option.or_eq_none_iff.1 hfault).1
  rw [hmover, hfault, ite_self]

theorem vpack_joins (hims : a.ims = false) (hc : CanFire s h ⟨[0, 1], [0, 1], [], [0, 1]⟩ ts) (hfault : vpackFault a s ts = none) :
    execVpack h a s = .next (fired s s h [0, 1] [outBoth (s.moverResult a ts ts (s.moved (tk ts 0) ++ s.moved (tk ts 1))
      (nlaneFor (fmtOut s a) ((s.moved (tk ts 0)).length + (s.moved (tk ts 1)).length)))]) := by
  have hpacked : s.packed a ts = ts := by rw [State.packed, State.withImm, hims, if_neg Bool.false_ne_true]
  unfold execVpack
  rw [slotsA, hims, if_neg Bool.false_ne_true]
  refine hc.fire (vpackChecks_none hfault) ?_
  dsimp only
  rw [hpacked, List.length_append, if_neg Bool.false_ne_true]
  rfl

/-- How many lanes of an immediate are joined is free (log entry 21). -/
theorem vpack_joins_immediate (hims : a.ims = true) (hc : CanFire s h ⟨[0], [0], [], [0]⟩ ts) (hfault : vpackFault a s ts = none) :
    execVpack h a s = .next (fired s s.spent h [0] [outBoth (
      let l := s.moved (tk ts 0) ++ s.moved (tk (s.packed a ts) 1)
      s.moverResult a ts ts l (nlaneFor (fmtOut s a) l.length))]) := by
  unfold execVpack
  rw [slotsA, hims, if_pos rfl]
  refine hc.fire (vpackChecks_none hfault) ?_
  dsimp only
  rw [if_pos rfl]
  rfl

theorem vunpk_splits (hc : CanFire s h ⟨[0], [0], [], [0]⟩ ts) (hfault : s.moverFault a false ts = none) :
    execVunpk h a s = .next (fired s s h [0] (
      let lo := (s.moved (tk ts 0)).take (s.beatLanes a / 2)
      let hi := (s.moved (tk ts 0)).drop (s.beatLanes a / 2)
      [outA (s.moverResult a ts ts lo (nlaneFor (fmtOut s a) lo.length)),
       outB (if hi = [] then nilResult s.cur.word ts else s.moverResult a ts ts hi (nlaneFor (fmtOut s a) hi.length))])) := by
  refine hc.fire hfault ?_
  simp only [List.isEmpty_iff]
  rfl

/-! ## Channel and header words (R254, R255) -/

theorem vcset_holds {p : BitVec 30} (hc : CanFire s h ⟨[0], [0], [0], []⟩ ts) (hnil : (tk ts 0).fl.nil = false)
    (hreserved : bits (tk ts 0).data 0 7 = 0) : execVcset h p s =
    .next (fired s (s.hold 127 (tk ts 0).wave (.vcset (p.extractLsb' 0 6) ((tk ts 0).data.extractLsb' 0 32))) h [0] []) := by
  have hentry : bits ((tk ts 0).data.extractLsb' 0 32) 0 7 = 0 := by
    refine Eq.trans ?_ hreserved
    simp only [bits, BitVec.extractLsb'_toNat, Nat.shiftRight_zero]
    exact Nat.mod_mod_of_dvd _ (show 2 ^ 7 ∣ 2 ^ 32 by decide)
  refine hc.fire ?checks ?_
  case checks =>
    rw [vcsetFault, headD_eq_tk, hnil, hentry]
    rfl
  rw [headD_eq_tk]
  dsimp only
  rw [hnil, if_neg Bool.false_ne_true]

/-- A NIL operand cancels the write (R254). -/
theorem vcset_cancelled {p : BitVec 30} (hc : CanFire s h ⟨[0], [0], [0], []⟩ ts) (hnil : (tk ts 0).fl.nil = true) :
    execVcset h p s = .next (fired s s h [0] []) := by
  refine hc.fire ?checks ?_
  case checks =>
    rw [vcsetFault, headD_eq_tk, hnil]
    rfl
  rw [headD_eq_tk]
  dsimp only
  rw [hnil, if_pos rfl]

theorem word64_entry (e : BitVec 32) : word64 e.toNat = e.zeroExtend 384 := by
  rw [word64, Nat.mod_eq_of_lt (e.isLt.trans (by decide)), BitVec.ofNat_toNat]

theorem vcget_emits {p : BitVec 30} (hc : CanFire s h (carrying [0]) ts) : execVcget h p s =
    .next (fired s s h [0] [outBoth (result s.cur.word ts ((s.ent (p.extractLsb' 0 5)).zeroExtend 384))]) :=
  hc.fire rfl (by rw [word64_entry])

theorem hdr_emits (hc : CanFire s h ⟨[0], [0], [], [0]⟩ ts) (hwords : (tk ts 0).nlane.toNat ≤ 11) : execHdr h a s =
    .next (fired s s h [0]
      [outBoth { tk ts 0 with vc := a.vco, fl := { (tk ts 0).fl with hdr := true, last := false, endf := false } }]) := by
  refine hc.fire ?checks (by rw [headD_eq_tk])
  rw [headD_eq_tk]
  dsimp only
  rw [decide_eq_false (not_lt.2 hwords), Bool.and_false, if_neg Bool.false_ne_true]

/-! ## Quantisation words (R256, R257) -/

theorem qnt_emits (hc : CanFire s h (computing [0]) ts) (hformat : s.formatFault a qntLimits [0] ts (some 0) = none) :
    execQnt h a s = .next (fired s s h [0] (
      let l := s.vals s.cur.node 0 (tk ts 0)
      let sc := qntScale (fmtOut s a) (maxAbs l)
      let codes := l.map fun v => encodeElem (fmtOut s a) (s.rndOfA a) true (v.unscaled sc)
      [outA { result s.cur.word ts (packLanes (fmtOut s a) codes) with nlane := nlaneFor (fmtOut s a) l.length },
       outB { result s.cur.word ts (BitVec.ofNat 384 (pack [(24, 8, sc), (16, 8, l.length), (0, 12, maxmCode (fmtOut s a) codes)]))
              with nlane := 0 }])) := by
  refine hc.fire hformat ?_
  rw [State.qnt, headD_eq_tk]
  rfl

theorem i4xp_emits (hc : CanFire s h (computing [0]) ts)
    (hformat : s.formatFault a i4xpLimits [0] ts (some ((lanesIn s a ts + 3) / 4 * 4)) = none) :
    execI4xp h a s = .next (fired s (s.wrote s.cur.node a.vco (s.i4xp ts).length) h [0]
      [outBoth { result s.cur.word ts (s.encodeLanes a (s.i4xp ts)) with nlane := nlaneFor 1 (s.i4xp ts).length }]) := by
  refine hc.fire ?checks rfl
  rwa [headD_eq_tk]

theorem i4xu_emits (hc : CanFire s h (computing [0]) ts)
    (hformat : s.formatFault a i4xuLimits [0] ts (some (s.i4xu a ts).length) = none) (hfirst : i4xuFirst a % lanesOut s a = 0) :
    execI4xu h a s = .next (fired s (s.wrote s.cur.node a.vco (s.i4xu a ts).length) h [0]
      [outBoth (if s.i4xu a ts = [] then nilResult s.cur.word ts
        else { result s.cur.word ts (s.encodeLanes a (s.i4xu a ts)) with nlane := nlaneFor (fmtOut s a) (s.i4xu a ts).length })]) := by
  rw [lanesOut] at hfirst
  refine hc.fire ?checks ?_
  case checks =>
    rw [hformat, hfirst]
    rfl
  simp only [List.isEmpty_iff]
  rfl

end Sys2Proof.Claims

open Sys2Proof Sys2Proof.Machine Sys2Proof.Claims

/-- Settles O7: each word is `floatWord` with its exact operation, or `cvtWord`; FCMP answers conditions. -/
theorem floatWordsEmit : Obligations.FloatWordsEmit := by
  unfold Obligations.FloatWordsEmit
  refine ⟨?add, ?sub, ?mul, ?fma, ?min, ?max, ?abs, ?neg, ?rcp, ?rsq, ?ex2, ?lg2, ?tnh, ?exs, ?scl, ?rnd, ?cvt, ?itof, ?ftoi, ?cmp⟩
  case add | sub | mul | fma | min | max | abs | neg | rcp | rsq | ex2 | lg2 | tnh | exs | scl | rnd =>
    exact floatWord_of_exec fun _ _ _ => rfl
  case cvt | itof | ftoi => exact converts_of_cvtWord fun _ _ _ => rfl
  case cmp =>
    intro h a s ts hc hformat
    rw [exec]
    unfold execFcmp
    exact hc.fire hformat (by rw [fcmpResult_eq])

/-- Settles O8: a mover whose codes the model gives by one list is that list; the others, and the immediates, have a lemma each. -/
theorem laneMoversEmit : Obligations.LaneMoversEmit := by
  unfold Obligations.LaneMoversEmit
  refine ⟨?bcst, ?shuf, ?compress, ?compressNone, ?expand, ?control, ?controlImmediate, ?select, ?selectImmediate, ?lane, ?iota, ?pack,
    ?packImmediate, ?unpack, ?red, ?dot, ?scan⟩
  case bcst =>
    intro h a s ts hc hfault
    rw [exec]
    unfold execVbcst
    exact hc.fire hfault rfl
  case shuf | expand | red | scan =>
    intro h a s ts hc hfault
    rw [exec]
    exact hc.fire hfault rfl
  case dot =>
    intro h a s ts hc hformat
    rw [exec]
    unfold execVdot
    exact hc.fire hformat rfl
  case compress =>
    rintro h a s ts hc ⟨hfault, hsome⟩
    rw [exec, vcmpr_emits hc hfault, if_neg hsome]
    rfl
  case compressNone =>
    rintro h a s ts hc ⟨hfault, hnone⟩
    rw [exec, vcmpr_emits hc hfault, if_pos hnone]
    rfl
  case control => exact fun s a t0 t1 hims => control_register t0 t1 hims
  case controlImmediate => exact fun s a t0 hims => control_immediate t0 hims
  case select => exact fun h a hims s ts hc hfault => vselm_selects hims hc hfault
  case selectImmediate => exact fun h a hims s ts hc hfault => vselm_selects_immediate hims hc hfault
  case lane => exact fun h a s ts hc hfault => vlane_emits hc hfault
  case iota => exact fun h a s ts hc hfault => viota_emits hc hfault
  case pack => exact fun h a hims s ts hc hfault => vpack_joins hims hc hfault
  case packImmediate => exact fun h a hims s ts hc hfault => vpack_joins_immediate hims hc hfault
  case unpack => exact fun h a s ts hc hfault => vunpk_splits hc hfault

/-- Settles O17: one lemma for each word; those of DQNT and SCLX are their bodies as they stand. -/
theorem channelWordsComplete : Obligations.ChannelWordsComplete := by
  unfold Obligations.ChannelWordsComplete
  intro h
  refine ⟨?set, ?setNil, ?get, ?hdr, ?qnt, ?dqnt, ?sclx, ?i4xp, ?i4xu⟩
  case set => exact fun p s ts hc ⟨hnil, hreserved⟩ => vcset_holds hc hnil hreserved
  case setNil => exact fun p s ts hc hnil => vcset_cancelled (p := p) hc hnil
  case get => exact fun p s ts hc _ => vcget_emits hc
  case hdr => exact fun a s ts hc hwords => hdr_emits hc hwords
  case qnt => exact fun a s ts hc hformat => qnt_emits hc hformat
  case dqnt =>
    intro a s ts hc hfault
    rw [exec]
    exact hc.fire hfault rfl
  case sclx =>
    intro a s ts hc hformat
    rw [exec]
    unfold execSclx
    exact hc.fire hformat rfl
  case i4xp => exact fun a s ts hc hformat => i4xp_emits hc hformat
  case i4xu => exact fun a s ts hc ⟨hformat, hfirst⟩ => i4xu_emits hc hformat hfirst
end

section
/-! PROOFS. Tile and verdict words: obligations O24 to O28. A word that fires is read by `CanFire.fire`, a settled word of the tile by
`settledWordsPerform`; the lemmas say what is left, the body of the one and the performance of the other. -/

namespace Sys2Proof.Claims

open Sys2Proof.Machine

variable {s t : State} {h : Hd} {a : FmtA} {ts : List Tok}

/-! ## Settled words of the tile (R260 to R262, R264, R266) -/

section Perform
variable {u : State} {r : Rmw}

theorem performRmw_mlds (hop : opcode r.word = 0xA7) : u.performRmw r = u.performMlds r := by simp only [State.performRmw, hop]
theorem performRmw_mswp (hop : opcode r.word = 0xA8) : u.performRmw r = u.performMswp r := by simp only [State.performRmw, hop]
theorem performRmw_mctl (hop : opcode r.word = 0xA9) : u.performRmw r = u.performMctl r := by simp only [State.performRmw, hop]
theorem performRmw_mclr (hop : opcode r.word = 0xAC) : u.performRmw r = u.performMclr r := by simp only [State.performRmw, hop]
theorem performRmw_vdcl (hop : opcode r.word = 0xB0) : u.performRmw r = u.performVdcl r := by simp only [State.performRmw, hop]

/-- A firing that took slot 0 alone has one operand. -/
theorem headOp_eq (hops : r.ops.map (·.1) = [0]) : ((r.ops.head?).map (·.2)).getD {} = (opsOf r).headD {} := by
  obtain ⟨⟨p, t⟩, hone, hport⟩ := List.map_eq_singleton_iff.1 hops
  obtain rfl : p = 0 := hport
  rw [opsOf, hone]
  rfl

variable (hdue : u.tileDue r.node (·.before r) = false)
include hdue

theorem performMlds_discards (habandoned : u.abandoned r.node r.key = true) : u.performMlds r = .fires u [] := by
  rw [State.performMlds, hdue, if_neg Bool.false_ne_true, if_pos habandoned]

theorem performMlds_writes (habandoned : u.abandoned r.node r.key = false) (hops : r.ops.map (·.1) = [0]) :
    u.performMlds r =
      let t := (opsOf r).headD {}
      .fires (u.setTile r.node { u.tile r.node with
        shadow := Tab.put {} t.seq.toNat ⟨t.data, r.nums.headD 2, r.nums.drop 1, t.fl.poi⟩ (u.tile r.node).shadow }) [] := by
  rw [State.performMlds, hdue, if_neg Bool.false_ne_true, habandoned, if_neg Bool.false_ne_true, headOp_eq hops]

theorem performMswp_exchanges : u.performMswp r =
    .fires (u.setTile r.node { u.tile r.node with plane := (u.tile r.node).shadow, shadow := (u.tile r.node).plane }) [] := by
  rw [State.performMswp, hdue, if_neg Bool.false_ne_true]

theorem performMctl_sets : u.performMctl r = .fires (u.setTile r.node { u.tile r.node with accf := bit r.word 0 }) [] := by
  rw [State.performMctl, hdue, if_neg Bool.false_ne_true]

theorem performMclr_drops : u.performMclr r =
    .fires (u.setTile r.node { u.tile r.node with tags := (u.tile r.node).tags.filter fun y => !clears u r y }) [] := by
  rw [State.performMclr, hdue, if_neg Bool.false_ne_true]
  rfl

theorem performVdcl_declares (hops : r.ops.map (·.1) = [0]) : u.performVdcl r =
    .fires (u.setTile r.node { u.tile r.node with decls := (r.node.ctx.slot, r.key, declares r ((opsOf r).headD {})) ::
      ((u.tile r.node).decls.filter fun y => !(y.1 = r.node.ctx.slot && y.2.1 = r.key)) }) [] := by
  rw [State.performVdcl, hdue, if_neg Bool.false_ne_true, headOp_eq hops]
  rfl

end Perform

/-- The scale 255 of a header word is refused by VDCL (R376). -/
theorem vdclSystolic_queues {p : BitVec 30} (hc : CanFire s h (computing [0]) ts) (hscale : bits (tk ts 0).data 24 8 ≠ 255) :
    execVdclSystolic h p s = .next (fired s (s.queueRmw 127 [0] ts) h [0] []) :=
  hc.fire (ifData_none (if_neg hscale)) rfl

/-! ## MFIR and MDRN (R263, R264) -/

/-- A tag whose accumulation is not abandoned, or is over, takes its beats. -/
theorem takes_iff (x : TileTag) : (x.dropped && !x.over) = false ↔ x.dropped = false ∨ x.over = true := by
  rw [Bool.and_eq_false_iff, Bool.not_eq_false']

theorem mfir_delivers (htakes : (s.tagOf s.cur.node s.cur.key).dropped = false ∨ (s.tagOf s.cur.node s.cur.key).over = true)
    (ht : t = s.nextStep s.cur.node s.cur.key (s.tagOf s.cur.node s.cur.key))
    (hc : CanFire t h ⟨[0], [0], [], [0]⟩ ts) (hwants : (s.tagOf s.cur.node s.cur.key).wants (tk ts 0).seq.toNat = true)
    (hfault : mfirFault a
      (t.overstated (tk ts 0) (t.tagFor s.cur.node (s.tagOf s.cur.node s.cur.key) (tk ts 0).seq.toNat).1) t ts = none)
    (hcrumb : t.crumbFault s.cur.node 0 (tk ts 0) = none) (hdue : t.tileDue s.cur.node (fun _ => true) = false)
    (hfrozen : t.tileFrozen s.cur.node s.cur.key = false) :
    execMfir h a s = .next (
      let q := (tk ts 0).seq.toNat
      let b := t.tileBeat (tk ts 0)
      let x := (t.tagFor s.cur.node (s.tagOf s.cur.node s.cur.key) q).1
      let y := { x with beats := x.beats ++ [b], seen := x.seen + 1, ending := if b.ends then some (q / 8) else x.ending }
      fired t ((t.spent.putTag s.cur.node (t.tagFor s.cur.node (s.tagOf s.cur.node s.cur.key) q).2
        (t.tileRun s.cur.node (tk ts 0) (t.accSat s.cur.node.ctx) 64 y)).stopWeights s.cur.node s.cur.key) h [0] []) := by
  unfold execMfir
  dsimp only
  rw [(takes_iff _).2 htakes, if_neg Bool.false_ne_true, ← ht]
  refine hc.fire ?checks ?_
  case checks =>
    rw [if_neg Bool.false_ne_true, hfault, hcrumb]
    rfl
  rw [hdue, hfrozen, hwants, Bool.or_false, Bool.not_true, if_neg Bool.false_ne_true, if_neg Bool.false_ne_true,
    if_neg Bool.false_ne_true]

theorem mfir_discards (hc : CanFire s h ⟨[0], [0], [], [0]⟩ ts) (hdropped : (s.tagOf s.cur.node s.cur.key).dropped = true)
    (hover : (s.tagOf s.cur.node s.cur.key).over = false) (hdue : s.tileDue s.cur.node (fun _ => true) = false)
    (hfrozen : s.tileFrozen s.cur.node s.cur.key = false) :
    execMfir h a s = .next (fired s (s.putTag s.cur.node (s.tile s.cur.node)
      ((s.tagOf s.cur.node s.cur.key).discard ((tk ts 0).seq.toNat / 8) (s.endsStep s.cur.node (tk ts 0)))) h [0] []) := by
  unfold execMfir
  dsimp only
  rw [hdropped, hover, Bool.not_false, Bool.and_true, if_pos rfl]
  refine hc.fire (if_pos rfl) ?_
  rw [hdue, hfrozen, Bool.or_false, if_neg Bool.false_ne_true, if_pos rfl]

theorem mdrn_drains {x : TileTag}
    (hentry : (s.tile s.cur.node).tags.find? (fun y => y.key = s.cur.key && y.slot = s.cur.node.ctx.slot) = some x)
    (hc : CanFire s h (carrying [0]) ts) (hfault : mdrnFault a s ts = none)
    (hdue : s.tileDue s.cur.node (fun _ => true) = false) (hfinal : x.final = true) (hdrained : x.drained = false)
    (hfmt : fmtOf (s.ent a.vci) = x.fmt) (hpoison : x.poison = []) :
    execMdrn h a s = .next (fired s
      ((s.drainOuts a ts x 8 0).2.spent.putTag s.cur.node ((s.drainOuts a ts x 8 0).2.tile s.cur.node) { x with drained := true })
      h [0] (s.drainOuts a ts x 8 0).1) := by
  unfold execMdrn
  refine hc.fire hfault ?_
  rw [hdue, if_neg Bool.false_ne_true]
  split
  · next hnone => cases hentry.symm.trans hnone
  · next y hy =>
    obtain rfl : x = y := Option.some.inj (hentry.symm.trans hy)
    -- as a pair, so that nothing has to compare the eight tokens of one drain with those of another
    obtain ⟨outs, drained⟩ := s.drainOuts a ts x 8 0
    rw [hfinal, hdrained, Bool.not_true, Bool.or_false, if_neg Bool.false_ne_true, if_neg (by simpa using hfmt),
      if_neg (by simpa using hpoison)]

/-! ## THRP and VPIK (R270, R271) -/

theorem thrp_offers {p : BitVec 30} {st : Strand} (hc : CanFire s h (computing [0]) ts) (hhere : s.here = some st)
    (hmask : bit p 3 = true → s.inMask st.part (bits p 10 3) (bits p 4 6) = true) :
    execThrp h p s = .next (fired s (s.hold 127 (tk ts 0).wave (.offer (if bit p 3 then bits p 10 3 else s.cur.node.ctx.die)
      (if bit p 3 then bits p 4 6 else s.cur.node.ctx.wafer) (bits p 0 3) (s.thrpValue (tk ts 0)))).spent h [0] []) := by
  have hreaches : (bit p 3 && !s.inMask st.part (bits p 10 3) (bits p 4 6)) = false := by
    rw [Bool.and_eq_false_imp, Bool.not_eq_false']
    exact hmask
  unfold execThrp
  refine hc.fire rfl ?_
  rw [hhere]
  dsimp only
  rw [hreaches, if_neg Bool.false_ne_true]

/-! ## VACC (R267) -/

/-- A beat fires whether it ends the accumulation, abandons it, or leaves it going on. -/
theorem vaccBeat_fires (v : Vacc) : ∃ u outs, t.vaccBeat a v ts = .fires u outs := by
  unfold State.vaccBeat
  dsimp only
  split
  case isTrue crumbed => exact ⟨_, _, rfl⟩
  case isFalse going =>
    split
    case isTrue ends => exact ⟨_, _, rfl⟩
    case isFalse more => split <;> exact ⟨_, _, rfl⟩

theorem vacc_opens {u : State} {outs : List Out} (hkept : keptHere s = none)
    (hnext : s.nextBeats a s.cur.node s.cur.key 0 = some t)
    (hc : CanFire t h ⟨vaccBeats a ++ [2], vaccBeats a ++ [2], vaccBeats a ++ [2], []⟩ ts)
    (hfault : vaccFault a (fun s ts => s.openVacc (tk ts 2)) t ts = none) (hdecl : declFault (tk (t.vaccToks a ts) 2) = none)
    (hbeat : t.vaccBeat a (t.openVacc (tk (t.vaccToks a ts) 2)) ts = .fires u outs) :
    execVacc h a s = .next (fired t u h (vaccBeats a ++ [2]) outs) := by
  rw [keptHere] at hkept
  unfold execVacc
  dsimp only
  rw [hkept]
  dsimp only
  rw [hnext]
  refine hc.fire hfault ?_
  rw [hdecl, hbeat]

/-- Beats after a crumb are taken unchecked. -/
theorem vacc_adds {k : Kept} {u : State} {outs : List Out} (hkept : keptHere s = some k)
    (hnext : s.nextBeats a s.cur.node s.cur.key (Vacc.ofKept k).next = some t)
    (hc : CanFire t h ⟨vaccBeats a, vaccBeats a ++ [2], if (Vacc.ofKept k).crumbed then [] else vaccBeats a, []⟩ ts)
    (hfault : (Vacc.ofKept k).crumbed = false → vaccFault a (fun _ _ => Vacc.ofKept k) t ts = none)
    (hbeat : t.vaccBeat a (Vacc.ofKept k) ts = .fires u outs) :
    execVacc h a s = .next (fired t u h (vaccBeats a) outs) := by
  rw [keptHere] at hkept
  unfold execVacc
  dsimp only
  rw [hkept]
  dsimp only
  rw [hnext]
  dsimp only
  split
  case isTrue hcrumbed =>
    rw [if_pos hcrumbed] at hc
    exact hc.fire rfl hbeat
  case isFalse hgoing =>
    rw [if_neg hgoing] at hc
    exact hc.fire (hfault (Bool.eq_false_iff.2 hgoing)) hbeat

/-! ## TOPK (R269) -/

theorem topk_takes {nums : List Nat} (hnums : nums = ((keptHere s).map (·.nums)).getD [0])
    (hnext : s.bySeq s.cur.node s.cur.key 0 (BitVec.ofNat 16 (nums.headD 0)) = some t)
    (hc : CanFire t h ⟨[0], [0], [], []⟩ ts) (hfault : topkFault a t ts = none) :
    execTopk h a s = .next (
      let r := t.topkTake a (topkList (nums.drop 1)) (if (tk ts 0).fl.nil then [] else t.topkScores (tk ts 0))
      if (tk ts 0).fl.last then fired t (r.2.unkeep s.cur.node s.cur.key) h [0] (r.2.topkOuts a ts r.1)
      else fired t (r.2.setKept ⟨s.cur.node, s.cur.key, [], [], (nums.headD 0 + 1) :: topkFlat r.1⟩) h [0] []) := by
  rw [keptHere] at hnums
  unfold execTopk
  dsimp only
  rw [← hnums, hnext]
  dsimp only
  split
  case isTrue hlast => exact hc.fire hfault (if_pos hlast)
  case isFalse hmore => exact hc.fire hfault (if_neg hmore)

end Sys2Proof.Claims

open Sys2Proof Sys2Proof.Machine Sys2Proof.Claims

/-- Settles O24: the words' checks pass, so the firing queues them with the token taken. -/
theorem tileWordsIssue : Obligations.TileWordsIssue := by
  unfold Obligations.TileWordsIssue
  intro h
  refine ⟨?mlds, ?mswp, ?mctl, ?mclr, ?vdcl⟩
  case mlds =>
    intro a s ts hc hfault
    rw [exec]
    exact hc.fire hfault rfl
  case mswp | mctl | mclr =>
    intro p s ts hc _
    rw [exec]
    exact hc.fire rfl rfl
  case vdcl => exact fun p s ts hc hscale => vdclSystolic_queues (p := p) hc hscale

/-- Settles O25: with no tile word queued before it, the word performs as its own lemma says, and O16 says what a settled word's
performance does to the queue. -/
theorem tileWordsPerform : Obligations.TileWordsPerform := by
  unfold Obligations.TileWordsPerform
  intro s n r st hsettled hdue
  have hperforms (u : State) := settledWordsPerform s n r st u [] hsettled
  refine ⟨?discarded, ?mlds, ?mswp, ?mctl, ?mclr, ?vdcl⟩
  case discarded =>
    exact fun hop habandoned => hperforms _ ((performRmw_mlds hop).trans (performMlds_discards hdue habandoned))
  case mlds =>
    exact fun hop habandoned hops => hperforms _ ((performRmw_mlds hop).trans (performMlds_writes hdue habandoned hops))
  case mswp => exact fun hop => hperforms _ ((performRmw_mswp hop).trans (performMswp_exchanges hdue))
  case mctl => exact fun hop => hperforms _ ((performRmw_mctl hop).trans (performMctl_sets hdue))
  case mclr => exact fun hop => hperforms _ ((performRmw_mclr hop).trans (performMclr_drops hdue))
  case vdcl => exact fun hop hops => hperforms _ ((performRmw_vdcl hop).trans (performVdcl_declares hdue hops))

/-- Settles O26: MFIR takes the beat that is due, or discards one of an abandoned accumulation, and MDRN drains the final entry. -/
theorem tileStreamsComplete : Obligations.TileStreamsComplete := by
  unfold Obligations.TileStreamsComplete
  intro h a s ts
  refine ⟨?delivers, ?discards, ?drains⟩
  case delivers =>
    rintro t q ht rfl _ hc htakes hwants hfault hcrumb hdue hfrozen
    exact mfir_delivers htakes ht hc hwants hfault hcrumb hdue hfrozen
  case discards => exact fun hc hdropped hover hdue hfrozen => mfir_discards hc hdropped hover hdue hfrozen
  case drains =>
    exact fun x hentry hc hfault hdue hfinal hdrained hfmt hpoison =>
      mdrn_drains hentry hc hfault hdue hfinal hdrained hfmt hpoison

/-- Settles O27: each word is one firing; THRP's wafer is in its mask, and VPIK's checks pass on a NIL token too. -/
theorem verdictWordsEmit : Obligations.VerdictWordsEmit := by
  unfold Obligations.VerdictWordsEmit
  intro h
  refine ⟨?declare, ?bounds, ?offer, ?pick, ?iscr⟩
  case declare =>
    intro p s ts hc _
    rw [exec]
    exact hc.fire rfl rfl
  case bounds | iscr =>
    intro a s ts hc hfault
    rw [exec]
    exact hc.fire hfault rfl
  case offer => exact fun p st s ts hc ⟨hhere, hmask⟩ => thrp_offers hc hhere hmask
  case pick =>
    intro a s ts hc hfault
    rw [exec]
    unfold execVpik
    exact hc.fire (ifData_none (f := vpikFault a (slotsA a [0, 1])) hfault) rfl

/-- Settles O28: every beat of VACC fires, so that its node does what the beat answers; TOPK's LAST token ends it. -/
theorem accumulatingWordsComplete : Obligations.AccumulatingWordsComplete := by
  unfold Obligations.AccumulatingWordsComplete
  intro h a s t ts _
  refine ⟨?opens, ?adds, ?topk⟩
  case opens =>
    intro all hkept hnext hc hfault hdecl
    obtain ⟨u, outs, hbeat⟩ := vaccBeat_fires (t := t) (a := a) (ts := ts) (t.openVacc (tk (t.vaccToks a ts) 2))
    exact ⟨u, outs, hbeat, vacc_opens hkept hnext hc hfault hdecl hbeat⟩
  case adds =>
    intro k hkept hnext hc hfault
    obtain ⟨u, outs, hbeat⟩ := vaccBeat_fires (t := t) (a := a) (ts := ts) (Vacc.ofKept k)
    exact ⟨u, outs, hbeat, vacc_adds hkept hnext hc hfault hbeat⟩
  case topk => exact fun nums hnums hnext hc hfault => topk_takes hnums hnext hc hfault
end

section
/-! PROOFS. Memory, fence, engine and remote words: obligations O9, O10, O13, O21, O23 and O57. A word that fires is read by `CanFire.fire`;
a load then passes the guards of its access, and what an atomic writes is read byte by byte. -/

namespace Sys2Proof.Claims

open Sys2Proof.Machine

variable {s t u : State} {h : Hd} {m : FmtM} {x : FmtX} {ts : List Tok} {st : Strand} {a : Acc} {b : Bytes}

/-! ## Loads (R276 to R280) -/

section Load
variable {size : Nat} {out : State → Acc → Bytes → List Out}

/-- Nothing keeps a load waiting before its access, and nothing before it reads. -/
theorem MayRead.issues (hr : MayRead s t m ts size st a) (hturn : s.notTurn m ts = false)
    (hwait : s.nodeWaits st s.cur.node m.space (effAddr m size (tk ts 0)) = false) :
    (s.notTurn m ts || s.rmwBusy s.cur.node m.space (effAddr m size (tk ts 0)) size ||
      s.nodeWaits st s.cur.node m.space (effAddr m size (tk ts 0))) = false := by
  obtain ⟨hrmw, -, -⟩ := hr
  rw [hturn, hrmw, hwait]
  rfl

theorem MayRead.reads (hr : MayRead s t m ts size st a) : (t.ahead st a || t.portBusy s.cur.node a size) = false := by
  obtain ⟨-, hahead, hport⟩ := hr
  rw [hahead, hport]
  rfl

theorem loadBody_reads (hg : Granted s m ts size false (opcode s.cur.word) st a t) (hr : MayRead s t m ts size st a)
    (hspace : m.space ≠ 4) (hbytes : t.loadBytes st m ts a size = (some b, u)) :
    s.loadBody m size ts out = .fires (loads s u m ts (out u a b)) [] := by
  obtain ⟨hhere, hturn, hwait, hacc⟩ := hg
  rw [State.loadBody, hhere]
  dsimp only
  rw [hr.issues hturn hwait, if_neg Bool.false_ne_true, hacc]
  dsimp only
  rw [hr.reads, if_neg Bool.false_ne_true, if_neg hspace, hbytes]
  rfl

/-- In space 100 the line as it is stored is read, below the raw stores of its block. -/
theorem loadBody_readsRaw (hg : Granted s m ts size false (opcode s.cur.word) st a t) (hr : MayRead s t m ts size st a)
    (hspace : m.space = 4) (hbytes : (t.mayEvict (t.home (a.base + (a.addr - a.base) / 192 * 192)) a.kidx).readHome
      { a with cv := false } size = (some b, u)) :
    s.loadBody m size ts out = .fires (loads s u m ts (out u a (u.underStores m ts a true b))) [] := by
  obtain ⟨hhere, hturn, hwait, hacc⟩ := hg
  rw [State.loadBody, hhere]
  dsimp only
  rw [hr.issues hturn hwait, if_neg Bool.false_ne_true, hacc]
  dsimp only
  rw [hr.reads, if_neg Bool.false_ne_true, if_pos hspace, hbytes]
  rfl

end Load

theorem ld_issues (hc : CanFire s h (computing [0]) ts) (hwidth : widthFault m (widthOf h) s ts = none) (hspace : m.space ≠ 4)
    (hg : Granted s m ts (widthOf h) false (opcode s.cur.word) st a t) (hr : MayRead s t m ts (widthOf h) st a)
    (hbytes : t.loadBytes st m ts a (widthOf h) = (some b, u)) :
    execLd h m s = .next (fired s (loads s u m ts [outBoth (u.loaded m ts b 0)]) h [0] []) :=
  hc.fire (ifData_none hwidth) (loadBody_reads hg hr hspace hbytes)

theorem ldb_issues (hc : CanFire s h (computing [0]) ts) (hraw : rawFault m s ts = none) (hspace : m.space ≠ 4) (hport : m.space ≠ 5)
    (hg : Granted s m ts 48 false (opcode s.cur.word) st a t) (hr : MayRead s t m ts 48 st a)
    (hbytes : t.loadBytes st m ts a 48 = (some b, u)) :
    execLdb h m s = .next (fired s (loads s u m ts [outBoth (u.loaded m ts b (allLanes (fmtOf (u.ent m.vc))))]) h [0] []) :=
  hc.fire (ifData_none hraw) ((if_neg hport).trans (loadBody_reads hg hr hspace hbytes))

theorem ldb_issuesRaw (hc : CanFire s h (computing [0]) ts) (hraw : rawFault m s ts = none) (hspace : m.space = 4)
    (hg : Granted s m ts 48 false (opcode s.cur.word) st a t) (hr : MayRead s t m ts 48 st a)
    (hbytes : (t.mayEvict (t.home (a.base + (a.addr - a.base) / 192 * 192)) a.kidx).readHome { a with cv := false } 48 = (some b, u)) :
    execLdb h m s = .next (fired s
      (loads s u m ts [outBoth (u.loaded m ts (u.underStores m ts a true b) (allLanes (fmtOf (u.ent m.vc))))]) h [0] []) :=
  hc.fire (ifData_none hraw) ((if_neg (by rw [hspace]; decide)).trans (loadBody_readsRaw hg hr hspace hbytes))

theorem ldl_issues {bs : List Bytes} (hc : CanFire s h (computing [0]) ts) (hformat : s.vcFault m = none)
    (hg : Granted s m ts 192 false 0x84 st a t) (hr : MayRead s t m ts 192 st a) (hbeats : t.readBeats st m ts a 4 0 = (some bs, u)) :
    execLdl h m s = .next (fired s (loads s u m ts (u.lineOuts m ts bs)) h [0] []) := by
  obtain ⟨hhere, hturn, hwait, hacc⟩ := hg
  refine hc.fire (ifData_none (f := fun s _ => s.vcFault m) hformat) ?_
  rw [hhere]
  dsimp only
  rw [hr.issues hturn hwait, if_neg Bool.false_ne_true, hacc]
  dsimp only
  rw [hr.reads, if_neg Bool.false_ne_true, hbeats]
  rfl

theorem lds_issues {as : List Acc} (hc : CanFire s h (computing [0]) ts) (hlanes : laneFault m (widthOf h) s ts = none)
    (hhere : s.here = some st) (hturn : s.notTurn m ts = false)
    (haccs : s.laneAccs st m (widthOf h) (s.laneAddrs (tk ts 0)) = .ok as)
    (hfree : ∀ x ∈ as, s.portBusy s.cur.node x (widthOf h) = false ∧ s.rmwBusy s.cur.node m.space x.va (widthOf h) = false) :
    execLds h m s = .next (fired s (loads s s m ts [outBoth (s.loaded m ts
      ⟨as.flatMap fun x => (overlay x.addr ⟨memRead s.mem.bank x.addr (widthOf h), false⟩
        (s.forwarded s.cur.node (tk ts 0).wave m.msq.toNat true)).bytes, false⟩ (BitVec.ofNat 7 (as.length - 1)))]) h [0] []) := by
  have noneBusy : (as.any fun x => s.portBusy s.cur.node x (widthOf h) || s.rmwBusy s.cur.node m.space x.va (widthOf h)) = false := by
    rw [List.any_eq_false]
    intro x hx
    obtain ⟨hport, hrmw⟩ := hfree x hx
    rw [hport, hrmw]
    exact Bool.false_ne_true
  unfold execLds
  dsimp only
  refine hc.fire (ifData_none hlanes) ?_
  rw [hhere]
  dsimp only
  rw [hturn, if_neg Bool.false_ne_true, haccs]
  dsimp only
  rw [noneBusy, if_neg Bool.false_ne_true]
  rfl

/-! ## The sequence port and PREF (R278, R279, R392) -/

theorem ldbPage_reads {sq hg pos beat page va owner : Nat} {e : Ste} {t1 t2 t3 : State} {d : BitVec 32} (hturn : s.notTurn m ts = false)
    (hbusy : s.seqBusy = false) (hoff : m.off = 0) (haddr : seqAddr (lane0 (tk ts 0) % 2 ^ 64) = (sq, hg, pos, beat))
    (hstuck : s.seqStuck sq = false) (hbeat : beat ≤ rbOf s)
    (hplace : (s.poolPlace m ts sq hg pos).got s = .ok (some (page, va, e, owner)) t1) (hdesc : (readDesc page).got t1 = .ok d t2)
    (hthere : bit d 16 = false) (hacc : (portAcc (va + 48 * beat) false).got t2 = .ok a t3) (hhere : t3.here = some st)
    (hahead : t3.ahead st a = false) (hread : t3.readHome a 48 = (some b, u)) (hsound : b.poi = false) :
    s.ldbPage m ts = .fires (loads s u m ts
      [outBoth (u.loaded m ts (u.underStores m ts a false b) (allLanes (fmtOf (u.ent m.vc))))]) [] := by
  have hoffset : (m.off != 0) = false := bne_eq_false_iff_eq.2 hoff
  rw [State.ldbPage, BitVec.toNat_ofNat, haddr]
  dsimp only
  rw [hturn, hbusy, hstuck, Bool.or_self, Bool.or_self, if_neg Bool.false_ne_true, hoffset, if_neg Bool.false_ne_true,
    if_neg (Nat.not_lt.2 hbeat), hplace]
  dsimp only
  rw [hdesc]
  dsimp only
  rw [hthere, if_neg Bool.false_ne_true, hacc]
  dsimp only
  rw [hhere]
  dsimp only
  rw [hahead, if_neg Bool.false_ne_true, hread]
  dsimp only
  rw [hsound, Bool.not_false, if_pos rfl]
  rfl

theorem ldb_issuesPage {outs : List Out} (hc : CanFire s h (computing [0]) ts) (hraw : rawFault m s ts = none) (hport : m.space = 5)
    (hpage : s.ldbPage m ts = .fires u outs) : execLdb h m s = .next (fired s u h [0] outs) :=
  hc.fire (ifData_none hraw) ((if_pos hport).trans hpage)

/-- The state after PREF's translation, if it makes one: a failure to translate is no fault of it and leaves nothing. -/
def prefetched (s : State) (st : Strand) (m : FmtM) (ts : List Tok) : State :=
  if m.space = 5 then s else
  match s.translate s.cur.node.ctx.die s.cur.node.ctx.wafer st.part st.stamp (effAddr m 48 (tk ts 0)) false with
  | (.ok _, t) => t
  | (.error _, _) => s

theorem prefetched_port (hport : m.space = 5) : prefetched s st m ts = s := if_pos hport

theorem prefetched_eq_or_translates : prefetched s st m ts = s ∨ ∃ a,
    s.translate s.cur.node.ctx.die s.cur.node.ctx.wafer st.part st.stamp (effAddr m 48 (tk ts 0)) false =
      (.ok a, prefetched s st m ts) := by
  by_cases hport : m.space = 5
  · exact .inl (prefetched_port hport)
  rw [prefetched, if_neg hport]
  split
  case h_1 a t htranslate => exact .inr ⟨a, htranslate⟩
  case h_2 => exact .inl rfl

theorem pref_issues (hc : CanFire s h ⟨[0], [0, 1, 2], [], [0]⟩ ts) (hhere : s.here = some st) (hturn : s.notTurn m ts = false)
    (hwait : s.nodeWaits st s.cur.node m.space (effAddr m 48 (tk ts 0)) = false) :
    execPref h m s = .next (fired s ((prefetched s st m ts).issue m ts) h [0] []) := by
  refine hc.fire rfl ?_
  rw [hhere]
  dsimp only
  rw [hturn, hwait, Bool.or_self, if_neg Bool.false_ne_true, prefetched]
  by_cases hport : m.space = 5
  · rw [if_pos hport, if_pos hport]
  · rw [if_neg hport, if_neg hport]
    cases s.translate s.cur.node.ctx.die s.cur.node.ctx.wafer st.part st.stamp (effAddr m 48 (tk ts 0)) false with
    | mk r t => cases r <;> rfl

/-! ## Fences and counters (R286, R287, R289 to R291) -/

theorem fnc_holds (hc : CanFire s h (carrying [0]) ts) (hturn : s.notTurn m ts = false) :
    execFnc h m s = .next (fired s
      ((s.hold m.msq.toNat (tk ts 0).wave (.fnc m.scope { s.zeroTok ts with fl := {} } [])).issue m ts) h [0] []) :=
  hc.fire rfl (if_neg (by rw [hturn]; exact Bool.false_ne_true))

theorem dfnc_holds (hc : CanFire s h (computing [0, 1]) ts) (hhere : s.here = some st) (hturn : s.notTurn m ts = false)
    (hwait : s.nodeWaits st s.cur.node 0 (effAddr m 192 (tk ts 0)) = false)
    (hrange : s.rangeFault st (effAddr m 192 (tk ts 0)) (lane0 (tk ts 1) / 65536 + 2) (lane0 (tk ts 1)) = (none, t)) :
    execDfnc h m s = .next (fired s ((t.hold m.msq.toNat (tk ts 0).wave (.dfnc (effAddr m 192 (tk ts 0))
      (BitVec.ofNat 64 (lane0 (tk ts 1))) (t.zeroTok ts))).issue m ts) h [0, 1] []) := by
  refine hc.fire rfl ?_
  dsimp only
  rw [hhere]
  dsimp only
  rw [hturn, hwait, Bool.or_self, if_neg Bool.false_ne_true, hrange]

theorem sarm_holds (hc : CanFire s h (computing [0]) ts) (hgood : goodDesc ((tk ts 0).data.extractLsb' 0 256) = true) :
    execSarm h x s = .next (fired s
      (s.hold 127 (tk ts 0).wave (.sarm (bits x.id 0 4) ((tk ts 0).data.extractLsb' 0 256))) h [0] []) :=
  hc.fire (ifData_none (if_pos hgood)) rfl

theorem cntrStall_reads (hc : CanFire s h (carrying [0]) ts) :
    execCntrStall h x s = .next (fired s s h [0]
      [outBoth (counterTok s ts ((Tab.get 0 (s.stallKey x) s.fab.stall).zeroExtend 384) 0)]) :=
  hc.fire rfl (by rw [word64_toNat])

theorem cntrLink_reads (hid : x.id.toNat < 72) (hc : CanFire s h (carrying [0]) ts) :
    execCntrLink h x s = .next (fired s s h [0] [outBoth (counterTok s ts (BitVec.ofNat 384 (pack ((List.range 5).map fun i =>
      (64 * i, 64, (Tab.get 0 (linkKey x.id.toNat i) s.eng.links).toNat)))) 5)]) := by
  refine hc.fire rfl ?_
  simp only [if_pos hid]

/-- To an ID of 72 or above R291 gives no link: five free values (log entry 100). -/
theorem cntrLink_answersFree (hid : 72 ≤ x.id.toNat) (hc : CanFire s h (carrying [0]) ts) : ∃ d,
    execCntrLink h x s = .next (fired s { s with ctr := s.ctr + 5 } h [0] [outBoth (counterTok s ts d 5)]) := by
  refine ⟨BitVec.ofNat 384 (pack ((List.range 5).map fun i => (64 * i, 64, (({ s with ctr := s.ctr + i } : State).freeBits 64).toNat))),
    hc.fire rfl ?_⟩
  simp only [if_neg (Nat.not_lt.2 hid)]

/-! ## The engines' requests (R293, R294, R296, R297) -/

theorem xpkBeat_eq {src : Tok} {d : Beat} (hgiven : ∀ t ∈ ts, t.fl.nil = false) :
    let t := s.xpkBeat ts src d
    t.data = d ∧ t.vc = vcOut s.cur.word (tk ts 0) ∧ t.nlane = allLanes (fmtOf (s.ent t.vc)) ∧ t.fl.poi = src.fl.poi ∧
      t.fl.retry = src.fl.retry := by
  have hnil : (joinFlags ts).nil = false := by
    rw [joinFlags, List.any_eq_false]
    intro t ht
    rw [hgiven t ht]
    exact Bool.false_ne_true
  have hhead : ts.headD {} = tk ts 0 := by cases ts <;> rfl
  refine ⟨?_, congrArg (vcOut s.cur.word) hhead, rfl, rfl, rfl⟩
  exact if_neg (by rw [hnil]; exact Bool.false_ne_true)

theorem dcnt_holds (hbit : bit x.aux 15 = true) (hc : CanFire s h (computing [0]) ts) :
    execDcnt h x s = .next (fired s
      (s.hold 127 (tk ts 0).wave (.dcnt (bits x.aux 12 3) (bits x.aux 0 12) (bits (tk ts 0).data 0 16))) h [0] []) :=
  (if_pos hbit).trans (hc.fire rfl rfl)

theorem dcnt_holdsOne (hbit : bit x.aux 15 = false) (hc : CanFire s h (carrying [0]) ts) :
    execDcnt h x s = .next (fired s (s.hold 127 (tk ts 0).wave (.dcnt (bits x.aux 12 3) (bits x.aux 0 12) 1)) h [0] []) :=
  (if_neg (by rw [hbit]; exact Bool.false_ne_true)).trans (hc.fire rfl rfl)

/-! ## Remote words (R299 to R301) -/

theorem rld_reads (hc : CanFire s h Slots.rld ts) (hg : RemoteGranted s m ts false 0xD8 st a t) (hr : MayRead s t m ts 48 st a)
    (hhome : a.hmod = t.module) (hread : t.readHome a 48 = (some b, u)) :
    execRld h m s = .next (fired s (loads s u m ts
      [outA (u.loaded m (ts.take 1) (u.underStores m ts a false b) (allLanes (fmtOf (u.ent m.vc)))),
       outB (completion (result u.cur.word (ts.take 1) 0) false)]) h [0, 1] []) := by
  obtain ⟨hhere, hturn, hwait, hacc⟩ := hg
  refine hc.fire rfl ?_
  dsimp only
  rw [hhere]
  dsimp only
  rw [hr.issues hturn hwait, if_neg Bool.false_ne_true, hacc]
  dsimp only
  rw [hr.reads, if_neg Bool.false_ne_true, bne_eq_false_iff_eq.2 hhome, if_neg Bool.false_ne_true, hread]
  rfl

theorem rld_asks {g : Nat} (hc : CanFire s h Slots.rld ts) (hg : RemoteGranted s m ts false 0xD8 st a t) (hr : MayRead s t m ts 48 st a)
    (hhome : a.hmod ≠ t.module) (hbinding : t.binding 0 st.part s.cur.node.ctx.die a.hmod a.hdie.toNat = some g) :
    execRld h m s = .next (fired s
      ((t.issue m ts).askRemote g a st.step s.cur.node t.cur.key m.vc (result t.cur.word (ts.take 1) 0)) h [0, 1] []) := by
  obtain ⟨hhere, hturn, hwait, hacc⟩ := hg
  refine hc.fire rfl ?_
  dsimp only
  rw [hhere]
  dsimp only
  rw [hr.issues hturn hwait, if_neg Bool.false_ne_true, hacc]
  dsimp only
  rw [hr.reads, if_neg Bool.false_ne_true, bne_iff_ne.2 hhome, if_pos rfl, hbinding]

theorem rst_issues (hc : CanFire s h (Slots.rst [0]) ts) (hformat : s.vcFault m = none) (hg : RemoteGranted s m ts true 0xD9 st a t) :
    execRst h m s = .next (fired s
      (if t.afterGlaze m then
        (t.hold m.msq.toNat (tk ts 0).wave (.rst a (t.recordOf a (tk ts 1)).1 (t.recordOf a (tk ts 1)).2
          (BitVec.ofNat 5 (fmtOf (t.ent m.vc))) (tk ts 1).fl.poi (result t.cur.word (ts.take 2) 0))).issue m ts
      else (t.queueRmw m.msq.toNat [0, 1, 2] ts (t.atomNums m ts)).issue m ts) h [0, 1, 2] []) := by
  obtain ⟨hhere, hturn, hwait, hacc⟩ := hg
  refine hc.fire (ifData_none (f := fun s _ => s.vcFault m) (ts := ts.take 2) hformat) ?_
  dsimp only
  rw [hhere]
  dsimp only
  rw [hturn, hwait, Bool.or_self, if_neg Bool.false_ne_true, hacc]
  dsimp only
  rw [apply_ite (Res.fires · [])]

theorem ratm_issues (hc : CanFire s h (Slots.rst [0, 1]) ts) (hformat : s.vcFault m = none)
    (hg : RemoteGranted s m ts true 0xDA st a t) :
    execRatm h m s = .next (fired s ((t.queueRmw m.msq.toNat [0, 1, 2] ts (t.atomNums m ts)).issue m ts) h [0, 1, 2] []) := by
  obtain ⟨hhere, hturn, hwait, hacc⟩ := hg
  refine hc.fire (ifData_none (f := fun s _ => s.vcFault m) (ts := ts.take 2) hformat) ?_
  dsimp only
  rw [hhere]
  dsimp only
  rw [hturn, hwait, Bool.or_self, if_neg Bool.false_ne_true, hacc]

theorem glaze_holds (hc : CanFire s h (carrying [0]) ts) (hturn : s.notTurn m ts = false) :
    execGlaze h m s = .next (fired s
      ((s.hold m.msq.toNat (tk ts 0).wave (.glaze { s.zeroTok ts with fl := {} })).issue m ts) h [0] []) :=
  hc.fire rfl (if_neg (by rw [hturn]; exact Bool.false_ne_true))

/-! ## Atomics in a bank (R281, R282, R157) -/

theorem length_memRead (mem : List Host.Cell) (addr n : Nat) : (memRead mem addr n).length = n := by
  induction n generalizing addr with
  | zero => rfl
  | succ n ih => rw [memRead, List.length_cons, ih]

theorem getD_leBytes {n v i : Nat} (hi : i < n) : (leBytes n v).getD i 0 = BitVec.ofNat 8 (v / 256 ^ i) := by
  induction n generalizing v i with
  | zero => omega
  | succ n ih =>
    cases i with
    | zero => rw [leBytes, List.getD_cons_zero, Nat.pow_zero, Nat.div_one]
    | succ i => rw [leBytes, List.getD_cons_succ, ih (by omega), Nat.div_div_eq_div_mul, Nat.pow_succ']

/-- A number stored at an access: its bytes there, the old ones elsewhere. -/
theorem byteAt_memPut_leBytes {mem : List Host.Cell} (hmem : Memory.wf mem = true) (n v y : Nat) :
    byteAt (memPut mem (at_ a (leBytes n v))) y =
      if a.addr ≤ y ∧ y < a.addr + n then BitVec.ofNat 8 (v / 256 ^ (y - a.addr)) else byteAt mem y := by
  obtain ⟨written, kept⟩ := (bytesOf_at_ (a := a) (bytes := leBytes n v)).byteAt_memPut (x := y) hmem
  rw [takes_at_, length_leBytes] at written kept
  split
  case isTrue hin => exact (written hin).trans (getD_leBytes (by omega))
  case isFalse hout => exact kept hout

theorem atomNew_eq_atomValue (op w : Nat) (sg : Bool) (old v : Nat) : atomNew op w sg old v = atomValue op w sg old v := by
  have values (p q : Nat) : ((if sg then signed w p else (p : Int)) < if sg then signed w q else (q : Int)) ↔
      if sg then signed w p < signed w q else p < q := by
    cases sg
    · exact Int.ofNat_lt
    · exact Iff.rfl
  rw [atomNew]
  simp only [values]
  rcases op with _ | _ | _ | _ | _ | _ | op <;> rfl

/-- The value that ATOM or CAS leaves at its address in place of the bytes `old` (R281, R282). -/
def atomicValue (r : Rmw) (ts : List Tok) (old : List Byte) : Nat :=
  if opcode r.word = 0x87
  then atomValue (bits r.word 50 4) (8 * old.length) (isSigned r.fmt) (leNat old) (r.lane ts 1 (8 * old.length))
  else if leNat old = r.lane ts 1 (8 * old.length) then r.lane ts 2 (8 * old.length) else leNat old

theorem newBytes_eq_leBytes {r : Rmw} {old : List Byte} (hop : opcode r.word = 0x87 ∨ opcode r.word = 0x88) :
    r.newBytes ts old = leBytes old.length (atomicValue r ts old) := by
  rw [Rmw.newBytes, atomicValue]
  rcases hop with hop | hop
  · rw [if_pos hop, if_pos hop, atomNew_eq_atomValue]
  · have hne : opcode r.word ≠ 0x87 := by rw [hop]; decide
    rw [if_neg hne, if_pos hop, if_neg hne, apply_ite (leBytes old.length), leBytes_leNat]

theorem bankAccess_ss {n : Node} {space size al op : Nat} {ea : Word} (hacc : s.bankAccess st n space ea size al op = .ok a) :
    a.ss = false := by
  unfold State.bankAccess at hacc
  extract_lets die w place at hacc
  clear_value place
  -- every answer but the last is a fault
  repeat' split at hacc
  all_goals cases hacc
  rfl

theorem translate_bank {die wafer part stamp : Nat} {va : Word} {write : Bool}
    (hacc : s.translate die wafer part stamp va write = (.ok a, t)) : a.bank = false := by
  unfold State.translate at hacc
  generalize (bits va 57 7 != _) = noncanonical at hacc
  cases noncanonical
  case true => cases hacc
  case false =>
    rw [if_neg Bool.false_ne_true] at hacc
    split at hacc
    · cases hacc
    dsimp only at hacc
    repeat' split at hacc
    all_goals cases hacc
    rfl

/-- An access in a bank needs no translation, and a bank's bytes are no step-shared page. -/
theorem access_bank {n : Node} {space size op : Nat} {ea : Word} {write : Bool}
    (hacc : (s.access st n space ea size write op).1 = .ok a) (hbank : a.bank = true) :
    s.access st n space ea size write op = (.ok a, s) ∧ a.ss = false := by
  unfold State.access at hacc ⊢
  by_cases hspace : (space = 1 || space = 2) = true
  · rw [if_pos hspace] at hacc ⊢
    exact ⟨congrArg (·, s) hacc, bankAccess_ss hacc⟩
  -- every other access is a page's
  rw [if_neg hspace] at hacc
  split at hacc
  · cases hacc
  split at hacc
  · cases hacc
  next x t htranslate =>
    have hpage := translate_bank htranslate
    repeat' split at hacc
    all_goals cases hacc
    cases hbank.symm.trans hpage

theorem memReady_bank (hbank : a.bank = true) : s.memReady a = true := by
  rw [State.memReady, hbank, Bool.true_or, Bool.true_or]

theorem readHome_bank {n : Nat} (hbank : a.bank = true) : s.readHome a n = (some ⟨memRead s.mem.bank a.addr n, false⟩, s) := if_pos hbank

theorem performRmw_atomic {r : Rmw} (hop : opcode r.word = 0x87 ∨ opcode r.word = 0x88) : s.performRmw r = s.performAtomic r := by
  rcases hop with hop | hop <;> simp only [State.performRmw, hop]

theorem filter_map_eq_opsOf (r : Rmw) : (r.ops.filter fun x => x.1 != 3).map (·.2) = opsOf r := rfl

theorem performAtomic_bank {r : Rmw} {size : Nat} (hhere : s.here = some st) (hop : opcode r.word = 0x87 ∨ opcode r.word = 0x88)
    (hsize : size = if bit r.word 54 then 8 else 4)
    (hacc : (s.access st r.node (fmtM r.word).space.toNat (effAddr (fmtM r.word) size (tk (opsOf r) 0)) size true (opcode r.word)).1 = .ok a)
    (hbank : a.bank = true) (hpend : s.pendAhead r.node a size (s.rmwTop r) true = false) (hrmw : s.rmwAhead r a.va size = false) :
    let old := memRead s.mem.bank a.addr size
    s.performAtomic r = .fires
      { s with mem := { s.mem with bank := memPut s.mem.bank (at_ a (leBytes size (atomicValue r (opsOf r) old))) } }
      [outBoth (loadedIn r.word r.fmt (opsOf r) ⟨old, false⟩ 0)] := by
  obtain ⟨hwhole, hshared⟩ := access_bank hacc hbank
  have hne : opcode r.word ≠ 0x89 := by rcases hop with hop | hop <;> rw [hop] <;> decide
  have hahead : s.ahead st a = false := by rw [State.ahead, memReady_bank hbank, hshared]; rfl
  have hfault : s.atomicFault a size = (none, s) := if_pos (by rw [hbank, Bool.true_or])
  have hhits : r.casMisses (opsOf r) a (memRead s.mem.bank a.addr size) = false := by rw [Rmw.casMisses, hbank]; rfl
  have hnew := newBytes_eq_leBytes (ts := opsOf r) (old := memRead s.mem.bank a.addr size) hop
  rw [length_memRead] at hnew
  unfold State.performAtomic
  rw [hhere]
  dsimp only
  rw [if_neg hne, ← hsize, filter_map_eq_opsOf, hwhole]
  dsimp only
  rw [hpend, hrmw, hahead, Bool.or_self, Bool.or_self, if_neg Bool.false_ne_true, hshared, if_neg Bool.false_ne_true, hfault]
  dsimp only
  rw [readHome_bank hbank]
  dsimp only
  rw [hhits, if_neg Bool.false_ne_true, writeHome_bank hbank, hnew, if_neg hne]

theorem markRmw_mem {n : Node} {k : Key} {w : BitVec 16} : (s.markRmw n k w).mem = s.mem := by
  unfold State.markRmw
  split <;> rfl

/-- What a settled word's performance leaves of memory: its answers wait for their return, and its entry in the queue is gone. -/
theorem performed_mem {r : Rmw} {o : Out} : (performed t r [o]).mem = { t.mem with
    rmwq := dropFirst (fun x => x.seq = r.seq) t.mem.rmwq, resp := t.mem.resp ++ [⟨r.node, r.key, [o], false, t.mem.nextSeq⟩]
    nextSeq := t.mem.nextSeq + 1 } := by
  have hmem : (if countsAsRmw (opcode r.word) then (t.dropRmw r).markRmw r.node r.key 0 else t.dropRmw r).mem = (t.dropRmw r).mem := by
    split
    exacts [markRmw_mem, rfl]
  rw [performed, if_neg (List.cons_ne_nil _ _), State.respond]
  dsimp only
  rw [hmem]
  rfl

end Sys2Proof.Claims

open Sys2Proof Sys2Proof.Machine Sys2Proof.Claims

/-- Settles O9: each load's checks pass on a granted access, and what it read waits for its return. -/
theorem loadWordsIssue : Obligations.LoadWordsIssue := by
  unfold Obligations.LoadWordsIssue
  intro h m st a t u b
  refine ⟨?ld, ?ldb, ?ldbRaw, ?ldl, ?lds⟩
  case ld => exact fun s ts hc ⟨hwidth, hspace, hg, hr, hbytes⟩ => ld_issues hc hwidth hspace hg hr hbytes
  case ldb => exact fun s ts hc ⟨hraw, hspace, hport, hg, hr, hbytes⟩ => ldb_issues hc hraw hspace hport hg hr hbytes
  case ldbRaw => exact fun s ts hc ⟨hraw, hspace, hg, hr, hbytes⟩ => ldb_issuesRaw hc hraw hspace hg hr hbytes
  case ldl => exact fun bs s ts hc ⟨hformat, hg, hr, hbeats⟩ => ldl_issues hc hformat hg hr hbeats
  case lds => exact fun as s ts hc ⟨hlanes, hhere, hturn, haccs, hfree⟩ => lds_issues hc hlanes hhere hturn haccs hfree

/-- Settles O10: the page that the sequence port answers with is read in place; PREF only translates. -/
theorem poolLoadAndPrefIssue : Obligations.PoolLoadAndPrefIssue := by
  unfold Obligations.PoolLoadAndPrefIssue
  refine ⟨?ldb, ?pref⟩
  case ldb =>
    rintro h m st sq hg pos b page va e owner t1 t2 t3 u d a r hspace s ts hc
      ⟨hraw, hturn, hbusy, hoff, haddr, hstuck, hbeat, hplace, hdesc, hthere, hacc, hhere, hahead, hread, hsound⟩
    exact ldb_issuesPage hc hraw hspace
      (ldbPage_reads hturn hbusy hoff haddr hstuck hbeat hplace hdesc hthere hacc hhere hahead hread hsound)
  case pref =>
    exact fun h m st s ts hc hhere hturn hwait =>
      ⟨prefetched s st m ts, pref_issues hc hhere hturn hwait, prefetched_port, prefetched_eq_or_translates⟩

/-- Settles O13: a fence waits in the commit buffer, and a counter read answers at once; link IDs below 72 and from 72 have a lemma each. -/
theorem fenceAndCounterWordsComplete : Obligations.FenceAndCounterWordsComplete := by
  unfold Obligations.FenceAndCounterWordsComplete
  intro h
  refine ⟨?fnc, ?dfnc, ?sarm, ?qfnc, ?read, ?stall, ?link, ?noLink⟩
  case fnc => exact fun m s ts hc hturn => fnc_holds hc hturn
  case dfnc => exact fun m st t s ts hc ⟨hhere, hturn, hwait, hrange⟩ => dfnc_holds hc hhere hturn hwait hrange
  case sarm => exact fun x s ts hc hgood => sarm_holds hc hgood
  case qfnc | read =>
    intro x s ts hc _
    rw [exec]
    exact hc.fire rfl rfl
  case stall => exact fun x s ts hc _ => cntrStall_reads hc
  case link => exact fun x hid s ts hc _ => cntrLink_reads hid hc
  case noLink => exact fun x hid s ts hc => cntrLink_answersFree hid hc

/-- Settles O21: XPK emits its packet and the beat of slot 1; each other word holds its request for the commit. -/
theorem engineWordsComplete : Obligations.EngineWordsComplete := by
  unfold Obligations.EngineWordsComplete
  intro h
  refine ⟨?xpk, ?flags, ?xfer, ?dcnt, ?dcntOne, ?trdy⟩
  case xpk | xfer | trdy =>
    intro p s ts hc _
    rw [exec]
    exact hc.fire rfl rfl
  case flags => exact fun s ts src d hgiven => xpkBeat_eq hgiven
  case dcnt => exact fun x hbit s ts hc _ => dcnt_holds hbit hc
  case dcntOne => exact fun x hbit s ts hc _ => dcnt_holdsOne hbit hc

/-- Settles O23: each remote word passes its access, and its binding where the page lies elsewhere; RLD reads or asks. -/
theorem remoteWordsIssue : Obligations.RemoteWordsIssue := by
  unfold Obligations.RemoteWordsIssue
  intro h m st a t u b
  refine ⟨?reads, ?asks, ?rst, ?ratm, ?glaze⟩
  case reads => exact fun s ts hc ⟨hg, hr, hhome, hread⟩ => rld_reads hc hg hr hhome hread
  case asks => exact fun g s ts hc ⟨hg, hr, hhome, hbinding⟩ => rld_asks hc hg hr hhome hbinding
  case rst => exact fun s ts hc ⟨hformat, hg⟩ => rst_issues hc hformat hg
  case ratm => exact fun s ts hc ⟨hformat, hg⟩ => ratm_issues hc hformat hg
  case glaze => exact fun s ts hc hturn => glaze_holds hc hturn

/-- Settles O57: in a bank nothing is translated, so the word reads the bytes at its address and puts the new value there. -/
theorem atomsPerform : Obligations.AtomsPerform := by
  unfold Obligations.AtomsPerform
  intro s n r st a size hcanonical hsettled hop hsize hacc hbank hpend hrmw old lane new
  obtain ⟨-, hbankwf, -⟩ := hcanonical
  have hhere : (actingFor s r st).here = some st := by
    obtain ⟨-, hstrand, -⟩ := hsettled
    exact hstrand
  have hperform := (performRmw_atomic hop).trans (performAtomic_bank hhere hop hsize hacc hbank hpend hrmw)
  have hnew : atomicValue r (opsOf r) old = new := by rw [atomicValue, length_memRead]
  refine ⟨_, execSettledRmwPerform_fires hsettled hperform, ?_⟩
  rw [performed_mem]
  exact ⟨rfl, fun y => hnew ▸ byteAt_memPut_leBytes hbankwf .., rfl⟩
end

section
/-! PROOFS. System words: obligations O18 and O19. A word that fires is read by `CanFire.fire` and one that takes an exact fault by
`CanFire.fire_faults`; what a settled word has besides is its guards, met one after the other. -/

namespace Sys2Proof.Claims

open Sys2Proof.Machine

variable {s t u : State} {h : Hd} {p : BitVec 30} {x : FmtX} {ts : List Tok} {st : Strand}

/-! ## Fields of fields (R2) -/

theorem bits_field {w : Nat} (v : BitVec w) {a m b n : Nat} (hin : b + n ≤ m) : bits (v.extractLsb' a m) b n = bits v (a + b) n := by
  refine congrArg BitVec.toNat (BitVec.eq_of_getLsbD_eq fun i hi => ?_)
  simp only [BitVec.getLsbD_extractLsb', decide_eq_true (show b + i < m by omega), Bool.true_and, Nat.add_assoc]

theorem bit_field {w : Nat} (v : BitVec w) {a m i : Nat} (hin : i < m) : bit (v.extractLsb' a m) i = bit v (a + i) := by
  rw [bit, BitVec.getLsbD_extractLsb', decide_eq_true hin, Bool.true_and, bit]

/-! ## Exact faults of a firing (R320, R353) -/

section Fault
variable {sl : Slots} {rd : List Nat} {msq : Nat} {pre : State → List Tok → Option Exn} {body : State → List Tok → Res} {e : Exn}

/-- A node that can fire has no token in a slot that its word never reads (R407). -/
theorem CanFire.strays_nil (hc : CanFire s h sl ts) : s.strays s.cur.node s.cur.key h sl = [] := by
  have hsound := hc.sound
  rw [State.tokenFault, Option.or_eq_none_iff, State.strayFault, Option.map_eq_none_iff, List.head?_eq_none_iff] at hsound
  exact hsound.1

/-- A body that faults leaves the fault in the node's register, and its operands where they are (R353). -/
theorem CanFire.fire_faults (hc : CanFire s h (carrying rd) ts) (hrd : rd ≠ []) (hpre : pre s ts = none) (hbody : body s ts = .faults e) :
    s.fire h (carrying rd) msq pre body = .next (s.takeFault s.cur.node s.cur.key (tk ts 0).wave (taken h rd) e) := by
  obtain ⟨all, hall, rfl⟩ := Option.map_eq_some_iff.1 hc.read
  have hwave : all.headD {} = tk (all.take rd.length) 0 := by
    obtain ⟨n, hn⟩ := Nat.exists_eq_succ_of_ne_zero (mt List.length_eq_zero_iff.1 hrd)
    rw [hn]
    cases all <;> rfl
  rw [taken] at hall
  unfold State.fire
  dsimp only
  rw [hc.may, Bool.not_true, if_neg Bool.false_ne_true, hall]
  dsimp only
  rw [hc.perform, Bool.not_true, if_neg Bool.false_ne_true, hc.strays_nil, List.append_nil, hc.sound, hwave]
  dsimp only [carrying] at hpre hbody ⊢
  rw [hpre]
  dsimp only [Option.or]
  simp only [List.any_nil, Bool.false_eq_true, if_false, hbody, taken]

theorem trap_faults (hc : CanFire s h (carrying [0]) ts) (hsettled : s.hereSettled = true) : execTrap h p s =
    .next (s.takeFault s.cur.node s.cur.key (tk ts 0).wave (taken h [0]) { cause := 0x01, code := p.extractLsb' 0 16 }) :=
  hc.fire_faults (List.cons_ne_nil 0 []) rfl (if_pos hsettled)

theorem bkpt_faults (hc : CanFire s h (carrying [0]) ts) (hsettled : s.hereSettled = true) : execBkpt h p s =
    .next (s.takeFault s.cur.node s.cur.key (tk ts 0).wave (taken h [0]) { cause := 0x02, code := p.extractLsb' 0 16 }) :=
  hc.fire_faults (List.cons_ne_nil 0 []) rfl (if_pos hsettled)

end Fault

/-! ## Words of the present strand (R321, R322, R329) -/

theorem svc_holds (hc : CanFire s h (computing [0]) ts) (hhere : s.here = some st) :
    execSvc h p s = .next (fired s (s.hold 127 (tk ts 0).wave (.launch (bits p 12 3) (bits p 0 12)
      (((List.range 6).map fun i => BitVec.ofNat 64 (lane64 (tk ts 0) i)) ++ [callerWord st.task s.cur.node s.cur.key])
      false 0)) h [0] []) :=
  hc.fire rfl (by rw [hhere])

theorem rdsr_emits (hc : CanFire s h (carrying [0]) ts) (hhere : s.here = some st) :
    let t := result s.cur.word ts (word64 (s.specialReg st s.cur.node.ctx (bits p 0 8)))
    execRdsr h p s = .next (fired s s.spent h [0] [outBoth { t with nlane := if t.fl.nil then t.nlane else 0 }]) :=
  hc.fire rfl (by rw [hhere])

theorem wrsr_holds (hc : CanFire s h (computing [0]) ts) (hdir : bits (tk ts 0).data 48 2 ≠ 3) :
    execWrsr h p s = .next (fired s (s.hold 127 (tk ts 0).wave (.wrsr (bits p 0 3) ((tk ts 0).data.extractLsb' 0 64))) h [0] []) := by
  refine hc.fire rfl (if_neg ?_)
  rwa [bits_field _ (by decide)]

theorem frd_reads {d : Beat} (hc : CanFire s h (carrying [0]) ts) (hhere : s.here = some st) (hfault : st.fault ≠ 0)
    (hbeat : s.recordBeat st (bits p 0 4) = some (d, u)) :
    execFrd h p s = .next (fired s u h [0] [outBoth (result u.cur.word ts d)]) := by
  refine hc.fire rfl ?_
  rw [hhere]
  dsimp only
  rw [if_neg hfault, hbeat]

theorem frd_emitsNil (hc : CanFire s h (carrying [0]) ts) (hhere : s.here = some st) (hfault : st.fault = 0) :
    execFrd h p s = .next (fired s s h [0] [outBoth (nilResult s.cur.word ts)]) := by
  refine hc.fire rfl ?_
  rw [hhere]
  dsimp only
  rw [if_pos hfault]

/-! ## Steals and claims (R74, R75, R325, R326) -/

/-- A steal joins the queue of the strand that it names. -/
theorem steal_queues {holder : Strand} (hc : CanFire s h (carrying [0]) ts) (hsettled : s.hereSettled = true)
    (hholder : s.strand (bits x.aux 12 3) (bits x.aux 0 12) = some holder) (hroom : holder.steals.length < 16) :
    execSteal h x s = .next (fired s ((s.markRmw s.cur.node s.cur.key (tk ts 0).wave).onStrand holder.die holder.task fun y =>
      { y with steals := y.steals ++ [⟨s.cur.node, 0, s.cur.key, { result s.cur.word ts 0 with fl := {} }⟩] }) h [0] []) := by
  refine hc.fire rfl ?_
  dsimp only
  rw [hsettled, Bool.not_true, if_neg Bool.false_ne_true, hholder]
  dsimp only
  rw [if_neg (Nat.not_le.2 hroom)]

/-- A steal from a strand that neither runs nor is saved finds nothing. -/
theorem steal_findsNone (hc : CanFire s h (carrying [0]) ts) (hsettled : s.hereSettled = true)
    (hnone : s.strand (bits x.aux 12 3) (bits x.aux 0 12) = none)
    (hsaved : ∀ v ∈ s.saved, v.strand.is (bits x.aux 12 3) (bits x.aux 0 12) = false) :
    execSteal h x s = .next (fired s (s.markRmw s.cur.node s.cur.key (tk ts 0).wave) h [0] [outA (emptied (result s.cur.word ts 0))]) := by
  refine hc.fire rfl ?_
  dsimp only
  rw [hsettled, Bool.not_true, if_neg Bool.false_ne_true, hnone]
  dsimp only
  rw [if_neg]
  rw [List.any_eq_true]
  rintro ⟨v, hv, his⟩
  exact Bool.false_ne_true ((hsaved v hv).symm.trans his)

/-- The strand's range register after a claim, which counts as a read-modify-write of the present instance. -/
def claimed (s : State) (st : Strand) (p : BitVec 30) (ts : List Tok) : State :=
  (s.setCarry st.die st.task (bits p 16 5) (claimRange (lane0 (tk ts 0)) (Tab.get 0 (bits p 16 5) st.k)).2).markRmw
    s.cur.node s.cur.key (tk ts 0).wave

theorem spltClaim_claims (hc : CanFire s h (computing [0]) ts) (hhere : s.here = some st) (hsettled : s.settled st s.cur.key = true)
    (hsome : lane0 (tk ts 0) ≠ 0) : execSpltClaim h p s = .next (fired s (claimed s st p ts) h [0]
      [outA (rangeTok (result (claimed s st p ts).cur.word ts 0) (claimRange (lane0 (tk ts 0)) (Tab.get 0 (bits p 16 5) st.k)).1)]) := by
  refine hc.fire rfl ?_
  dsimp only
  rw [hhere]
  dsimp only
  rw [hsettled, Bool.not_true, if_neg Bool.false_ne_true, if_neg hsome]
  rfl

/-! ## Performance counters (R327) -/

/-- The counter as a read leaves it: counted on, or zero when the read clears it (log entry 53). -/
def perfAfter (s : State) (x : FmtX) (w : BitVec 16) : State :=
  let u := (s.perfRead s.cur.node.ctx.die x.id.toNat).2
  if bit x.aux 0 then
    { u.markRmw u.cur.node u.cur.key w with
      eng := { u.eng with perf := Tab.put 0 (perfKey s.cur.node.ctx.die x.id.toNat) 0 u.eng.perf } } else u

theorem perf_reads (hc : CanFire s h (carrying [0]) ts) (hwaits : bit x.aux 0 = false ∨ s.hereSettled = true) :
    execPerf h x s = .next (fired s (perfAfter s x (tk ts 0).wave) h [0] [outBoth
      (let u := (s.perfRead s.cur.node.ctx.die x.id.toNat).2
       let v := if bit x.aux 0 then u.markRmw u.cur.node u.cur.key (tk ts 0).wave else u
       result v.cur.word ts (word64 (s.perfRead s.cur.node.ctx.die x.id.toNat).1.toNat))]) := by
  have hgo : (bit x.aux 0 && !s.hereSettled) = false := by
    rcases hwaits with hkeeps | hsettled
    · rw [hkeeps, Bool.false_and]
    · rw [hsettled, Bool.not_true, Bool.and_false]
  refine hc.fire rfl ?_
  dsimp only
  rw [hgo, if_neg Bool.false_ne_true, perfAfter]
  by_cases hclears : bit x.aux 0 = true
  · simp only [hclears, if_true]
  · simp only [hclears, if_false, Bool.false_eq_true]

end Sys2Proof.Claims

open Sys2Proof Sys2Proof.Machine Sys2Proof.Claims

/-- Settles O18: the body of a settled TRAP or BKPT faults, and a firing that faults only takes the fault. -/
theorem trapAndBreakpointFault : Obligations.TrapAndBreakpointFault := by
  unfold Obligations.TrapAndBreakpointFault
  exact fun h p s ts hc hsettled => ⟨trap_faults hc hsettled, bkpt_faults hc hsettled⟩

/-- Settles O19: each word passes its guards, and holds its effect, emits what it read, or changes the range or counter it names. -/
theorem systemWordsComplete : Obligations.SystemWordsComplete := by
  unfold Obligations.SystemWordsComplete
  intro h st
  refine ⟨?svc, ?rdsr, ?wrsr, ?cpri, ?yld, ?done, ?queues, ?findsNone, ?claims, ?perf, ?reads, ?noRecord, ?resm⟩
  case svc => exact fun p s ts hc hhere => svc_holds hc hhere
  case rdsr => exact fun p s ts hc hhere => rdsr_emits hc hhere
  case wrsr => exact fun p s ts hc hdir => wrsr_holds hc hdir
  case cpri | yld | done | resm =>
    intro p s ts hc _
    rw [exec]
    exact hc.fire rfl rfl
  case queues => exact fun x holder s ts hc ⟨hsettled, hholder, hroom⟩ => steal_queues hc hsettled hholder hroom
  case findsNone => exact fun x s ts hc ⟨hsettled, hnone, hsaved⟩ => steal_findsNone hc hsettled hnone hsaved
  case claims => exact fun p s ts hc ⟨hhere, hsettled, hsome⟩ => spltClaim_claims hc hhere hsettled hsome
  case perf => exact fun x s ts hc hwaits => perf_reads hc hwaits
  case reads => exact fun p d u s ts hc ⟨hhere, hfault, hbeat⟩ => frd_reads hc hhere hfault hbeat
  case noRecord => exact fun p s ts hc ⟨hhere, hfault⟩ => frd_emitsNil hc hhere hfault
end

section
/-! PROOFS. Match words: obligations O29, O30 and O31. A word whose store gives no CODE issues to its port; the two ways a collector of key
beats goes on are read once, in `collector_keeps` and `collector_completes`, and the one way a merge ends in `mergeEnds_fires`. -/

namespace Sys2Proof.Claims

open Sys2Proof.Machine

variable {s t u : State} {h : Hd} {c : FmtK} {ts : List Tok} {outs : List Out}

/-! ## Codes (R374, R380) -/

theorem firstCode_none {l : List (Nat × Bool)} (hl : noneOf l) : firstCode l = none := by
  rw [firstCode, Option.map_eq_none_iff, List.find?_eq_none]
  intro x hx
  rw [hl x hx]
  exact Bool.false_ne_true

theorem noneOf_nil : noneOf [] := fun _ hx => nomatch hx

theorem noneOf_cons {x : Nat × Bool} {l : List (Nat × Bool)} (hx : x.2 = false) (hl : noneOf l) : noneOf (x :: l) :=
  List.forall_mem_cons.2 ⟨hx, hl⟩

theorem noneOf_append {l l' : List (Nat × Bool)} (hl : noneOf l) (hl' : noneOf l') : noneOf (l ++ l') :=
  fun x hx => (List.mem_append.1 hx).elim (hl x) (hl' x)

theorem mem_insSorted {α : Type} {le : α → α → Bool} {x y : α} {l : List α} : y ∈ insSorted le x l ↔ y = x ∨ y ∈ l := by
  induction l with
  | nil => exact List.mem_cons
  | cons z l ih =>
    rw [insSorted]
    split
    · rw [List.mem_cons, ih, List.mem_cons, or_left_comm]
    · exact List.mem_cons

/-- Sorting neither drops nor adds an element. -/
theorem mem_insSort {α : Type} {le : α → α → Bool} {y : α} {l : List α} : y ∈ insSort le l ↔ y ∈ l := by
  have grown (acc : List α) : y ∈ l.foldl (fun acc x => insSorted le x acc) acc ↔ y ∈ l ∨ y ∈ acc := by
    induction l generalizing acc with
    | nil => simp
    | cons x l ih => rw [List.foldl_cons, ih, mem_insSorted, List.mem_cons, or_left_comm, or_assoc]
  rw [insSort, grown, or_iff_left List.not_mem_nil]

theorem noneOf_insSort {le : Nat × Bool → Nat × Bool → Bool} {l : List (Nat × Bool)} (hl : noneOf l) : noneOf (insSort le l) :=
  fun x hx => hl x (mem_insSort.1 hx)

/-- The other slots' tokens of a firing. -/
theorem tk_drop {n i : Nat} : tk (ts.drop n) i = tk ts (n + i) := by
  rw [tk, tk, List.getD_eq_getElem?_getD, List.getD_eq_getElem?_getD, List.getElem?_drop]

/-! ## Words that act on a store (R304, R311) -/

theorem kdel_issues (hc : CanFire s h (computing [0]) ts) (hcodes : noneOf (s.putCodes (s.ownStore c) c.keyvc)) :
    execKdel h c s = .next (fired s (ported (s.reserve (s.ownStore c)) c ts (.kdel ((tk ts 0).data.extractLsb' 0 32))) h [0]
      (zeroOut (s.reserve (s.ownStore c)) ts)) := by
  unfold execKdel
  exact hc.fire rfl (by rw [firstCode_none hcodes]; rfl)

theorem kflt_issues (hc : CanFire s h (computing [0]) ts) (hfilter : c.filt ≠ 0) (hhigh : bits (tk ts 0).data 14 18 = 0)
    (hlow : bits (tk ts 0).data 6 2 = 0) : execKflt h c s = .next (fired s
      (s.hold 127 (tk ts 0).wave (.kflt c.filt.toNat ((tk ts 0).data.extractLsb' 0 96))) h [0] (zeroOut s ts)) := by
  refine hc.fire rfl ?_
  dsimp only
  rw [bits_field _ (by decide), bits_field _ (by decide), hhigh, hlow, if_neg (by simpa using hfilter)]
  rfl

theorem kcnt_asks (hc : CanFire s h (carrying [0]) ts) (hcodes : noneOf (s.storeCodes (s.ownStore c) c.keyvc)) :
    execKcnt h c s = .next (fired s (s.askPort (s.ownStore c) s.cur.node s.cur.key c.keyvc (.kcnt (s.opsOf [0] ts))
      (s.locHere (tk ts 0).wave)) h [0] []) := by
  unfold execKcnt
  exact hc.fire rfl (by rw [firstCode_none hcodes])

/-! ## Key and query beats (R305, R306) -/

section Collector
variable {key : Nat} {rest comp : List Nat} {early : State → List (Nat × Bool)} {late : State → List Tok → List (Nat × Bool)}
  {last : State → List Tok → List Tok → Res}

/-- The beat at the front of slot 0 is well formed: its SEQ is one of the key's, and LAST marks the final one. -/
theorem KeyBeat.wellFormed {final : Bool} (hbeat : KeyBeat s t key final) :
    ∃ x, t.slotTok s.cur.node s.cur.key 0 = some x ∧ x.fl.nil = false ∧ x.fl.last = final ∧
      (decide (s.keyBeats key ≤ x.seq.toNat) || x.fl.last != decide (x.seq.toNat + 1 = s.keyBeats key)) = false := by
  obtain ⟨x, hx, hnil, hlast, hseq, hfinal⟩ := hbeat.beat
  refine ⟨x, hx, hnil, hlast, ?_⟩
  rw [hlast, decide_eq_false (Nat.not_le.2 hseq), Bool.false_or, bne_eq_false_iff_eq]
  exact Bool.eq_iff_iff.2 (hfinal.trans decide_eq_true_iff.symm)

/-- A beat that is not the last is kept with those before it. -/
theorem collector_keeps (hbeat : KeyBeat s t key false) (hc : CanFire t h ⟨[0], 0 :: rest, [0], []⟩ ts)
    (hcodes : noneOf ((early t).filter fun x => x.1 != 4 && x.1 != 12)) :
    s.collector h key rest comp early late last =
      .next (fired t (t.setKept ⟨s.cur.node, s.cur.key, [], keyBeatsKept s ++ [tk ts 0], []⟩) h [0] []) := by
  obtain ⟨x, hx, hnil, hlast, hform⟩ := hbeat.wellFormed
  unfold State.collector
  dsimp only
  rw [hbeat.next]
  dsimp only
  rw [hx]
  dsimp only
  rw [hform, hnil, hlast, if_neg Bool.false_ne_true, Bool.false_and, if_neg Bool.false_ne_true]
  refine hc.fire hbeat.format ?_
  rw [firstCode_none (noneOf_insSort (noneOf_cons rfl hcodes))]
  rfl

/-- With the last beat the word fires. -/
theorem collector_completes (hbeat : KeyBeat s t key true) (hc : CanFire t h ⟨0 :: rest, 0 :: rest, comp, []⟩ ts)
    (hcodes : noneOf (early t ++ late t (ts.drop 1)))
    (hfires : last t (keyBeatsKept s ++ [tk ts 0]) (ts.drop 1) = .fires u outs) :
    s.collector h key rest comp early late last = .next (fired t u h (0 :: rest) outs) := by
  obtain ⟨x, hx, hnil, hlast, hform⟩ := hbeat.wellFormed
  unfold State.collector
  dsimp only
  rw [hbeat.next]
  dsimp only
  rw [hx]
  dsimp only
  rw [hform, hnil, hlast, if_neg Bool.false_ne_true, if_pos (by rfl)]
  refine hc.fire hbeat.format ?_
  rw [firstCode_none (noneOf_insSort hcodes)]
  exact hfires

end Collector

theorem kput_keeps (hbeat : KeyBeat s t (s.ownStore c) false) (hc : CanFire t h ⟨[0], [0, 1, 2], [0], []⟩ ts)
    (hcodes : noneOf ((t.putCodes (s.ownStore c) c.keyvc).filter fun x => x.1 != 4 && x.1 != 12)) :
    execKput h c s = .next (fired t (t.setKept ⟨s.cur.node, s.cur.key, [], keyBeatsKept s ++ [tk ts 0], []⟩) h [0] []) := by
  unfold execKput
  exact collector_keeps hbeat hc hcodes

theorem kput_completes (hbeat : KeyBeat s t (s.ownStore c) true) (hc : CanFire t h ⟨[0, 1, 2], [0, 1, 2], [0, 1], []⟩ ts)
    (hcodes : noneOf (t.putCodes (s.ownStore c) c.keyvc)) :
    execKput h c s = .next (
      let beats := keyBeatsKept s ++ [tk ts 0]
      let op : PortOp := .kput (beats.map (keyData (fmtOf (t.keyEnt (s.ownStore c))))) ((tk ts 1).data.extractLsb' 0 128)
        (t.laneData (tk ts 2)) (tk ts 2).fl.poi
      let u := (t.unkeep s.cur.node s.cur.key).reserve (s.ownStore c)
      fired t (ported u c beats op) h [0, 1, 2] (zeroOut u beats)) := by
  unfold execKput
  refine collector_completes hbeat hc (noneOf_append hcodes noneOf_nil) ?_
  rw [tk_drop, tk_drop]
  rfl

theorem kqry_keeps (hbeat : KeyBeat s t (s.ownStore c) false) (hc : CanFire t h ⟨[0], [0, 1], [0], []⟩ ts)
    (hcodes : noneOf (t.storeCodes (s.ownStore c) c.keyvc)) :
    execKqry h c s = .next (fired t (t.setKept ⟨s.cur.node, s.cur.key, [], keyBeatsKept s ++ [tk ts 0], []⟩) h [0] []) := by
  unfold execKqry
  exact collector_keeps hbeat hc fun x hx => hcodes x (List.mem_of_mem_filter hx)

/-- What a query checks beside its store's codes: its sequence resolves, its control beat is well formed, and its target is one (R306). -/
theorem kqry_completes {len : Nat} (hbeat : KeyBeat s t (s.ownStore c) true) (hc : CanFire t h ⟨[0, 1], [0, 1], [0, 1], []⟩ ts)
    (hcodes : noneOf (t.storeCodes (s.ownStore c) c.keyvc))
    (hlen : (if (t.store (s.ownStore c)).desc.kind = 1 then t.sequenceLen (bits (tk ts 1).data 32 32) else (.ok 0, t)) = (.ok len, u))
    (hhigh : bits (tk ts 1).data 192 192 = 0) (hlow : bits (tk ts 1).data 118 10 = 0) (hmode : c.mode = 2 → c.k = 0)
    (hfeed : t.mergeFeed h = true → h.ta = noTarget) :
    execKqry h c s = .next (fired t ((u.unkeep s.cur.node s.cur.key).sendQuery c h (s.ownStore c)
      ((keyBeatsKept s ++ [tk ts 0]).map (fun x => (0, x)) ++ t.opsOf [1] [tk ts 1])) h [0, 1] []) := by
  have hk : (c.mode = 2 && c.k != 0) = false := by
    rw [Bool.and_eq_false_imp, decide_eq_true_eq, bne_eq_false_iff_eq]
    exact hmode
  have hta : (t.mergeFeed h && h.ta != noTarget) = false := by
    rw [Bool.and_eq_false_imp, bne_eq_false_iff_eq]
    exact hfeed
  unfold execKqry
  refine collector_completes hbeat hc (noneOf_append hcodes ?codes) ?fires
  case codes =>
    dsimp only
    rw [tk_drop, hhigh, hlow, hk, hta]
    refine noneOf_append ?_ (noneOf_cons rfl (noneOf_cons rfl noneOf_nil))
    split
    case isTrue hkind =>
      rw [if_pos hkind] at hlen
      rw [hlen]
      exact noneOf_nil
    case isFalse => exact noneOf_nil
  case fires =>
    dsimp only
    rw [tk_drop, hlen]

/-! ## Merges (R309, R310) -/

section Merge
variable {m : Merge} {q : Tok}

/-- A merge node takes its next token, the control beat with the first. -/
theorem mergeFire_fires {body : State → Merge → Tok → Res} (hc : CanFire s h (mergeSlots s) ts)
    (hbody : body s (mergeHere s ts) (tk ts 0) = .fires u outs) :
    s.mergeFire h body = .next (fired s u h (mergeSlots s).rd outs) := by
  change (match keptHere s with | none => _ | some _ => _) = _
  cases hkept : keptHere s with
  | none =>
    rw [mergeSlots, if_pos hkept] at hc ⊢
    rw [mergeHere, hkept] at hbody
    exact hc.fire rfl hbody
  | some k =>
    have hopen : keptHere s ≠ none := by rw [hkept]; exact Option.some_ne_none k
    rw [mergeSlots, if_neg hopen] at hc ⊢
    rw [mergeHere, hkept] at hbody
    exact hc.fire rfl hbody

/-- A merge with all its inputs asks for values on other modules, or has its result; a RETRY input makes that one RETRY token (R393). -/
theorem mergeEnds_fires {kmrg : Bool} (hasks : m.retry = false → Fetchable s (s.fetches kmrg m) ∧
      (s.fetches kmrg m = [] → s.mergeOuts s.cur.node s.cur.key kmrg m q [] ≠ none)) :
    ∃ u outs, s.mergeEnds kmrg m q = .fires u outs := by
  unfold State.mergeEnds
  dsimp only
  cases hretry : m.retry with
  | true =>
    rw [if_pos rfl, State.mergeOuts, hretry, if_pos rfl]
    exact ⟨_, _, rfl⟩
  | false =>
    obtain ⟨hreach, houts⟩ := hasks hretry
    have hfind : (s.fetches kmrg m).find? (fun x => (s.gidBinding s.cur.node x.1).isNone) = none := by
      rw [List.find?_eq_none]
      intro x hx
      rw [Option.isNone_iff_eq_none]
      exact hreach x hx
    rw [if_neg Bool.false_ne_true, hfind]
    dsimp only
    cases hfetches : s.fetches kmrg m with
    | cons x l => exact ⟨_, _, rfl⟩
    | nil =>
      obtain ⟨outs, hsome⟩ := Option.ne_none_iff_exists'.1 (houts hfetches)
      rw [hsome]
      exact ⟨_, _, rfl⟩

variable {n : Node} {k : Key} {fs : List Fetch}

/-- The value beats of all winners are there, so the merged result is. -/
theorem mergeOuts_kmrg (hwinners : s.winners n k fs 0 m.cands ≠ none) : s.mergeOuts n k true m q fs ≠ none := by
  rw [State.mergeOuts]
  split
  · exact Option.some_ne_none _
  · rw [if_pos rfl, State.kmrgOuts, ne_eq, Option.map_eq_none_iff]
    exact hwinners

/-- The partials of all stores that have one are there, so their merge is. -/
theorem mergeOuts_ksmx (hparts : m.cands ≠ [] → ∀ g ∈ m.parts, s.fetched n k fs g none ≠ none) :
    s.mergeOuts n k false m q fs ≠ none := by
  rw [State.mergeOuts]
  split
  · exact Option.some_ne_none _
  rw [if_neg Bool.false_ne_true, State.ksmxOuts]
  dsimp only
  split
  · exact Option.some_ne_none _
  next hcands =>
    rw [List.isEmpty_iff] at hcands
    rw [if_neg]
    · exact Option.some_ne_none _
    · simpa [List.any_map] using hparts hcands

/-- A result is kept while it comes in its store's order (R309). -/
theorem kmrgBody_keeps {b : Nat} (hscore : isMark q = false) (htakes : m.refuses (some (bits q.data 160 23)) = false)
    (horder : ∀ p, m.last.find? (fun x => bits x.data 160 23 = bits q.data 160 23) = some p → scoreBefore q p = false) :
    ∃ u outs, kmrgBody b s m q = .fires u outs := by
  unfold kmrgBody
  dsimp only
  rw [show (q.fl.endf || q.fl.nil || q.fl.retry) = false from hscore, Bool.not_false, if_pos rfl, htakes, Bool.false_or, Bool.true_and,
    if_pos rfl]
  split
  next p hp =>
    rw [if_neg (by rw [horder p hp]; exact Bool.false_ne_true)]
    exact ⟨_, _, rfl⟩
  next =>
    rw [if_neg Bool.false_ne_true]
    exact ⟨_, _, rfl⟩

/-- An end mark counts; the last one ends the merge. -/
theorem kmrgBody_ends {b : Nat} (hmark : isMark q = true) (htakes : m.refuses q.from = false)
    (hlast : m.retry = false → q.fl.retry = false → mergeNin m.ctl.data < m.fin + 1 →
      Fetchable s (s.fetches true m) ∧ (s.fetches true m = [] → s.winners s.cur.node s.cur.key [] 0 m.cands ≠ none)) :
    ∃ u outs, kmrgBody b s m q = .fires u outs := by
  unfold kmrgBody
  dsimp only
  rw [show (q.fl.endf || q.fl.nil || q.fl.retry) = true from hmark, Bool.not_true, if_neg Bool.false_ne_true, htakes, Bool.false_or,
    Bool.false_and, if_neg Bool.false_ne_true, if_neg Bool.false_ne_true]
  split
  case isTrue => exact ⟨_, _, rfl⟩
  case isFalse hends =>
    refine mergeEnds_fires fun hretry => ?_
    obtain ⟨hm, hq⟩ := Bool.or_eq_false_iff.1 hretry
    obtain ⟨hreach, hwinners⟩ := hlast hm hq (Nat.not_le.1 hends)
    exact ⟨hreach, fun hnone => mergeOuts_kmrg (hwinners hnone)⟩

/-- A ready token or a mark counts; the last one ends the merge. -/
theorem ksmxBody_fires
    (htakes : m.refuses (some (if q.fl.retry || q.fl.nil then q.from.getD (bits q.data 0 23) else bits q.data 0 23)) = false)
    (hlast : m.retry = false → q.fl.retry = false → mergeNin m.ctl.data < m.fin + 1 →
      let all := { m with cands := if q.fl.nil then m.cands else m.cands ++ [q] }
      Fetchable s (s.fetches false all) ∧
        (s.fetches false all = [] → all.cands ≠ [] → ∀ g ∈ all.parts, s.fetched s.cur.node s.cur.key [] g none ≠ none)) :
    ∃ u outs, ksmxBody s m q = .fires u outs := by
  unfold ksmxBody
  dsimp only
  rw [if_neg ?takes]
  case takes =>
    revert htakes
    cases q.from <;> exact fun htakes hrefused => Bool.false_ne_true (htakes.symm.trans hrefused)
  split
  case isTrue => exact ⟨_, _, rfl⟩
  case isFalse hends =>
    refine mergeEnds_fires fun hretry => ?_
    obtain ⟨hm, hq⟩ := Bool.or_eq_false_iff.1 hretry
    obtain ⟨hreach, hparts⟩ := hlast hm hq (Nat.not_le.1 hends)
    rw [hq, Bool.or_false]
    exact ⟨hreach, fun hnone => mergeOuts_ksmx (hparts hnone)⟩

end Merge

end Sys2Proof.Claims

open Sys2Proof Sys2Proof.Machine Sys2Proof.Claims

/-- Settles O29: with no CODE the operation waits for the port; KPUT's beats are a collector's. -/
theorem matchStoreWordsComplete : Obligations.MatchStoreWordsComplete := by
  unfold Obligations.MatchStoreWordsComplete
  intro h c
  refine ⟨?kdef, ?kdel, ?kgen, ?ksid, ?kflt, ?kcnt, ?keeps, ?completes⟩
  case kdef | kgen | ksid =>
    intro s ts hc hcodes
    rw [exec]
    exact hc.fire rfl (by rw [firstCode_none hcodes]; rfl)
  case kdel => exact fun s ts hc hcodes => kdel_issues hc hcodes
  case kflt => exact fun s ts hc ⟨hfilter, hhigh, hlow⟩ => kflt_issues hc hfilter hhigh hlow
  case kcnt => exact fun s ts hc hcodes => kcnt_asks hc hcodes
  case keeps => exact fun s t ts hbeat hc hcodes => kput_keeps hbeat hc hcodes
  case completes => exact fun s t ts hbeat hc hcodes => kput_completes hbeat hc hcodes

/-- Settles O30: KQRY's beats are a collector's, and with the last its checks pass. -/
theorem queryWordsComplete : Obligations.QueryWordsComplete := by
  unfold Obligations.QueryWordsComplete
  intro h c s t ts
  refine ⟨?keeps, ?completes⟩
  case keeps => exact fun hbeat hc hcodes => kqry_keeps hbeat hc hcodes
  case completes =>
    exact fun u len hbeat hc hcodes hlen hhigh hlow hmode hfeed => kqry_completes hbeat hc hcodes hlen hhigh hlow hmode hfeed

/-- Settles O31: a result or an end mark that its merge takes fires the node, and a merge that ends has its values or asks for them. -/
theorem mergeWordsComplete : Obligations.MergeWordsComplete := by
  unfold Obligations.MergeWordsComplete
  intro h c s ts hc
  refine ⟨?kmrg, ?ksmx⟩
  case kmrg =>
    intro m q htakes horder hlast
    have hbody : ∃ u outs, kmrgBody (if c.k = 0 then 64 else c.k.toNat) s m q = .fires u outs := by
      cases hmark : isMark q with
      | false =>
        rw [hmark, if_neg Bool.false_ne_true] at htakes
        exact kmrgBody_keeps hmark htakes (horder hmark)
      | true =>
        rw [hmark, if_pos rfl] at htakes
        exact kmrgBody_ends hmark htakes (hlast hmark)
    obtain ⟨u, outs, hbody⟩ := hbody
    exact ⟨u, outs, hbody, mergeFire_fires hc hbody⟩
  case ksmx =>
    intro m q htakes hlast
    obtain ⟨u, outs, hbody⟩ := ksmxBody_fires htakes hlast
    exact ⟨u, outs, hbody, mergeFire_fires hc hbody⟩
end

section
/-! PROOFS. Sequence page words: obligation O32. Once nothing keeps a word from the sequence port (`AtPort`), its answer there is read once. -/

namespace Sys2Proof.Claims

open Sys2Proof.Machine

variable {s t u : State} {h : Hd} {m : FmtM} {ts : List Tok} {sq hg pos b page : Nat}

theorem zeroTok_hold {n : Nat} {w : BitVec 16} {e : Eff} : (s.hold n w e).zeroTok ts = s.zeroTok ts := by
  rw [State.zeroTok, beside_hold.cur, State.zeroTok]

/-- Nothing keeps a page word from its port: its turn has come (R33), the port is idle, and no operation stands before it at its sequence. -/
def AtPort (s : State) (m : FmtM) (ts : List Tok) (sq : Nat) : Prop := s.notTurn m ts = false ∧ s.seqBusy = false ∧ s.seqStuck sq = false

theorem AtPort.goes (hport : AtPort s m ts sq) : (s.notTurn m ts || s.seqBusy || s.seqStuck sq) = false := by
  obtain ⟨hturn, hbusy, hstuck⟩ := hport
  rw [hturn, hbusy, hstuck]
  rfl

/-- SPLK finds a page: its address, its number and its count of references (R313). -/
theorem splk_answers {va owner : Nat} {e : Ste} {d : BitVec 32} (hc : CanFire s h (computing [0]) ts)
    (haddr : pageAddr ts = (sq, hg, pos, b)) (hport : AtPort s m ts sq)
    (hpage : (resolvePos sq hg pos).got s = .ok (some (page, va, e, owner)) t) (hdesc : (readDesc page).got t = .ok d u) :
    execSplk h m s = .next (fired s ((u.issue m ts).respond s.cur.node u.cur.key [outBoth { result u.cur.word ts (BitVec.ofNat 384
      (pack [(0, 64, va), (64, 64, page), (128, 64, refcOf d)])) with nlane := 2 }] false) h [0] []) := by
  refine hc.fire rfl ?_
  rw [haddr]
  dsimp only
  rw [hport.goes, if_neg Bool.false_ne_true, hpage]
  dsimp only
  rw [hdesc]

/-- SPLK finds no page. -/
theorem splk_answersNil (hc : CanFire s h (computing [0]) ts) (haddr : pageAddr ts = (sq, hg, pos, b)) (hport : AtPort s m ts sq)
    (hnone : (resolvePos sq hg pos).got s = .ok none t) :
    execSplk h m s = .next (fired s ((t.issue m ts).respond s.cur.node t.cur.key [outBoth (nilResult t.cur.word ts)] false) h [0] []) := by
  refine hc.fire rfl ?_
  rw [haddr]
  dsimp only
  rw [hport.goes, if_neg Bool.false_ne_true, hnone]

theorem spap_holds {a : Acc} (hc : CanFire s h Slots.store ts) (haddr : pageAddr ts = (sq, hg, pos, b)) (hport : AtPort s m ts sq)
    (hcheck : (appendCheck s.cur.node s.cur.key sq hg pos b).got s = .ok (page, a) t) :
    execSpap h m s = .next (fired s ((t.hold m.msq.toNat (tk ts 0).wave (.spap ⟨sq, hg, pos, b, t.laneData (tk ts 1),
      (t.validBytes (tk ts 1)).length, page, (tk ts 1).fl.poi, (tk ts 1).fl.last, if a.ss then none else some a.addr⟩)).issue m ts)
      h [0, 1] (zeroOut t ts)) := by
  refine hc.fire rfl ?_
  rw [haddr]
  dsimp only
  rw [hport.goes, if_neg Bool.false_ne_true, hcheck]
  dsimp only
  rw [zeroTok_hold, zeroOut]

end Sys2Proof.Claims

open Sys2Proof Sys2Proof.Machine Sys2Proof.Claims

/-- Settles O32: SPLK and SPAP pass their port; the other words queue or hold what their operands name. -/
theorem pageWordsComplete : Obligations.PageWordsComplete := by
  unfold Obligations.PageWordsComplete
  intro h
  refine ⟨?answers, ?answersNil, ?spap, ?spfk, ?sprl, ?spwn, ?sprg⟩
  case answers =>
    exact fun m sq hg pos b page va e owner d t u s ts hc ⟨haddr, hturn, hbusy, hstuck, hpage, hdesc⟩ =>
      splk_answers hc haddr ⟨hturn, hbusy, hstuck⟩ hpage hdesc
  case answersNil =>
    exact fun m sq hg pos b t s ts hc ⟨haddr, hturn, hbusy, hstuck, hnone⟩ => splk_answersNil hc haddr ⟨hturn, hbusy, hstuck⟩ hnone
  case spap =>
    exact fun m sq hg pos b page a t s ts hc ⟨haddr, hturn, hbusy, hstuck, hcheck⟩ => spap_holds hc haddr ⟨hturn, hbusy, hstuck⟩ hcheck
  case spfk | sprl =>
    intro p s ts hc _
    rw [exec]
    exact hc.fire rfl rfl
  case spwn | sprg =>
    intro p s ts hc _
    rw [exec]
    refine hc.fire rfl ?_
    dsimp only
    rw [zeroTok_hold]
end

section
/-! PROOFS. Sequencer words: obligations O33 and O34. A word whose strand executes does what `Sequencing.onSeq` gives; its guards, met, leave
one outcome of its definition. -/

namespace Sys2Proof.Claims

open Sys2Proof.Machine

variable {s t : State} {q : SeqW} {st : Strand} {k : Key} {f : Strand → State}

/-- The strand whose sequencer executes takes the word. -/
theorem Sequencing.onSeq (hs : Sequencing s st) (hf : f st = t) : s.onSeq f = .next t := by
  obtain ⟨hstrand, hmode, hsaving, hfrozen⟩ := hs
  rw [State.onSeq, hstrand]
  dsimp only
  rw [hmode, hsaving, hfrozen, if_neg (by decide), hf]

/-! ## Registers and branches (R201, R206, R331) -/

/-- A label counts words (R205). -/
theorem label_eq (pc : Word) (imm : BitVec 32) : label pc imm = pc + imm.signExtend 64 * 8 := by
  rw [label, BitVec.shiftLeft_eq_mul_twoPow]
  rfl

theorem seqBranch_eq : s.seqBranch st q.imm = branch s st q := by
  simp only [State.seqBranch, branch, goTo, label_eq]

theorem qloop_counts (hs : Sequencing s st) : execQloop q s = .next (
    let v := s.readReg st q.da.toNat
    if v = 0 then nextWord s st
    else if v = 1 then nextWord (s.writeReg st q.da.toNat 0) st
    else branch (s.writeReg st q.da.toNat (v - 1)) st q) := by
  refine hs.onSeq ?_
  dsimp only
  have hlast : s.readReg st q.da.toNat - 1 = 0 ↔ s.readReg st q.da.toNat = 1 := sub_eq_zero
  by_cases hone : s.readReg st q.da.toNat = 1
  · rw [hone]
    rfl
  · rw [if_neg (mt hlast.1 hone), if_neg hone, seqBranch_eq]
    rfl

/-- The comparison that QBR hands to its condition: -1, 0 or 1. -/
theorem sign_iff (a b : Int) :
    ((if a < b then -1 else if a = b then 0 else 1 : Int) < 0 ↔ a < b) ∧
      ((if a < b then -1 else if a = b then 0 else 1 : Int) = 0 ↔ a = b) := by
  split_ifs with hless hsame
  · simp [hless, hless.ne]
  · simp [hsame]
  · simp [hless, hsame]

/-- FN's first seven codes compare as signed numbers; the last of them always holds. -/
theorem qbrTaken_iff {fn : Nat} (hfn : fn < 7) (a b : Word) : qbrTaken fn a b = true ↔ holdsCond fn a.toInt b.toInt := by
  obtain ⟨hless, hsame⟩ := sign_iff a.toInt b.toInt
  rw [qbrTaken]
  generalize (if a.toInt < b.toInt then -1 else if a.toInt = b.toInt then 0 else 1 : Int) = c at hless hsame ⊢
  interval_cases fn <;> simp [holdsCond, Machine.cond] <;> omega

theorem holdsCond_lt {fn : Nat} {a b : Int} (hcond : holdsCond fn a b) : fn < 7 := by
  rw [holdsCond] at hcond
  omega

theorem qbr_branches (hs : Sequencing s st)
    (hcond : holdsCond q.fn.toNat (s.readReg st q.da.toNat).toInt (s.readReg st q.db.toNat).toInt) :
    execQbr q s = .next (branch s st q) := by
  refine hs.onSeq ?_
  rw [if_pos ((qbrTaken_iff (holdsCond_lt hcond) ..).2 hcond), seqBranch_eq]

theorem qbr_goesOn (hs : Sequencing s st) (hfn : q.fn.toNat < 7)
    (hcond : ¬holdsCond q.fn.toNat (s.readReg st q.da.toNat).toInt (s.readReg st q.db.toNat).toInt) :
    execQbr q s = .next (nextWord s st) :=
  hs.onSeq (if_neg (mt (qbrTaken_iff hfn ..).1 hcond))

/-- QPRD names a slot of the strand, or none (R53). -/
theorem qprd_maps (hs : Sequencing s st) (hslot : bit q.imm 11 = true → bits q.imm 8 2 < st.slots.length) :
    execQprd q s = .next (nextWord
      (s.onStrand st.die st.task fun x => { x with exitMap := Tab.put 0 (bits q.imm 0 3) (q.imm.extractLsb' 8 4) x.exitMap }) st) := by
  refine hs.onSeq ?_
  dsimp only
  rw [bit_field _ (by decide), bits_field _ (by decide), if_neg]
  · rfl
  · rw [Bool.and_eq_true, decide_eq_true_eq]
    exact fun ⟨hbit, hlen⟩ => absurd (hslot hbit) (Nat.not_lt.2 hlen)

/-! ## Phases (R51, R332) -/

theorem qcfg_enters {cfg : Strand → Word} (hs : Sequencing s st) (hslot : bits q.fn 0 2 < st.slots.length) (hdrained : s.drained st = true)
    (hl0 : st.l0 = some k) : s.qcfg q cfg = .next (s.enterSlot st.die st.task (bits q.fn 0 2) (cfg st)) := by
  refine hs.onSeq ?_
  dsimp only
  rw [if_neg (Nat.not_le.2 hslot), hdrained, hl0, Bool.not_true, Bool.false_or, Option.isNone_some, if_neg Bool.false_ne_true]

/-! ## Streams (R149, R331, R333) -/

theorem qarm_arms {e : Nat} {d : BitVec 256} (hl0 : st.l0 = some k) (hpending : s.streamPending st e = false) (hgood : goodDesc d = true) :
    s.qarm st e d = nextWord (armsAll s st e d k) st := by
  rw [State.qarm, hgood, Bool.not_true, if_neg Bool.false_ne_true, hl0]
  dsimp only
  rw [hpending, if_neg Bool.false_ne_true]
  rfl

theorem qwaitStream_goesOn (hs : Sequencing s st)
    (hdone : ∀ w ∈ st.wafers, (s.stream st.die w (bits q.da 0 4)).armed = false ∨ (s.stream st.die w (bits q.da 0 4)).fin = true) :
    execQwaitStream q s = .next (nextWord s st) := by
  refine hs.onSeq (if_pos ?_)
  rw [List.all_eq_true]
  intro w hw
  dsimp only
  rcases hdone w hw with harmed | hfin
  · rw [harmed, Bool.not_false, Bool.true_or]
  · rw [hfin, Bool.or_true]

/-! ## Glazes (R334) -/

theorem qglz_contributes {g : Strand → Strand} (hstep : st.step = (s.domain st.part).step) :
    s.qglz st g = s.setStrand (g { st with glz := st.glz ++ [⟨none, st.step, s.mem.nextSeq, []⟩], step := st.step + 1 }) :=
  if_neg (by rw [bne_iff_ne, not_not]; exact hstep)

end Sys2Proof.Claims

open Sys2Proof Sys2Proof.Machine Sys2Proof.Claims

/-- Settles O33: each word writes its register or its exit map and goes on, or branches on what its registers hold. -/
theorem sequencerRegisterWords : Obligations.SequencerRegisterWords := by
  unfold Obligations.SequencerRegisterWords
  intro q s st hs
  exact ⟨hs.onSeq rfl, hs.onSeq rfl, qloop_counts hs, qbr_branches hs, qbr_goesOn hs, qprd_maps hs⟩

/-- Settles O34: each word's guards, met, leave its effect on the strand, its streams or its glazes. -/
theorem sequencerPhaseWords : Obligations.SequencerPhaseWords := by
  unfold Obligations.SequencerPhaseWords
  intro q s st k hs
  refine ⟨?qcfg, ?qarm, ?qwaitStream, ?qwaitCycles, ?qend, ?qglz⟩
  case qcfg =>
    intro hslot hdrained hl0
    refine ⟨?_, qcfg_enters hs hslot hdrained hl0⟩
    rw [← label_eq]
    exact qcfg_enters hs hslot hdrained hl0
  case qarm =>
    intro hl0 hpending
    exact ⟨fun hgood => hs.onSeq (qarm_arms hl0 hpending hgood), fun hgood => hs.onSeq (qarm_arms hl0 hpending hgood),
      fun hgood => hs.onSeq (qarm_arms hl0 hpending hgood)⟩
  case qwaitStream => exact qwaitStream_goesOn hs
  case qwaitCycles => exact hs.onSeq rfl
  case qend => exact fun hdrained => hs.onSeq (if_pos hdrained)
  case qglz => exact fun hstep => ⟨hs.onSeq (qglz_contributes hstep), hs.onSeq (qglz_contributes hstep)⟩
end

section
/-! PROOFS. Faults as they happen, resets and SPDM: obligations O42, O44 and O45. Each event's guards, met, leave one outcome of its
definition. -/

namespace Sys2Proof.Claims

open Sys2Proof.Machine

variable {s : State} {n die task wafer : Nat} {st : Strand} {q : SpdmReq}

/-! ## Faults (R353 to R357) -/

theorem execFaultTakesEffect_freezes {r : FaultReg} {rest : List FaultReg} (hstrand : s.strand die task = some st)
    (hfrozen : st.frozen = false) (hfirst : insSort FaultReg.le (s.effective st) = r :: rest) :
    execFaultTakesEffect die task s = .next (s.takeEffect st r) := by
  rw [execFaultTakesEffect, hstrand]
  dsimp only
  rw [hfrozen, hfirst]

/-- The request of a record leaves the queue. -/
def unqueued (s : State) (n : Nat) : State := { s with flt := { s.flt with reqs := drop1 n s.flt.reqs } }

section Record
variable {r : RecReq} {node : Node} {key : Key}

theorem execFaultRecordWrite_exact (hreq : s.flt.reqs[n]? = some r) (hsubject : r.subject = .exact die task node key)
    (hstrand : s.strand die task = some st) (hlanded : s.landed st = true) (hwaits : s.recordWaits r = false) :
    execFaultRecordWrite n s = .next ((unqueued s n).writeRecord r (s.mayRerun die task node key)) := by
  rw [execFaultRecordWrite, hreq]
  dsimp only
  rw [hsubject]
  dsimp only
  rw [hstrand]
  dsimp only
  rw [hlanded, hwaits, if_neg (by decide)]
  rfl

theorem execFaultRecordWrite_other (hreq : s.flt.reqs[n]? = some r) (hsubject : ∀ die task node key, r.subject ≠ .exact die task node key)
    (hwaits : s.recordWaits r = false) : execFaultRecordWrite n s = .next ((unqueued s n).writeRecord r false) := by
  rw [execFaultRecordWrite, hreq]
  dsimp only
  split
  case h_1 die task node key hexact => exact absurd hexact (hsubject die task node key)
  case h_2 =>
    rw [hwaits, if_neg Bool.false_ne_true]
    rfl

end Record

/-! ## Bounds (R369, R370) -/

theorem execTagWaitBound_reports {i : Nat} {r : TagReq} (hstrand : s.strands[n]? = some st) (hreq : st.reqs[i]? = some r)
    (hdue : st.reqs.findIdx? (fun r => boundOn (Tab.get 0 st.die s.flt.tagBound) r.waited && !r.told) = some i) :
    execTagWaitBound n s = .next ((s.tagReport st r.lvl.toNat false r.parent r.node r.key r.trig.wave).setStrand
      { st with reqs := upd (fun r => { r with told := true }) i st.reqs }) := by
  rw [execTagWaitBound, hstrand]
  dsimp only
  rw [hdue]
  dsimp only
  rw [hreq]

/-! ## SPDM (R349, R401) -/

theorem ask_answers {r : Nat} (hslot : q.slot < 10) (hflag : bit s.host.ready 46 = true) : s.ask r q = s.reply r q := by
  rw [State.ask, if_neg (Nat.not_le.2 hslot), if_pos hflag]

/-- A die whose firmware passed its check answers for a partition with the running digest of its images. -/
theorem measurement_partition {p : Nat} (hslot : q.slot < 8) (hparam : q.param = 16 + p) (hp : p < 64) : s.measurement q =
    if Config.firmwareGood q.slot then Tab.get 0 (handlerKey q.slot p) s.host.digests else Config.spdmAnswer 0x7F q.slot q.param := by
  have hunlisted : (1 ≤ q.param && q.param ≤ 2 || q.param = 3 && 8 ≤ q.slot) = false := by simp; omega
  have hlisted : (q.slot < 8 && 16 ≤ q.param && q.param < 80) = true := by simp; omega
  rw [State.measurement, hunlisted, if_neg Bool.false_ne_true, hlisted, if_pos rfl, decide_eq_true hslot, Bool.true_and, hparam,
    Nat.add_sub_cancel_left]
  cases Config.firmwareGood q.slot <;> rfl

theorem measurement_firmware (hlow : 1 ≤ q.param) (hhigh : q.param ≤ 2) : s.measurement q =
    if q.slot < 8 ∧ Config.firmwareGood q.slot = false then Config.spdmAnswer 0x7F q.slot q.param
    else Config.firmwareDigest q.slot q.param := by
  have hlisted : (1 ≤ q.param && q.param ≤ 2 || q.param = 3 && 8 ≤ q.slot) = true := by simp; omega
  rw [State.measurement, hlisted, if_pos rfl]
  simp only [Bool.and_eq_true, decide_eq_true_eq, Bool.not_eq_true']

end Sys2Proof.Claims

open Sys2Proof Sys2Proof.Machine Sys2Proof.Claims

/-- Settles O42: each event's guards hold, so the fault takes effect, its record is written, or its report is made. -/
theorem faultEventsComplete : Obligations.FaultEventsComplete := by
  unfold Obligations.FaultEventsComplete
  intro s
  refine ⟨?effect, ?exact, ?other, ?rings, ?bound⟩
  case effect => exact fun die task st r rest hstrand hfrozen hfirst => execFaultTakesEffect_freezes hstrand hfrozen hfirst
  case exact =>
    exact fun n r die task node key st hreq hsubject hstrand hlanded hwaits =>
      execFaultRecordWrite_exact hreq hsubject hstrand hlanded hwaits
  case other => exact fun n r hreq hsubject hwaits => execFaultRecordWrite_other hreq hsubject hwaits
  case rings =>
    intro die wafer hopen
    have hgoes : ¬(!s.checkOpen die wafer) = true := by
      rw [hopen, Bool.not_true]
      exact Bool.false_ne_true
    exact (if_neg hgoes).trans rfl
  case bound => exact fun n st i r hstrand hreq hdue => execTagWaitBound_reports hstrand hreq hdue

/-- Settles O44: both events answer `afterReset`, whose key of slot 0 is the free value that the device draws. -/
theorem resetEventsComplete : Obligations.ResetEventsComplete := by
  unfold Obligations.ResetEventsComplete
  exact fun s => ⟨s.freeBits 512, rfl, rfl⟩

/-- Settles O45: with its flag set Tchizer replies at once; a measurement is read by its index. -/
theorem spdmRequestsAnswered : Obligations.SpdmRequestsAnswered := by
  unfold Obligations.SpdmRequestsAnswered
  intro s q hslot hflag
  refine ⟨?requests, fun p => measurement_partition, measurement_firmware⟩
  have hask (r : Nat) : s.ask r q = s.reply r q := ask_answers hslot hflag
  exact ⟨congrArg Host.Outcome.next (hask 1), congrArg Host.Outcome.next (hask 2), congrArg Host.Outcome.next (hask 3),
    congrArg Host.Outcome.next (hask 4), congrArg Host.Outcome.next (hask 5), congrArg Host.Outcome.next (hask 6),
    congrArg Host.Outcome.next (hask 7), congrArg Host.Outcome.next (hask 8), congrArg Host.Outcome.next (hask 9)⟩
end
